-- ==== Sys2Proof/Word.lean ====
section
/-! DEFINITION. The word types of the register and memory model (R8, 00_scope). -/

namespace Sys2Proof

/-- One byte of memory (R8). -/
abbrev Byte := BitVec 8

/-- A 32-bit register word. -/
abbrev Word := BitVec 32

/-- A 64-bit word: addresses, cookies, hall times as fields. -/
abbrev DWord := BitVec 64

end Sys2Proof
end

