-- ==== Sys2Proof/Types.lean ====
section
/-! DEFINITION. The named alternatives of the specification and the operands of the commands. -/

namespace Sys2Proof

/-- The power states of R391. -/
inductive Mode where
  | off | standby | dormant | idle | active | frost | recovery
deriving DecidableEq, Repr

/-- The moduli sets of R78. -/
inductive MSet where
  | a | b | c | d
deriving DecidableEq, Repr

/-- The stall states of R73, in code order. -/
inductive StallState where
  | unloaded | loaded | suspect | spare | failed | retired
deriving DecidableEq, Repr

/-- The drop states of R36. -/
inductive Drop where
  | parked | half | full
deriving DecidableEq, Repr

/-- The weight formats of R107, in the code order of R165. -/
inductive WFmt where
  | int4 | int3 | int2 | ternary | nb4
deriving DecidableEq, Repr

/-- The source states of R292, in code order. -/
inductive SrcState where
  | off | warm | locking | locked | serving | worn | failed
deriving DecidableEq, Repr

/-- The port states of R244, in code order. -/
inductive PortState where
  | dark | training | up | express | down
deriving DecidableEq, Repr

/-- The lane states of OLE_LANE_STATE (R263), in code order. -/
inductive LaneState where
  | idle | active | dropped | dark
deriving DecidableEq, Repr

/-- The stack states of HMS_STACK_STATE (R234), in code order. -/
inductive StackState where
  | inService | failing | failed
deriving DecidableEq, Repr

/-- The tier states of LMS_STATE (R235), in code order. -/
inductive TierState where
  | inService | spillReserved | failed
deriving DecidableEq, Repr

/-- The ring states of HIF_RING_STATE (R353), in code order. -/
inductive RingState where
  | disabled | enabled | faulted
deriving DecidableEq, Repr

/-- The ring types of R329, in code order. -/
inductive RingType where
  | submission | completion | event | telemetry | ledger | bulk
deriving DecidableEq, Repr

/-- The states of TSL_SYNC (R193), in code order. -/
inductive SyncState where
  | free | acquiring | locked | holdover
deriving DecidableEq, Repr

/-- A session number's state (R317). -/
inductive SessState where
  | free | pending | isOpen
deriving DecidableEq, Repr

/-- The 17 event sources of R443, in source order. -/
inductive Src where
  | pma | cls | tdw | psr | squ | lge | xl | seq | tsl | hms | lms | ole | hif | cal | tps | msc | cp
deriving DecidableEq, Repr

/-- Which part of a matrix task a hold serves: its outputs and its chunk of 64 columns (R41, R42). -/
structure Tile where
  /-- R192 06 (graph slot). Reset: none held. -/
  slot : Nat := 0
  /-- R164 06. Reset: none held. -/
  task : Nat := 0
  /-- R41 02 first output of the tile. Reset: none held. -/
  outBase : Nat := 0
  /-- R41 02 outputs of the tile. Reset: none held. -/
  outCount : Nat := 0
  /-- R79 03 chunk index, 64 columns each. Reset: none held. -/
  chunk : Nat := 0
  /-- R42 02 the drive group that the tile is driven in, its member list of logical stalls; empty outside one. Reset: none held. -/
  group : List Nat := []
  /-- R42 02 place of this tile's stall in the member list. Reset: none held. -/
  member : Nat := 0
  /-- R42 02 the outputs that the group's joined outputs compute, in order. Reset: none held. -/
  joined : List Nat := []
deriving DecidableEq, Repr

/-- An update manifest (R418). -/
structure Manifest where
  /-- R418 17 MF_VERSION. Reset: none held. -/
  version : BitVec 8 := 1
  /-- R418 17 MF_COMPONENT. Reset: none held. -/
  component : BitVec 8 := 0
  /-- R418 17 MF_EDITION. Reset: none held. -/
  edition : BitVec 8 := 1
  /-- R418 17 MF_SIGNER. Reset: none held. -/
  signer : BitVec 8 := 1
  /-- R418 17 MF_VERSION_NO. Reset: none held. -/
  versionNo : Word := 0
  /-- R418 17 MF_SECURITY. Reset: none held. -/
  security : Word := 0
  /-- R418 17 MF_LENGTH. Reset: none held. -/
  length : Word := 0
  /-- R418 17 MF_DIGEST. Reset: none held. -/
  digest : List Byte := []
  /-- R418 17 MF_DEVICE. Reset: none held. -/
  device : List Byte := []
  /-- R418 17 MF_SIGNATURE. Reset: none held. -/
  signature : List Byte := []
deriving DecidableEq, Repr

/-- A control-port request as it arrives (R308), apart from its parameters. -/
structure Req where
  /-- Source MAC address. -/
  src : BitVec 48 := 0
  /-- Sent to the broadcast address (R307). -/
  bcast : Bool := false
  /-- HDR_SESSION. -/
  session : BitVec 16 := 0
  /-- HDR_SEQUENCE. -/
  seq : Word := 0
  /-- The TAGGED flag. -/
  tagged : Bool := false
  /-- What the tag check answers (R309): the tag equals the KMAC256 output under the session's key. -/
  tagOk : Bool := false
  /-- HDR_PLEN. -/
  plen : Nat := 0
  /-- The QUIET flag. -/
  quiet : Bool := false
  /-- HDR_HT_LOW. -/
  htLow : Word := 0
  /-- Immediate replies that wait to be sent as the request arrives (R312). -/
  behind : Nat := 0
deriving DecidableEq, Repr

/-- A control-port frame that is not one of the commands: what checks 1 to 5 of R311 see of it. -/
structure RawFrame where
  /-- Source MAC address. -/
  src : BitVec 48 := 0
  /-- Addressed to the module, or broadcast. -/
  toModule : Bool := true
  /-- Sent to the broadcast address. -/
  bcast : Bool := false
  /-- VID of the 802.1Q tag, if one is present. -/
  vid : Option (BitVec 12) := none
  /-- EtherType. -/
  etherType : BitVec 16 := 0x88B5
  /-- Bytes of Ethernet payload. -/
  payload : Nat := 46
  /-- HDR_VERSION. -/
  version : Byte := 1
  /-- HDR_FLAGS. -/
  flags : Byte := 0
  /-- HDR_SESSION. -/
  session : BitVec 16 := 0
  /-- HDR_SEQUENCE. -/
  seq : Word := 0
  /-- HDR_OPCODE. -/
  opcode : BitVec 16 := 0
  /-- HDR_PLEN. -/
  plen : Nat := 0
  /-- Fragment header: index, count and message length (R315). -/
  frag : Nat × Nat × Nat := (0, 1, 0)
deriving DecidableEq, Repr

/-- The path of a register access (R434): BAR0 with its byte enables (R435), or the control port for session `n + 1`. -/
inductive Path where
  | bar0 (be : BitVec 4)
  | cp (n : Fin 8)
deriving DecidableEq, Repr

/-- The path of a doorbell write (R333): BAR4, or the doorbell page of block 12. -/
inductive DbPath where
  | bar4
  | page (p : Path)
deriving DecidableEq, Repr

/-- A register of the gate list (R328). -/
inductive QbvReg where
  | ctrl | baseLo | baseHi | cycle | entry (i : Fin 64)
deriving DecidableEq, Repr

/-- How the host answers a bulk descriptor's accesses to host memory (R351): all of them, none after some bytes
(the descriptor waits), or UR or CA after some bytes. -/
inductive HostAns where
  | ok
  | silent (bytes : Nat)
  | aborted (bytes : Nat)
deriving DecidableEq, Repr

/-- What a start-up calibration or a reacquisition finds (R267 to R269). -/
structure CalObs where
  /-- Rows that fail: physical stall and physical row. -/
  fails : List (Nat × Nat) := []
  /-- Spare stalls that fail the same phases. -/
  spareFails : List Nat := []
  /-- Effective phase bits of rows, in 1/16 bit: row 68 g + r and figure (R278). -/
  epb : List (Nat × Nat) := []
  /-- Drop readings of stalls, in 0.1 uW (R285). -/
  drops : List (Nat × Nat) := []
  /-- A phase exceeded its bound (R424). -/
  slow : Bool := false
deriving DecidableEq, Repr

/-- What a system calibration step meets (R284). -/
structure SysObs where
  /-- The reacquisition that ends the step. -/
  cal : CalObs := {}
deriving DecidableEq, Repr

/-- Where a system calibration step comes from: the control port, with FULL's power and identifier, or CAL_CTRL (R284). -/
inductive SysVia where
  | cp (r : Req) (power : Word) (ref : List Word)
  | reg (p : Path) (w : Word)
deriving DecidableEq, Repr

/-- An IEEE 802.1AS message (R306). -/
inductive PtpMsg where
  /-- A Sync, with its Follow_Up where it is two-step: domain, log interval, and the offset from the grandmaster it gives, in ns. -/
  | sync (domain : Nat) (logInterval : Int) (offset : Int)
  /-- A peer-delay request. -/
  | pdelayReq (domain : Nat)
  /-- Any other message: an Announce, an answer to this module's peer-delay request. -/
  | other
deriving DecidableEq, Repr
/-- A slicer word that differs from the ideal one: logical stall, logical row, plane, word (R61). -/
structure SlicerDev where
  stall : Nat := 0
  row : Nat := 0
  plane : Nat := 0
  word : Word := 0
deriving DecidableEq, Repr

/-- Soft-value statistics of a row (R63, R278): logical stall and row, the decisions on planes of passes, and those with soft value below 32 and
below 48. -/
structure SoftCount where
  stall : Nat := 0
  row : Nat := 0
  all : Nat := 0
  below32 : Nat := 0
  below48 : Nat := 0
deriving DecidableEq, Repr

/-- An almanac PASS entry (R58) and what the light and the slicers do with it. -/
structure PassEntry where
  /-- The logical stalls driven, each with the tile the entry was compiled for: one stall, or a drive group (R42). -/
  stalls : List (Nat × Tile) := []
  /-- Vector index. -/
  vec : Nat := 0
  /-- Slicer words that differ from the level the taps add up to (R61, R63). -/
  dev : List SlicerDev := []
  /-- Soft-value statistics of rows (R63, R278). -/
  soft : List SoftCount := []
  /-- The LGE's capacity falls short of a substituted pass (R148). -/
  short : Bool := false
  /-- A withheld pass can use reserve work cycles of the epoch's span for its replay (R46, R91). -/
  reserve : Bool := false
deriving DecidableEq, Repr

/-- A decision of a probe that a slicer makes in one of its 65 symbols: physical stall, physical row, symbol, level (R65). A decision not
listed is the level that the row's held codes give. -/
structure ProbeDev where
  stall : Nat := 0
  row : Nat := 0
  symbol : Nat := 0
  level : Nat := 0
deriving DecidableEq, Repr

/-- The 64 decisions of a reading on one tap, in half-step mode: physical stall, physical row, column (64 for no column), and level and
soft value of each (R273, R274). A tap not listed stands exactly on its boundary. -/
structure ReadDev where
  stall : Nat := 0
  row : Nat := 0
  column : Nat := 0
  decisions : List (Nat × Nat) := []
deriving DecidableEq, Repr

/-- What a fallow slot meets on the light and on the stalls (R183). -/
structure SlotObs where
  /-- Decisions of the probes of stalls and of spares that differ from what their holds give (R65, R67). -/
  probes : List ProbeDev := []
  /-- Stalls whose shadow load in the slot is aborted by an empty queue or a parity error (R46, R57, R264). -/
  aborts : List Nat := []
  /-- The edition that CAL has built is not complete in both trim stores at the start of the slot (R266, R287). -/
  incomplete : Bool := false
  /-- Preloads for the first tiles of the new page: logical stall, tile, set (R53). -/
  preloads : List (Nat × Tile × MSet) := []
  /-- Decisions of the readings off their boundaries (R274, R280). -/
  errors : List ReadDev := []
  /-- Sources: source, bias in 0.5 %, line-0 offset in 10 MHz (R291, R304). -/
  sources : List (Nat × Nat × Int) := []
  /-- Spares that fail their spare check by a slice fault, a residual or their effective phase bits (R268, R280). -/
  checkFails : List Nat := []
  /-- Dropped or idle link lanes whose 8,192 test frames pass (R259). -/
  lanePasses : List Nat := []
  /-- Source pairs without 4 us left after steps 1 to 5 (R298). -/
  noTime : List Nat := []
  /-- Time without serving light in a planned takeover, in 0.1 us (R298, R304). -/
  takeoverDark : Nat := 40
  /-- Unit halves whose reset did not complete: block and half (R403). -/
  stuck : List (Nat × Nat) := []
  /-- The page was not built by the end of the slot (R424). -/
  unbuilt : Bool := false
deriving DecidableEq, Repr

/-- A frame as a lane's receiver takes it (R238, R240). -/
structure LinkFrame where
  /-- The lane. -/
  lane : Nat := 0
  /-- The 64b/66b sync headers are valid. -/
  sync : Bool := true
  /-- The 472 payload bytes. -/
  payload : List Byte := []
  /-- The check block (R238). -/
  check : DWord := 0
  /-- The lanes a SERVICE frame names, whose place in its payload the manual does not give. -/
  names : List Nat := []
  /-- The SERVICE frame names them as pausing (R301), not failing (R258). -/
  pausing : Bool := false
  /-- The frame carries the peer's report that it started the phase late (R256), whose place in it the manual does not give. -/
  late : Bool := false
deriving DecidableEq, Repr
/-- What the two ends of a port exchange and measure in training (R243). -/
structure TrainObs where
  /-- The peer's group ID. -/
  group : BitVec 16 := 0
  /-- The peer's group size. -/
  size : Nat := 1
  /-- The peer's module index. -/
  index : BitVec 4 := 0
  /-- The peer's port number. -/
  port : BitVec 2 := 0
  /-- The measured round trip, in work cycles. -/
  rtt : Nat := 0
  /-- Lanes with a CRC failure among the test frames, or not locked. -/
  failed : List Nat := []
deriving DecidableEq, Repr
/-- What the bring-up to IDLE meets: sources that do not lock within 100 ms (R293), sources' outputs at start-up in 0.1 uW (R304), and
the calibration (R267, R269). -/
structure BringUp where
  lockFails : List Nat := []
  starts : List (Nat × Nat) := []
  /-- Stacks whose interface training fails (R227). -/
  stackFails : List Nat := []
  /-- LPDDR5X packages whose training fails (R232). -/
  pkgFails : List Nat := []
  cal : CalObs := {}
deriving DecidableEq, Repr

/-- Who scheduled a memory read (R222). -/
inductive ReadUse where
  | task (slot task : Nat)
  | admission
  | bulkPort
  | bulk (ring : Nat)
  | ring (ring : Nat)
  | replay (die : Bool)
deriving DecidableEq, Repr

/-- Where a command's completion goes: the control port (session, source, sequence, opcode, quiet), or the completion ring linked to
a submission ring (R339). -/
inductive Origin where
  | cp (session : Nat) (dst : BitVec 48) (seq : Word) (opcode : BitVec 16) (quiet : Bool)
  | ring (ring : Nat) (cookie : DWord)
deriving DecidableEq, Repr

/-- The resets of R394. -/
inductive ResetKind where
  | powerOn | cold | warm | function
  | subsystem (block : Nat)
deriving DecidableEq, Repr

/-- The actions that begin 1 ms after the completion of their command (R323), and the sequences the module runs by itself. -/
inductive Action where
  | reset (k : ResetKind) (source : Nat)
  | powerOff
  | frost
  | thaw
  | recovery
deriving DecidableEq, Repr

/-- A command that is not immediate (R323), with its parameters: what the MSC executes. -/
inductive Job where
  | sessionOpen (nonce : List Byte) (key : DWord) (role : Byte) (kem : List Byte)
  | sessionConfirm (sig : List Byte)
  | sessionClose
  | attest (nonce : List Byte)
  | eventSubscribe (mask : Word) (enable : Bool)
  | graphSubmit (addr : DWord)
  | graphRun (id : Word)
  | graphRelease (id : Word)
  | graphReadmit (id : Word)
  | graphResume (id : Word)
  | unitTable (id : Word) (ring : BitVec 16)
  | regRead (addr : DWord) (count : BitVec 16)
  /-- `maintain`: the session it came in has role MAINTAIN (R316). -/
  | regWrite (addr : DWord) (words : List Word) (maintain : Bool)
  | memRead (addr : DWord) (len : Word)
  | memWrite (addr : DWord) (data : List Byte)
  | laneUnit (lane : Byte) (capture : DWord) (data : List Byte)
  | syscal (step : Byte) (power : Word) (ref : List Word) (o : SysObs)
  | linkGroup (id : BitVec 16) (size index : Byte)
  | linkTrain (ports : Byte)
  | frostEnter
  | thaw
  | reset (type block : Byte)
  | powerOff
  | calendarSet (secs : DWord) (ns : Word)
  | updateBegin (manifest : List Byte)
  | updateData (offset : Word) (data : List Byte)
  | updateFinish
  | updateAbort
  | recoveryEnter
  | ledgerBatch (ring b : BitVec 16)
  | ledgerClose (ring : BitVec 16)
  | journalRead (first : Word) (count : Byte)
  | pageDump (ring : BitVec 16)
deriving DecidableEq, Repr

/-- A frame the module sends (R308, R310). -/
structure Frame where
  /-- Destination MAC address. -/
  dst : BitVec 48
  /-- HDR_SESSION. -/
  session : Nat
  /-- HDR_SEQUENCE. -/
  seq : Word
  /-- HDR_OPCODE. -/
  opcode : BitVec 16
  /-- The TAGGED flag. -/
  tagged : Bool
  /-- The COMPLETION flag. -/
  completion : Bool
  /-- The EVENT flag. -/
  event : Bool
  /-- Bits [31:0] of hall time (HDR_HT_LOW). -/
  htLow : Word
  /-- The parameters: the reply prefix and the result, or the event record. -/
  params : List Byte
  /-- Index, count and message length of the fragment header in front of them, where the FRAG flag is set (R315). -/
  frag : Option (Nat × Nat × Nat) := none
  /-- PCP and VID of the 802.1Q tag, where the frame leaves with one (R307). -/
  vlan : Option (BitVec 3 × BitVec 12) := none
  /-- The 32-byte tag, where TAGGED is set (R309). -/
  tag : List Byte := []
deriving DecidableEq, Repr

/-- What leaves the module, as the outside sees it. -/
inductive Output where
  /-- A control-port frame. -/
  | frame (f : Frame)
  /-- An 802.1AS peer-delay request or answer, with PCP and VID of its 802.1Q tag (R306, R307). -/
  | pdelay (request : Bool) (vlan : Option (BitVec 3 × BitVec 12))
  /-- An MSI-X message (R343). -/
  | msix (vector : Nat)
  /-- A bulk-port read completion with data. -/
  | data (bytes : List Byte)
  /-- An Unsupported Request: a read of all ones, or a discarded write (R345). -/
  | ur
  /-- A Completer Abort (R222, R440). -/
  | ca
  /-- An output lane unit presented, or silence (R185). -/
  | lane (lane index : Nat) (unit : Option (List Byte))
  /-- A frame sent on a link lane (R238): its payload, its check block, and the lanes that a SERVICE frame names, as pausing or as failing
  (R258, R301). -/
  | link (lane : Nat) (payload : List Byte) (check : DWord) (names : List Nat) (pausing : Bool)
  /-- The probe of a DARK port (R261). -/
  | probe (port : Nat)
deriving DecidableEq, Repr

/-- What an event record names beside its bit (R341): the graph's slot, the task, the unit and logical stall, the status, and the
detail bytes where the block states its own. -/
structure EvInfo where
  /-- Slot of the resident graph named, if one is. -/
  graph : Option Nat := none
  /-- Task index. -/
  task : Nat := 0
  /-- Physical unit, if one is named. -/
  unit : Option Nat := none
  /-- Logical stall, 0xFFFF for none. -/
  logical : Nat := 0xFFFF
  /-- Status value involved. -/
  status : BitVec 16 := 0
  /-- Detail bytes other than the block's LAST registers. -/
  detail : Option (List Byte) := none
deriving DecidableEq, Repr

/-- When a bit's event record is written: at every occurrence, when the bit changes from 0 to 1, or never. -/
inductive RecRule where
  | each | edge | never
deriving DecidableEq, Repr

/-- What an access to one byte at a device address meets (R216, R217, R227, R228, R346). -/
inductive Place where
  /-- Device memory, under the key of the cell that serves it. -/
  | device (key : Nat)
  /-- Host memory through an enabled window, at a host bus address. -/
  | host (addr : Nat)
  | unmapped
  | registers
  | outOfService
  /-- A stack in FAILING. -/
  | failing
deriving DecidableEq, Repr


end Sys2Proof
end

