-- ==== Sys2Proof/Syntax.lean ====
section
/-! DEFINITION. The commands of the module: one constructor for each row of spec/opcode_table.json. -/

namespace Sys2Proof

/-- A command of the table. -/
inductive Instr where
  /-- STATUS (R323). Immediate command answered by the front end with state, throttle level, sync state, sessions, resident graphs, epoch and hall time. -/
  | status (r : Req)
  /-- TIME (R323). Immediate command returning hall time, calendar time, sync state and the calendar-set flag. -/
  | time (r : Req)
  /-- TEMPERATURE (R323). Immediate command returning the module maximum, the domain maxima and the throttle level. -/
  | temperature (r : Req)
  /-- STOP_BOUNDARY (R322). STOP mode 0x00: no run starts from the next boundary, runs in progress complete, and every resident graph enters PAUSED. -/
  | stopBoundary (r : Req)
  /-- STOP_NOW (R322). STOP mode 0x01: executors issue no further task entries, incomplete tasks end with STOPPED, and every graph enters PAUSED. -/
  | stopNow (r : Req)
  /-- RESULT (R320). Resends the cached completion of a named sequence, or reports ACCEPTED or PARAM_INVALID. -/
  | result (r : Req) (seq : Word)
  /-- SESSION_OPEN (R317). Assigns a session number, encapsulates to the host's ML-KEM key, signs the transcript and leaves the session pending, or refuses with KEY_UNKNOWN or SESSION_SLOTS. -/
  | sessionOpen (r : Req) (nonce : List Byte) (key : DWord) (role : Byte) (kem : List Byte)
  /-- SESSION_CONFIRM (R317). Verifies the host signature over the transcript and the enrolled role, then opens the session. -/
  | sessionConfirm (r : Req) (sig : List Byte)
  /-- SESSION_CLOSE (R318). Ends the session; pending commands complete but their completions are not sent. -/
  | sessionClose (r : Req)
  /-- ATTEST (R417). Returns the identity-key-signed attestation report in 7 fragments. -/
  | attest (r : Req) (nonce : List Byte)
  /-- EVENT_SUBSCRIBE (R321). Sets the session's block mask for event-frame copies of event records. -/
  | eventSubscribe (r : Req) (mask : Word) (enable : Bool)
  /-- GRAPH_SUBMIT (R169). Runs the admission checks on a graph descriptor and either admits the graph whole or refuses it with a status and detail word. -/
  | graphSubmit (r : Req) (addr : DWord)
  /-- GRAPH_RUN (R162). Requests a run of an on-request graph at the next boundary; refused with GRAPH_PERIODIC for periodic graphs. -/
  | graphRun (r : Req) (id : Word)
  /-- GRAPH_RELEASE (R323). Ends a graph's residence once any run in progress completes. -/
  | graphRelease (r : Req) (id : Word)
  /-- GRAPH_READMIT (R229). Re-runs admission for a HELD graph under the spilled or reduced memory. -/
  | graphReadmit (r : Req) (id : Word)
  /-- GRAPH_RESUME (R322). Returns one graph, or all graphs, from PAUSED at the next boundary. -/
  | graphResume (r : Req) (id : Word)
  /-- UNIT_TABLE (R225). Dumps a graph's staging unit table as unit-table entries to a telemetry ring. -/
  | unitTable (r : Req) (id : Word) (ring : BitVec 16)
  /-- REG_READ (R323). Reads 1 to 126 register words in ascending order over the control port. -/
  | regRead (r : Req) (addr : DWord) (count : BitVec 16)
  /-- REG_WRITE (R323). Writes 1 to 349 register words in ascending order over the control port, with MAINTAIN required for block 15. -/
  | regWrite (r : Req) (addr : DWord) (words : List Word)
  /-- MEM_READ (R323). Reads up to 504 bytes of device memory over the control port. -/
  | memRead (r : Req) (addr : DWord) (len : Word)
  /-- MEM_WRITE (R26). Writes up to 1,396 bytes of device memory with the effect of a memory-window write. -/
  | memWrite (r : Req) (addr : DWord) (data : List Byte)
  /-- LANE_UNIT (R184). Files one input unit with its capture time in a stream lane buffer. -/
  | laneUnit (r : Req) (lane : Byte) (capture : DWord) (data : List Byte)
  /-- SYSCAL_ZERO (R284). System-calibration step ZERO: combs off, dark dwell on photonic monitor inputs, then relock and reacquisition. -/
  | syscalZero (v : SysVia) (o : SysObs)
  /-- SYSCAL_FULL (R284). System-calibration step FULL: checks the reference laser, then dwells on each drop monitor with the reference light. -/
  | syscalFull (v : SysVia) (o : SysObs)
  /-- SYSCAL_COMMIT (R284). System-calibration step COMMIT: the MSC writes the monitor calibration record and the new zeros and gains take effect. -/
  | syscalCommit (v : SysVia)
  /-- SYSCAL_ABANDON (R284). System-calibration step ABANDON: discards the ZERO and FULL steps. -/
  | syscalAbandon (v : SysVia)
  /-- LINK_GROUP (R242). Sets the group ID, size and module index (as an OLE_GROUP write), or is refused while a multi-module graph is resident. -/
  | linkGroup (r : Req) (id : BitVec 16) (size index : Byte)
  /-- LINK_TRAIN (R243). Retrains the named ports (as OLE_TRAIN_GO), or is refused while a multi-module graph is resident. -/
  | linkTrain (r : Req) (ports : Byte)
  /-- FROST_ENTER (R365). MAINTAIN command that completes and then places the module in Frost. -/
  | frostEnter (r : Req)
  /-- THAW (R368). Accepted in FROST below 85 °C; completes and then performs a cold restart to IDLE. -/
  | thaw (r : Req)
  /-- RESET_POWER_ON (R394). Cycles every rail group above G0 and restarts the MSC from mask ROM to STANDBY. -/
  | resetPowerOn (r : Req)
  /-- RESET_COLD (R394). Cycles G4 and G5, reinitialises memory, restarts with measured boot and runs full start-up calibration to IDLE. -/
  | resetCold (r : Req)
  /-- RESET_WARM (R394). Resets blocks 0–7, 9–11 and 13 with memory in self-refresh; graphs leave residence; also the exit from DORMANT. -/
  | resetWarm (r : Req)
  /-- RESET_FUNCTION (R400). Resets the bulk port function, disabling host windows and their rings and ending bulk descriptors. -/
  | resetFunction (r : Req)
  /-- RESET_SUBSYSTEM (R399). Resets one allowed register block, or one half of it, with the per-block effects of the table. -/
  | resetSubsystem (r : Req) (block : Byte)
  /-- POWER_OFF (R392). Takes the module to OFF through the input-interruption sequence. -/
  | powerOff (r : Req)
  /-- CALENDAR_SET (R388). Sets the calendar and the calendar-set flag and records the old and new values. -/
  | calendarSet (r : Req) (secs : DWord) (ns : Word)
  /-- UPDATE_BEGIN (R419). Offers a manifest, which is held until its arbitration interval ends. -/
  | updateBegin (r : Req) (manifest : List Byte)
  /-- UPDATE_DATA (R421). Programs image bytes at the next offset of the inactive slot and marks the slot unverified. -/
  | updateData (r : Req) (offset : Word) (data : List Byte)
  /-- UPDATE_FINISH (R422). Verifies the slot digest; then puts a record in force or schedules the component's switch. -/
  | updateFinish (r : Req)
  /-- UPDATE_ABORT (R420). Ends the update session and releases the update lock. -/
  | updateAbort (r : Req)
  /-- RECOVERY_ENTER (R392). MAINTAIN command that completes and then places the module in RECOVERY. -/
  | recoveryEnter (r : Req)
  /-- LEDGER_BATCH (R212). Sets batch size B of a ledger ring, closing the open batch if it already holds B records. -/
  | ledgerBatch (r : Req) (ring : BitVec 16) (b : BitVec 16)
  /-- LEDGER_CLOSE (R212). Closes a non-empty open batch of a ledger ring so that it is signed. -/
  | ledgerClose (r : Req) (ring : BitVec 16)
  /-- JOURNAL_READ (R428). Returns 1 to 7 journal records from a slot number. -/
  | journalRead (r : Req) (first : Word) (count : Byte)
  /-- PAGE_DUMP (R180). Arms a copy of the next page built to a telemetry ring, as SEQ_DUMP_GO does. -/
  | pageDump (r : Req) (ring : BitVec 16)
  /-- MESSAGE_FRAGMENT (R315). Takes one fragment of a multi-frame message and reassembles it by source MAC, opcode and sequence. -/
  | messageFragment (r : Req) (opcode : BitVec 16) (index count : Byte) (length : BitVec 16) (data : List Byte)
  /-- FRAGMENT_TIMEOUT (R315). Discards a message not complete within 100 ms, without a reply. -/
  | fragmentTimeout (i : Nat)
  /-- SESSION_CONFIRM_TIMEOUT (R317). Returns a pending session number to the free pool 1 s after SESSION_OPEN without a valid confirm. -/
  | sessionConfirmTimeout (n : Nat)
  /-- SESSION_IDLE_TIMEOUT (R318). Ends a session after 300 s without an accepted tagged request. -/
  | sessionIdleTimeout (n : Nat)
  /-- PTP_MESSAGE (R306). TSL takes an 802.1AS frame and disciplines hall time by slewing, or steps it when no graph is resident. -/
  | ptpMessage (m : PtpMsg)
  /-- PDELAY_REQUEST_TIMER (R306). The module initiates its own 802.1AS peer-delay request. -/
  | pdelayRequestTimer
  /-- GRANDMASTER_LOSS (R182). Hall time enters holdover and TSL_SYNC_LOST is set. -/
  | grandmasterLoss
  /-- CONTROL_LINK_DOWN (R327). The 1000BASE-T1 link goes down; sessions persist and hall time goes to holdover. -/
  | controlLinkDown
  /-- CONTROL_LINK_UP (R305). The 1000BASE-T1 PHY link comes up. -/
  | controlLinkUp (sqi : BitVec 3)
  /-- EVENT_COPY_DROP (R321). An event-frame copy not sent within 1 ms is dropped and counted. -/
  | eventCopyDrop (n : Nat)
  /-- QBV_CYCLE_START (R314). A gate-list cycle begins on hall time and the IMM and OTHER gates follow the list entries. -/
  | qbvCycleStart
  /-- PMA_MAP_REQ_PROBE (R76). PMA_MAP_REQ action 0b000: the named stall enters SUSPECT and is probed in the next fallow slot, or the request is refused. -/
  | pmaMapReqProbe (p : Path) (phys : BitVec 10)
  /-- PMA_MAP_REQ_MAP_OUT (R76). PMA_MAP_REQ action 0b001: the stall enters SUSPECT with its probe result treated as needing a spare stall. -/
  | pmaMapReqMapOut (p : Path) (phys : BitVec 10)
  /-- TDW_CLR_STATS (R77). Clears TDW_REFRESH_WORST and TDW_ERR_COUNT. -/
  | tdwClrStats (p : Path) (w : Word)
  /-- SQU_CLR_STATS (R135). Clears the four SQU counters and SQU_LAST_EVENT. -/
  | squClrStats (p : Path) (w : Word)
  /-- LGE_CLR_STATS (R160). Clears the LGE counters. -/
  | lgeClrStats (p : Path) (w : Word)
  /-- XL_CLR_STATS (R161). Clears the XL counters and XL_LAST_EVENT. -/
  | xlClrStats (p : Path) (w : Word)
  /-- SEQ_CLR_STATS (R192). Clears SEQ_OVERRUNS and SEQ_LAPSES. -/
  | seqClrStats (p : Path) (w : Word)
  /-- HMS_CLR_STATS (R234). Clears the HMS counters and HMS_LAST_ERR. -/
  | hmsClrStats (p : Path) (w : Word)
  /-- LMS_CLR_STATS (R235). Clears the LMS counters and LMS_LAST_ERR. -/
  | lmsClrStats (p : Path) (w : Word)
  /-- OLE_CLR_STATS (R263). Clears the OLE counters and OLE_LAST_HOLD. -/
  | oleClrStats (p : Path) (w : Word)
  /-- CAL_CLR_STATS (R288). Clears CAL_START_FAILS and the per-stall counts. -/
  | calClrStats (p : Path) (w : Word)
  /-- CLS_CLR_STATS (R304). Clears CLS_HOLD_CYCLES and CLS_LAST_TAKEOVER. -/
  | clsClrStats (p : Path) (w : Word)
  /-- HIF_CP_CLR_STATS (R328). Clears the three control-port counters. -/
  | hifCpClrStats (p : Path) (w : Word)
  /-- HIF_CLR_STATS (R353). Clears HIF_EVENTS_LOST. -/
  | hifClrStats (p : Path) (w : Word)
  /-- TPS_CLR_STATS (R370). Clears TPS_THROTTLE_CYCLES and TPS_FROSTS. -/
  | tpsClrStats (p : Path) (w : Word)
  /-- TPS_PWR_CLR_STATS (R390). Clears TPS_PWR_PEAK and TPS_PWR_EXCURSIONS. -/
  | tpsPwrClrStats (p : Path) (w : Word)
  /-- TSL_EPOCH_LEN_WRITE (R181). Sets a new epoch length that takes effect at its next multiple, or is refused while a graph is resident. -/
  | tslEpochLenWrite (p : Path) (w : Word)
  /-- TSL_LANE_WRITE (R193). Configures a stream lane, or is ignored with TSL_LANE_REFUSED while a resident graph binds the lane. -/
  | tslLaneWrite (p : Path) (lane : Fin 48) (reg : Fin 7) (w : Word)
  /-- OLE_REST_WRITE (R246). Writes the rest switch setting or lane map, or is refused while a multi-module graph is resident. -/
  | oleRestWrite (p : Path) (reg : Fin 5) (w : Word)
  /-- CLS_TAKEOVER_GO (R302). Requests a planned takeover of the named serving source, or is refused. -/
  | clsTakeoverGo (p : Path) (w : Word)
  /-- HIF_RING_ENABLE (R334). Enables a ring with its configured type, size and base, claiming staging units if needed. -/
  | hifRingEnable (p : Path) (ring : BitVec 14) (w : Word)
  /-- HIF_RING_DISABLE (R334). Disables a ring unless a graph or register names it; for a ledger ring the open batch is dropped. -/
  | hifRingDisable (p : Path) (ring : BitVec 14) (w : Word)
  /-- HIF_DOORBELL (R333). Host writes its new ring index, which is checked and either advances the index or faults the ring. -/
  | hifDoorbell (p : DbPath) (ring : BitVec 14) (v : Word)
  /-- HIF_WINDOW_WRITE (R346). Configures a host window, or is ignored while a ring, descriptor or graph uses it. -/
  | hifWindowWrite (p : Path) (win : BitVec 6) (reg : Fin 3) (w : Word)
  /-- HIF_QBV_WRITE (R314). Writes the 802.1Qbv gate list, or is ignored while the list is enabled. -/
  | hifQbvWrite (p : Path) (reg : QbvReg) (w : Word)
  /-- HIF_IRQ_WRITE (R444). Write to HIF_IRQ_EN or HIF_IRQ_CTRL that sends the vector of any source found pending. -/
  | hifIrqWrite (p : Path) (src : Option (Fin 17)) (w : Word)
  /-- TPS_FLOOR_WRITE (R363). Sets the throttle floor, which acts as a level rise or a stepped fall. -/
  | tpsFloorWrite (p : Path) (w : Word)
  /-- MSC_DORMANT_REQUEST (R393). MSC_STATE_CTRL request to enter DORMANT: sources off, retention copies made, memory to self-refresh, G5 and G4 down. -/
  | mscDormantRequest (p : Path) (w : Word)
  /-- W1C_CLEAR (R9). Host write of 1s to an event-status register clears bits, unless hardware sets them in the same clock, and may resend a vector. -/
  | w1cClear (p : Path) (src : Fin 17) (w hw : Word)
  /-- SCALE_DATA_READ (R135). A read of SQU_SCALE_DATA0 captures the selected scale record for the four data words. -/
  | scaleDataRead (p : Path)
  /-- LATCHED_LOW_READ (R438). A read of a latching low word fills the reading source's latch for its high word. -/
  | latchedLowRead (p : Path) (off : BitVec 24)
  /-- PLAIN_REGISTER_WRITE (R437). All-or-nothing write to a register that has no behaviour of its own, with invalid encodings recorded. -/
  | plainRegisterWrite (p : Path) (off : BitVec 24) (w : Word)
  /-- APERTURE_READ (R345). Host read through the BAR2 aperture of device memory, or an Unsupported Request. -/
  | apertureRead (off : BitVec 34) (len : Nat)
  /-- APERTURE_WRITE (R345). Host write through the BAR2 aperture with memory-window effect, or an Unsupported Request. -/
  | apertureWrite (off : BitVec 34) (data : List Byte)
  /-- MSIX_UNMASK (R444). Unmasking an MSI-X vector whose Pending Bit is set sends its message. -/
  | msixUnmask (v : BitVec 6)
  /-- SUBMISSION_ENTRY (R339). Fetches a submission entry and executes its command as in an OPERATE session, posting the result in a completion entry. -/
  | submissionEntry (ring : BitVec 14)
  /-- BULK_COPY (R349). Bulk descriptor COPY, checked whole, then moving bytes outside the almanac. -/
  | bulkCopy (ring : BitVec 14) (h : HostAns)
  /-- BULK_FILL (R349). Bulk descriptor FILL with an 8-byte pattern. -/
  | bulkFill (ring : BitVec 14) (h : HostAns)
  /-- BULK_LANE_UNIT (R349). Bulk descriptor that files one lane unit by its capture time. -/
  | bulkLaneUnit (ring : BitVec 14) (h : HostAns)
  /-- BULK_WEIGHT_LOAD (R464). Bulk weight load that checks ternary codes, writes row sums and records region digests. -/
  | bulkWeightLoad (ring : BitVec 14) (h : HostAns)
  /-- BULK_HOST_TIMEOUT (R351). A host completion not received within 50 ms ends the descriptor with HW_UNIT_FAULT. -/
  | bulkHostTimeout (ring : BitVec 14)
  /-- RING_ROOM_RETURN (R337). Room returns in a module-produced ring; a gap record, a waiting signature record or a waiting entry proceeds. -/
  | ringRoomReturn (ring : BitVec 14)
  /-- MSIX_MODERATION_TIMEOUT (R336). The oldest unsignalled ring entry has waited HIF_RM_TIME µs and the ring's vector is sent. -/
  | msixModerationTimeout (ring : BitVec 14)
  /-- SHADOW_LOAD (R44). Almanac LOAD entry: the row DACs write a stall's shadow holds from the residue converter, one tap per sample. -/
  | shadowLoad (l : Nat) (t : Tile) (set : MSet) (abort : Bool)
  /-- SHADOW_LOAD_COMPLETE (R52). After 64 work cycles the shadow hold is valid and SHADOW_VALID is set. -/
  | shadowLoadComplete (l : Nat)
  /-- SWAP (R50). Almanac SWAP entry: front and shadow exchange roles in one symbol. -/
  | swap (l : Nat)
  /-- PASS (R58). Almanac PASS entry: activation bit-planes are driven through a stall and the slicers decide levels. -/
  | pass (p : PassEntry)
  /-- CHUNK_RECONSTRUCTION (R84). Completion of plane combining and CRT reconstruction with tally and chunk-bound checks, then accumulation or a replay request. -/
  | chunkReconstruction (reserve : Bool)
  /-- OPTICAL_REPLAY (R91). A stall pass is re-driven in its reserve work cycles. -/
  | opticalReplay (dev : List SlicerDev)
  /-- ELECTRONIC_REPLAY (R92). The replay unit serves a queued stall pass and computes its exact chunk sums. -/
  | electronicReplay (die : Bool)
  /-- REPLAY_DEADLINE (R95). A replay's sums are missing at its deadline and a replay hold begins. -/
  | replayDeadline
  /-- REPLAY_HOLD_END (R95). The last late sum enters its accumulator and the almanac resumes. -/
  | replayHoldEnd
  /-- RAMP_FILL (R187). Almanac RAMP_FILL entry: a fixed column pattern is driven and its slicer words are discarded. -/
  | rampFill (l : Nat)
  /-- LGE_ENTRY (R141). Almanac LGE entry: product tables are built and looked up to form exact sums. -/
  | lgeEntry (slot task : Nat)
  /-- SUBSTITUTION_HOLD_END (R148). The substituted passes catch up and the substitution hold ends. -/
  | substitutionHoldEnd
  /-- XL_ENTRY (R154). Almanac XL entry: a fixed-order exact-lane operator is evaluated. -/
  | xlEntry (slot task : Nat)
  /-- SQU_ENTRY (R132). Almanac SQU entry: zero-point correction, rescale, outlier join and conversion to the output format. -/
  | squEntry (slot task : Nat)
  /-- TRANSFER_ENTRY (R466). Almanac TRANSFER entry: moves bytes or list entries, and for a weight load checks codes and writes row sums. -/
  | transferEntry (slot task : Nat)
  /-- LINK_ENTRY (R251). Almanac LINK entry: a collective begins at its rendezvous cycle and runs its phases and reconfigurations. -/
  | linkEntry (slot task : Nat)
  /-- LANE_ENTRY (R184). Almanac LANE entry: a LANE_IN reads its window, zero-filling missing units, or a LANE_OUT writes its units. -/
  | laneEntry (slot task : Nat)
  /-- HBM_REFRESH (R224). Frame entry issuing per-bank HBM3E refresh. -/
  | hbmRefresh
  /-- LPDDR_REFRESH (R224). Frame entry issuing per-bank LPDDR5X refresh. -/
  | lpddrRefresh
  /-- HOLD_REFRESH (R54). Frame entry in which a DAC rewrites a valid hold from its code store. -/
  | holdRefresh (l : Nat) (shadow : Bool)
  /-- REFRESH_LATE (R55). A hold that has gone 50 µs without refresh is refreshed at the next free DAC cycle and REFRESH_LATE is set. -/
  | refreshLate (g : Nat) (shadow : Bool)
  /-- EPOCH_BOUNDARY (R181). At a hall-time multiple of L the new epoch opens; the spare map, trim edition, set plan and page take effect and due runs start. -/
  | epochBoundary
  /-- FALLOW_SLOT_BEGIN (R183). The fallow slot begins and runs its ordered maintenance steps until the boundary. -/
  | fallowSlotBegin (o : SlotObs)
  /-- EPOCH_OVERRUN (R188). The fallow slot has not begun 5 µs before the boundary; EPOCH_OVERRUN is raised. -/
  | epochOverrun
  /-- SHORT_FALLOW_SLOT (R189). After an overrun, the epoch's work completes and a 5 µs slot with steps 1–4 follows. -/
  | shortFallowSlot (o : SlotObs)
  /-- LATE_BOUNDARY (R189). The next epoch opens at the end of the short fallow slot with a lag. -/
  | lateBoundary
  /-- LANE_UNIT_PRESENT (R185). At its presentation time an output lane unit is presented, or late or silent. -/
  | laneUnitPresent (lane : Nat)
  /-- TAG_RECORD_WRITE (R211). The result digest completes, the tag record is written to the ledger ring and copied to the MSC. -/
  | tagRecordWrite (slot task : Nat)
  /-- LEDGER_BATCH_TIMEOUT (R212). A batch whose first record is 1 s old closes. -/
  | ledgerBatchTimeout (ring : BitVec 14)
  /-- SIGNATURE_RECORD (R212). The MSC completes signing a batch and writes the 22-entry signature record. -/
  | signatureRecord (ring : BitVec 14)
  /-- PARITY_REREAD (R221). A word that failed parity is reread in the reserved share. -/
  | parityReread (addr : Nat) (use : ReadUse) (tries : Nat)
  /-- PERSISTENT_ERROR (R222). No reread passes by offset 40; the task ends with HW_READ_PARITY. -/
  | persistentError (addr : Nat) (use : ReadUse)
  /-- STACK_FAIL (R227). 16 persistent errors in 16 epochs place a stack in FAILING. -/
  | stackFail (n : Nat)
  /-- STACK_CA_PARITY_LOSS (R227). The controller reports unrecovered command and address parity loss and the stack fails. -/
  | stackCaParityLoss (n : Nat)
  /-- LPDDR_PACKAGE_FAIL (R232). An LPDDR5X package fails and the tier leaves service at the next boundary. -/
  | lpddrPackageFail (n : Nat)
  /-- FRAME_DATA (R240). A DATA frame is accepted into the receive area or discarded with a resend request. -/
  | frameData (f : LinkFrame)
  /-- FRAME_IDLE (R240). An IDLE frame carrying acknowledgement is accepted. -/
  | frameIdle (f : LinkFrame)
  /-- FRAME_RESEND_REQ (R254). A peer's request causes the named frame to be resent on its lane. -/
  | frameResendReq (f : LinkFrame)
  /-- FRAME_SERVICE (R258). A SERVICE frame names a lane failing or pausing. -/
  | frameService (f : LinkFrame)
  /-- LANE_LOCK_LOSS (R258). A receiver out of lock for more than 1 µs fails its lane. -/
  | laneLockLoss (lane : Nat)
  /-- LANE_DISCARD_LIMIT (R258). A lane's ninth discarded frame in an epoch fails the lane. -/
  | laneDiscardLimit (lane : Nat)
  /-- LANE_PAUSE_END (R301). The 10 µs suspension of the lock-loss test ends. -/
  | lanePauseEnd (lane : Nat)
  /-- PORT_LIGHT_ARRIVAL (R243). Light reaches a port's receiver and training starts. -/
  | portLightArrival (port : Nat)
  /-- PORT_TRAINING_DONE (R243). Training completes and the port enters UP or DOWN. -/
  | portTrainingDone (port : Nat) (o : TrainObs)
  /-- LOSS_OF_SIGNAL (R261). Receive power below −30 dBm for 100 µs; APR parks or blocks the port, which goes DARK. -/
  | lossOfSignal (port : Nat)
  /-- APR_PROBE (R261). A DARK port emits its 2 ms probe once per second. -/
  | aprProbe (port : Nat)
  /-- PORT_POWER_MONITOR_TRIP (R260). The hardware monitor above 9.0 mW parks the modulators and blocks the port. -/
  | portPowerMonitorTrip (port : Nat)
  /-- RECONFIGURATION_DEADLINE (R247). At 3.0 µs, lanes not yet verified are failed for the phase. -/
  | reconfigurationDeadline
  /-- PHASE_WINDOW_END (R256). A collective phase's window ends; missing frames start a link hold. -/
  | phaseWindowEnd
  /-- LINK_HOLD_END (R256). The last frame is accepted and the link hold ends. -/
  | linkHoldEnd
  /-- LINK_HOLD_TIMEOUT (R257). A link hold of 1 ms ends the collective with HW_LINK_FAILED on modules missing frames. -/
  | linkHoldTimeout
  /-- SPARE_LOCKED (R297). A spare source reaches LOCKED. -/
  | spareLocked (src : Nat)
  /-- SOURCE_LOCK_TIMEOUT (R293). A source that does not lock within 100 ms at start-up enters FAILED. -/
  | sourceLockTimeout (src : Nat)
  /-- LIGHT_TRIP (R299). A dim decision or the monitor comparator trips the arcade: combiner to spare and a light hold. -/
  | lightTrip (arcade : Nat)
  /-- LIGHT_HOLD_END (R299). The spare serves, drop loops settle and the dim check passes; the hold ends. -/
  | lightHoldEnd (arcade : Nat)
  /-- SPARE_LOCK_FAIL (R300). A spare fails to lock within 250 µs of a trip. -/
  | spareLockFail (arcade : Nat)
  /-- SOURCE_WORN (R298). The former source finishes ramping down and enters WORN. -/
  | sourceWorn (src : Nat)
  /-- SPARE_SOURCE_FAIL (R300). A spare fails while in WARM, LOCKING or LOCKED and CLS_NO_SPARE is set. -/
  | spareSourceFail (src : Nat)
  /-- LINK_SOURCE_FAIL (R301). A link source fails suddenly and its eight lanes fail. -/
  | linkSourceFail (src : Nat)
  /-- STARTUP_CALIBRATION (R267). Once every source pair has settled, the seven calibration phases begin. -/
  | startupCalibration
  /-- STARTUP_CALIBRATION_DONE (R267). The built edition becomes current and CAL_STARTUP_DONE is set. -/
  | startupCalibrationDone (o : CalObs)
  /-- REACQUISITION (R269). Heaters are swept around their stored settings and phases 5 and 7 run. -/
  | reacquisition
  /-- REACQUISITION_DONE (R269). Reacquisition completes, or falls back to the full sequence. -/
  | reacquisitionDone (o : CalObs)
  /-- MONITOR_ADC_SAMPLE (R281). A converter samples the next monitor input in its fixed scan. -/
  | monitorAdcSample (input : Nat) (raw : Nat)
  /-- MONITOR_INPUT_FAULT (R282). An input railed for 8 consecutive scans is faulted. -/
  | monitorInputFault (input : Nat)
  /-- ZONE_LOOP_EXIT (R271). After 64 epochs within ±1.5 mrad the zone returns to FEED and κ is refitted. -/
  | zoneLoopExit (zone : Nat)
  /-- WEAK_ROW (R279). A row 0.5 bit below its arcade median for 4 spans becomes weak and its stall is probed. -/
  | weakRow (g row : Nat)
  /-- SENSOR_SAMPLE (R357). A temperature sensor sample updates the maxima, levels and heater feed. -/
  | sensorSample (i : Nat) (temp : Int)
  /-- THERMAL_LEVEL_LEAVE (R358). After 10 ms at least 3 °C below its threshold, a domain leaves the level. -/
  | thermalLevelLeave (d : Nat)
  /-- THROTTLE_STEP_DOWN (R361). Every 100 µs of a fall, k drops by at most 6. -/
  | throttleStepDown
  /-- FAST_SAMPLING_END (R357). The 100 ms of 16 kHz sampling after a fast change ends. -/
  | fastSamplingEnd (d : Nat)
  /-- SENSOR_INVALID (R355). A sensor is judged invalid and excluded from every maximum. -/
  | sensorInvalid (i : Nat)
  /-- HARDWARE_TRIP (R367). A sensor at 115 °C removes every supply but the backup domain and latches the trip. -/
  | hardwareTrip (i : Nat) (temp : Int)
  /-- MSC_ACTION_START (R323). 1 ms after its completion, the action of RESET, POWER_OFF, FROST_ENTER, THAW or RECOVERY_ENTER begins. -/
  | mscActionStart
  /-- PWR_EN_ASSERT (R374). Power enable asserted, allowing start-up once the input qualifies. -/
  | pwrEnAssert
  /-- PWR_EN_DEASSERT (R451). Power enable deasserted for more than 100 µs while running; input interruption with cause 0x04. -/
  | pwrEnDeassert
  /-- INPUT_QUALIFIED (R374). Input within 42–60 V for 50 ms with PWR_EN; the hot-swap stage starts and the rails come up. -/
  | inputQualified
  /-- INPUT_UNDERVOLTAGE (R373). Input below 36 V for 20 µs; input interruption with cause 0x01. -/
  | inputUndervoltage
  /-- INPUT_OVERVOLTAGE (R373). Input above 62 V for 50 µs; input interruption with cause 0x02. -/
  | inputOvervoltage
  /-- BREAKER_TRIP (R375). The electronic breaker opens on overcurrent; cause 0x03. -/
  | breakerTrip
  /-- REVERSE_CURRENT (R376). The hot-swap switch opens on reverse current above 1 A. -/
  | reverseCurrent
  /-- RAIL_FAULT (R383). A rail not at 90% within 5 ms stops sequencing and leaves the module in STANDBY. -/
  | railFault (group : Nat)
  /-- RAIL_DROOP (R383). A rail below 85% while its group is up causes an input interruption with cause 0x06. -/
  | railDroop (group : Nat)
  /-- TELEMETRY_SAMPLE (R379). Primary-side averages arrive every 10 µs; P100 is updated and the fast rule applied. -/
  | telemetrySample (v i : Nat)
  /-- P1S_UPDATE (R379). Every 1 ms P1s is updated and the sustained and release rules applied. `p` is the figure that the TPS forms of the
  1 MHz samples, in W. -/
  | p1sUpdate (p : Nat)
  /-- EXCURSION_STEP (R380). An excursion reaches 10 ms, or a further 5 ms, and L_p rises. -/
  | excursionStep
  /-- ENERGY_LIMIT_SHUTDOWN (R381). An excursion at 20 ms, or P100 over 1,150 W for 1 ms, with L_p at 3 causes an input interruption with cause 0x05. -/
  | energyLimitShutdown
  /-- TELEMETRY_LOSS (R382). No telemetry for 100 µs sets L_p to 3 and TPS_ISO_FAULT. -/
  | telemetryLoss
  /-- TELEMETRY_RETURN (R382). Telemetry back for 10 ms re-enables the release rule. -/
  | telemetryReturn
  /-- BACKUP_DOMAIN_POWER_ON (R387). The backup domain powers on again; the calendar restarts from 0 and its flag clears. -/
  | backupDomainPowerOn
  /-- SUPERCAP_LOW (R385). The supercapacitor falls below 2.2 V without VBAT_EXT and TPS_BACKUP_LOW is set. -/
  | supercapLow (cap ext : Nat)
  /-- RESET_N_PULSE (R451). A low pulse of at least 1 µs on RESET_N in IDLE or ACTIVE performs a cold reset. -/
  | resetNPulse
  /-- RESET_N_RELEASE (R451). Release of RESET_N held low in STANDBY begins the transition to IDLE. -/
  | resetNRelease
  /-- PERST_ASSERT (R451). PERST# performs a function reset unless the bulk port is strapped off. -/
  | perstAssert
  /-- PCIE_FLR (R394). A Function Level Reset performs a function reset. -/
  | pcieFlr
  /-- PCIE_HOT_RESET (R394). A PCIe hot reset performs a function reset. -/
  | pcieHotReset
  /-- STANDBY_EXIT (R392). After measured boot, the module brings up G2–G5, memory, sources and calibration, and moves to IDLE. -/
  | standbyExit (o : BringUp)
  /-- UNIT_WATCHDOG_EXPIRY (R402). A unit 64 work cycles late acknowledging an entry becomes FAULTED and its tasks end with HW_UNIT_FAULT. -/
  | unitWatchdogExpiry (block half : Nat)
  /-- MSC_WATCHDOG_EXPIRY (R404). An MSC core not servicing its watchdog for 20 ms restarts, or enters RECOVERY on the third restart in 60 s. -/
  | mscWatchdogExpiry
  /-- FRONT_END_FALLBACK (R406). An MSC silent 10 ms after accepting FROST_ENTER, RESET 0x01/0x02 or POWER_OFF; the front end acts in hardware. -/
  | frontEndFallback
  /-- UPDATE_ARBITRATION_END (R419). At the end of a 1 ms interval held manifests are verified and the first passing takes the update lock. -/
  | updateArbitrationEnd
  /-- UPDATE_LOCK_TIMEOUT (R420). 60 s without UPDATE_DATA or UPDATE_FINISH ends the update lock. -/
  | updateLockTimeout
  /-- TRIAL_END (R425). 60 s of trial pass without failure; the counter is raised and committed. -/
  | trialEnd (component : Nat)
  /-- RECOVERY_INSTALL (R430). In RECOVERY a ring-0 doorbell starts an install of the manifest and image from host window 0. -/
  | recoveryInstall
  /-- RECOVERY_RESET (R430). 1 ms after DONE the mask ROM performs a power-on reset. -/
  | recoveryReset
  /-- JOURNAL_GAP_RECORD (R427). Beyond 64 event records per second, one journal gap record is written each second. -/
  | journalGapRecord
  /-- PCIE_LINK_UP (R343). The bulk port's PCI Express link finishes training at a speed and width and HIF_PL_UP becomes 1. -/
  | pcieLinkUp (speed : BitVec 3) (width mps : BitVec 4)
  /-- PCIE_LINK_DOWN (R343). The bulk port's PCI Express link is lost and HIF_PL_UP returns to 0. -/
  | pcieLinkDown
  /-- REGISTER_ACCESS_TIMEOUT (R440). A register block that does not answer a BAR0 access within 1 ms makes a read complete with Completer Abort and sets HIF_UNSUPPORTED; a control-port register read not completed in 1 ms ends with HW_UNIT_FAULT. -/
  | registerAccessTimeout (p : Path) (off : BitVec 24) (write : Bool)
  /-- MSC_CORE_RESTART_DONE (R404). A restart of the MSC core, after the watchdog or a component-0 switch, completes within 50 ms, and queued commands, submission entries and queued ledger copies then proceed. -/
  | mscCoreRestartDone
  /-- RESET_END (R394). A reset reaches its end state, MSC_RESET_DONE is set, and accesses waiting on a block in subsystem reset proceed. -/
  | resetEnd (o : BringUp)
  /-- UNRECOGNISED_CONTROL_FRAME (R311). A control-port frame that is not accepted under R307, or whose header or opcode fails checks 2 to 5, is discarded or answered with VERSION_UNSUPPORTED, HEADER_INVALID or OPCODE_UNKNOWN. -/
  | unrecognisedControlFrame (f : RawFrame)
  /-- INPUT_QUALIFICATION_LOST (R374). The input leaves 42–60 V before offset 110 of the start sequence; the switch opens, the bulk is bled and the 50 ms qualification restarts. -/
  | inputQualificationLost
deriving DecidableEq, Repr

end Sys2Proof
end

