-- ==== Sys2Proof/Config.lean ====
section
/-! DEFINITION. What one module has as built, and the values and functions the specification leaves open or takes from other
standards. Every constant is opaque: nothing can evaluate it, so a statement about one holds for each of its values. -/

namespace Sys2Proof.Config

/-- Free values, one for each index drawn (log 4). -/
opaque free : Nat → DWord

/-- MAC address of the identity record (R307). -/
opaque macAddress : BitVec 48

/-- MSC_ID_BOARD, carrier board revision as built (R441). -/
opaque boardRevision : Byte

/-- MSC_SILICON, die revisions as built (R441). -/
opaque silicon : Word

/-- The device seed that a start of the MSC core reconstructs (R409). -/
opaque deviceSeed : BitVec 256

/-- The identity certificate as the factory stored it: the identity public key it binds, the CA's key ID and its signature (R410). -/
opaque certifiedKey : BitVec 14344
opaque caKeyId : BitVec 64
opaque caSignature : BitVec 10240

/-- The digest in mask ROM of Woryomel key 1, the release key, or 3, the device CA key (R411). -/
opaque romDigest : Nat → BitVec 256

/-- The 256-bit SHAKE256 output (FIPS 202; R203, R317, R416; log 8). -/
opaque shake256 : List Byte → BitVec 256

/-- KMAC256 with a 512-bit output and customization "MX512 SESSION", of key and data (SP 800-185; R317; log 8). -/
opaque kmacSession : BitVec 256 → BitVec 256 → BitVec 512

/-- KMAC256 with a 256-bit output and customization "MX512 CMD", of key and data (SP 800-185; R309; log 8). -/
opaque kmacCommand : List Byte → List Byte → BitVec 256

/-- The Falcon-1024 public key of the key pair that a derivation seed gives (R409; log 8). -/
opaque falconPublic : BitVec 256 → BitVec 14344

/-- A Falcon-1024 signature in the padded 1,280-byte format, by the key pair of a derivation seed, over a message (R409; log 8). -/
opaque falconSign : BitVec 256 → List Byte → BitVec 10240

/-- Falcon-1024 verification of public key, message and signature (R317, R412; log 8). -/
opaque falconVerify : List Byte → List Byte → List Byte → Bool

/-- Woryomel public key 1, the release key, or 3, the device CA key, in the identity region (R411). -/
opaque publicKey : Nat → BitVec 14344

/-- ML-KEM-1024 encapsulation under a key with the given draw: ciphertext and shared secret (FIPS 203; R317; log 8). -/
opaque encapsulate : List Byte → Nat → BitVec 12544 × BitVec 256

/-- The module's 32-byte nonce of a given draw (R317; log 4). -/
opaque moduleNonce : Nat → BitVec 256

/-- What a calibration of number `e` measures of physical row `68 g + r` (R264, R267; log 3): knot k of the row's curve, the gain and the offset
of the tap in column c, and the slicer zero. -/
opaque curve : Nat → Nat → Nat → BitVec 14
opaque gain : Nat → Nat → Nat → BitVec 8
opaque offset : Nat → Nat → Nat → BitVec 8
opaque slicerZero : Nat → Nat → BitVec 12

/-- How many units in the last place the named function exp_ne1 or rsqrt_ne1 of NE-1 lies from the nearest FP32 value of the function, on a finite
argument outside the cases the manual lists (R155; log 10). -/
opaque expNe1 : Word → Int
opaque rsqrtNe1 : Word → Int

/-- Byte offset of the seed field in a Duiralyn image header (R207): the header's layout is not in the manual (log 9). -/
opaque seedOffset : Nat

/-- Byte offset of the collective table in the image header (R249; log 9). -/
opaque collectiveOffset : Nat

/-- What a pass group's kernel descriptor tiles (R165, R177; its layout is not in the manual, log 9), from the image header, the descriptor's index and
the numbers K, O, V, weight format, set, n and logical stalls in service: logical stall, AE_OP code of a load, swap or pass, its first work cycle from
the start of the task and its length, reserve work cycles left out. -/
opaque kernelEntries : List Byte → Nat → List Nat → List (Nat × Nat × Nat × Nat)

/-- Work cycles that a refresh entry of a stack (0) or of the LPDDR5X tier (1) occupies, which the manual does not give (R180, R224; log 90). -/
opaque refreshLen : Nat → Nat

/-- Work cycles that the SQU takes to harvest channels of so many values each, which the manual does not give (R177; log 9). -/
opaque harvestCycles : Nat → Nat → Nat

/-- Staging units that a pass group's kernel descriptor needs beyond its graph's allotments: image, descriptor index, arcade and common
allotment (check 15 of R169; the kernel descriptor's layout is not in the manual, log 9). -/
opaque stagingShort : List Byte → Nat → Nat → Nat → Nat

/-- The port table of training beyond this module's own ports: the module and port that the fibre of (module, port) leads to
(R243, R250; log 9). -/
opaque fibre : Nat → Nat → Option (Nat × Nat)

/-- Payload of a RESEND_REQ or SERVICE frame, and its FSEQ (0) or FACK (1) where it has no frame number, which the manual does not give (R238, R254,
R258; log 91): type, lanes named, pausing. -/
opaque linkPayload : Nat → List Nat → Bool → List Byte
opaque linkField : Nat → Nat → BitVec 14

/-- rna_int of the NaN that an infinite value times an INV_SCALE of 0 gives (R115; log 81). -/
opaque nanCode : Word → BitVec 33

/-- PSR_RATE_VAL of a span without a stall pass: R100 divides by their number (log 4). -/
opaque emptyRate : BitVec 16

/-- Zero of a monitor input as step ZERO number `r` measures it, 0 for the factory record, and the sum of a converter's eight dark monitors
when the factory took its zeros (R282, R284; log 3). -/
opaque monZero : Nat → Nat → Int
opaque factoryDark : Nat → Int

/-- Gain of a monitor input in 2^-16 of its unit per code, as step FULL number `r` measures it, 0 for the factory record (R282, R284; log 3). -/
opaque monGain : Nat → Nat → Int

/-- Sentinel error in 0.1 mrad that a sentinel's optical reading implies, from its operating point (R267, R281; log 3). -/
opaque sentinelError : Int → Int → Int

/-- Sensor that reference `r` of R364 follows, where more than one of its kind lies near (log 96). -/
opaque nearSensor : Nat → Nat

/-- Correction of reference `r` at a temperature in 1/16 degree, in the steps of R364, by the tables of the factory record with these bytes,
whose layout the manual does not give (R364, R413; log 96). -/
opaque tempTable : List Byte → Nat → Int → Int

/-- Body of a monitor calibration record with these contents, whose layout the manual does not give (R285, R413; log 9): time, reference power,
identifier and reading, zeros and gains of the inputs it covers, commissioned powers. -/
opaque monitorBody : Nat → Word → List Word → Int → List Int → List Int → List Nat → List Byte

/-- Position to which the drop loop moves an electro-optic section, from where it stands, the drop monitor's raw code and the drop state
(R272; log 3). -/
opaque dropLoop : Nat → Nat → Drop → Nat

/-- Heater drive of a zone that phase 6 of edition `e` records, and the zone's feed coefficient as built (R267, R270; log 3). -/
opaque zoneDrive : Nat → Nat → Int
opaque zoneKappa : Nat → Int

/-- Change of a zone's heater drive that removes a zone error in 0.1 mrad (R271; log 3). -/
opaque zoneGain : Nat → Int → Int

/-- Phase error of a half-step decision other than r and r - 1, in units of h/64: modulus, residue, level and soft value (R273; log 84). -/
opaque farReading : Nat → Nat → Nat → Nat → Int

/-- The inverse of the standard normal tail, at half the fraction that the second number is of the first, in 2^-16 (R278; log 10). -/
opaque tailInverse : Nat → Nat → Nat

/-- E of a row with 2^20 decisions of which fewer than 256 have soft values below 48, in 1/16 bit (R278; log 85): decisions and that count. -/
opaque quietFigure : Nat → Nat → Nat

/-- The result of a DOT whose TD_B holds activation codes, for which the manual names no record: the formats of TD_A and TD_B, the rows of values
as they are read, and the record of the row of TD_A (R158, R462; log 19). -/
opaque activationDot : Nat → Nat → List Word → List Word → List Byte → Word

/-- The number that PR_RAIL gives a failed rail of a group (R378): the manual lists the rails without numbers (log 36). -/
opaque railCode : Nat → Byte

/-- Hall-time offset at which the TSL counts itself locked to the grandmaster, and the rate it then slews at, in ppm (R182; log 13). -/
opaque syncLocked : Int → Bool
opaque syncSlew : Int → Int

/-- Bytes that a list entry has written when it meets a persistent error (R351, R466; log 21): length, offset of the error. -/
opaque movedBefore : Nat → Nat → Nat

/-- The number by which an event record names a half or engine of a block (R402): the manual gives none (log 38). -/
opaque unitCode : Nat → Nat → BitVec 16

end Sys2Proof.Config
end

