-- ==== Sys2Proof/Machine/State.lean ====
section
/-! DEFINITION. The state of the module, as plain data: every register, table, queue and mode the specification names, with the
value it has right after power-on reset. Each field's comment names the rule of spec/ and its reset value. -/

namespace Sys2Proof.Machine

/-- Reasons for a fault. The specification answers every command with a status, an event bit, an Unsupported Request or a change of
state, so no meaning raises one; the constructor stands for the type. -/
inductive Fault where
  /-- Raised by no command; safe (a stop, never a result). -/
  | none
deriving DecidableEq, Repr

/-- Reasons for a refusal. -/
inductive Refusal where
  /-- Raised by the arm of a command whose meaning is not written; safe (a stop, never a result). -/
  | notModelled (mnemonic : String)
deriving DecidableEq, Repr

/-- The 17 event-status registers (R443); every bit W1C. -/
structure EventRegs where
  /-- R75 02. Reset: 0 (spec). -/
  pma : Word := 0
  /-- R304 11. Reset: 0 (spec). -/
  cls : Word := 0
  /-- R77 02 (TDW_ERR). Reset: 0 (spec). -/
  tdw : Word := 0
  /-- R103 03. Reset: 0 (spec). -/
  psr : Word := 0
  /-- R135 04. Reset: 0 (spec). -/
  squ : Word := 0
  /-- R160 05. Reset: 0 (spec). -/
  lge : Word := 0
  /-- R161 05. Reset: 0 (spec). -/
  xl : Word := 0
  /-- R192 06. Reset: 0 (spec). -/
  seq : Word := 0
  /-- R193 06. Reset: 0 (spec). -/
  tsl : Word := 0
  /-- R234 08. Reset: 0 (spec). -/
  hms : Word := 0
  /-- R235 08. Reset: 0 (spec). -/
  lms : Word := 0
  /-- R263 09. Reset: 0 (spec). -/
  ole : Word := 0
  /-- R353 13. Reset: 0 (spec). -/
  hif : Word := 0
  /-- R288 10. Reset: 0 (spec). -/
  cal : Word := 0
  /-- R370, R390 14, 15. Reset: 0 (spec). -/
  tps : Word := 0
  /-- R408, R432 16, 17. Reset: 0 (spec). -/
  msc : Word := 0
  /-- R328 12. Reset: 0 (spec). -/
  cp : Word := 0
deriving DecidableEq, Repr

/-- The trims of an edition (R264): what start-up calibration measured, under its number, with what later fits have put in its place. -/
structure Edition where
  /-- R264, R267 10 number of the start-up calibration whose curves, gains and offsets it holds. Reset: DESIGN CHOICE 0 (log 3). -/
  base : Nat := 0
  /-- R264, R269 10 number of the calibration whose slicer zeros it holds. Reset: DESIGN CHOICE 0 (log 3). -/
  zeroBase : Nat := 0
  /-- R276 10 gain and offset of the taps refitted since: tap 64 (68 g + r) + c, gain, offset. Reset: none refitted. -/
  taps : List (Nat × BitVec 8 × BitVec 8) := []
  /-- R276 10 slicer zeros refitted since: row 68 g + r, zero. Reset: none refitted. -/
  zeros : List (Nat × BitVec 12) := []
  /-- R277 10 photonic maximum at the readings it rests on, 1/16 degree. Reset: DESIGN CHOICE 0 (log 12). -/
  temp : Int := 0
deriving DecidableEq, Repr

/-- One hold of a stall with the code store and weight bounds that go with it (R40, R80). -/
structure Hold where
  /-- R77 02 TDW_FRONT_VALID / TDW_SHADOW_VALID. Reset: 0 (spec). -/
  valid : Bool := false
  /-- R77 02 TDW_FRONT_SET / TDW_SHADOW_SET. Reset: 0b111 none (spec). -/
  mset : Option MSet := none
  /-- R79 03 format of the held codes. Reset: DESIGN CHOICE int4, meaningless while set is none (log 11). -/
  fmt : WFmt := .int4
  /-- R41 02. Reset: none held. -/
  tile : Tile := {}
  /-- R38 02 weight value of each logical row and column. Reset: DESIGN CHOICE empty, all 0 V (R48; log 11). -/
  weights : List (List Int) := []
  /-- R40 02 code store. Reset: DESIGN CHOICE empty, code 0x000 everywhere (R48; log 11). -/
  codes : List (List (BitVec 10)) := []
  /-- R80 03 weight bounds N and P of each output. Reset: DESIGN CHOICE empty (log 11). -/
  bounds : List (Int × Int) := []
  /-- R56 02 trim edition the codes were converted under. Reset: 0 (spec, TDW_TRIM_EDITION). -/
  edition : Nat := 0
  /-- R54, R55 02 hall time of the last write to the hold. Reset: DESIGN CHOICE 0 (log 11). -/
  refreshed : Nat := 0
deriving DecidableEq, Repr

/-- One physical stall g = 34 a + p (R32). -/
structure Stall where
  /-- R73, R75 02 PMA_STATE. Reset: 0b000 (spec). -/
  state : StallState := .unloaded
  /-- R75 02 PMA_LOGICAL. Reset: 0x3FF none (spec). -/
  logical : Option Nat := none
  /-- R75 02 PMA_LINE. Reset: 0 (spec). -/
  line : Nat := 0
  /-- R36, R75 02 PMA_DROP. Reset: 0b00 (spec). -/
  drop : Drop := .parked
  /-- R66, R75 02 epochs of entries to SUSPECT, PMA_SUSPECT_CNT counts the last 16. Reset: empty, count 0 (spec). -/
  suspects : List Nat := []
  /-- R69 02 hall time of the entry to SUSPECT. Reset: DESIGN CHOICE 0 (log 11). -/
  suspectAt : Nat := 0
  /-- R72 02 the stall is SUSPECT at the host's request. Reset: none requested. -/
  asked : Bool := false
  /-- R76 02 the probe result is treated as needing a spare stall. Reset: none requested. -/
  mapOut : Bool := false
  /-- R75 02 PMA_ROW_MAP, spare row and logical row. Reset: 0, no spare row valid (spec). -/
  rowMap : List (Nat × Nat) := []
  /-- R66 02 what the probe decided for the boundary: 0 none, 1 clear, 2 rows, 3 spare stall, 4 retire. Reset: none. -/
  outcome : Nat := 0
  /-- R66 02 spare rows prepared for the boundary. Reset: none. -/
  outRows : List (Nat × Nat) := []
  /-- R67 02 spare stall prepared for the boundary. Reset: none. -/
  outSpare : Option Nat := none
  /-- R77 02 TDW_LOADING. Reset: 0 (spec). -/
  loading : Bool := false
  /-- R40, R77 02 front hold and its stores. Reset: see Hold. -/
  front : Hold := {}
  /-- R40, R77 02 shadow hold and its stores. Reset: see Hold. -/
  shadow : Hold := {}
  /-- R53, R56 02 its shadow hold was preloaded in the fallow slot for a swap in the first symbol of the epoch. Reset: none preloaded. -/
  preload : Bool := false
  /-- R51 02 column drivers send 0 until a swap takes place. Reset: none withheld. -/
  driveOff : Bool := false
  /-- R77 02 TDW_SWAP_COUNT. Reset: 0 (spec). -/
  swaps : BitVec 16 := 0
  /-- R46 02 load aborts in this epoch. Reset: 0. -/
  aborts : Nat := 0
  /-- R279 10 weak rows. Reset: none. -/
  weak : List Nat := []
deriving DecidableEq, Repr

/-- Register block 2 (R77) and the trim edition counters. -/
structure Tdw where
  /-- R77 02 TDW_DEGLITCH_EN in force. Reset: 1 (spec). -/
  deglitch : Bool := true
  /-- R77 02 value written, in force from the next boundary. Reset: 1 (spec). -/
  deglitchNext : Bool := true
  /-- R77 02 TDW_ERR_COUNT. Reset: 0 (spec). -/
  errCount : Nat := 0
  /-- R77 02 TDW_ERR_PHYS. Reset: 0x3FF (spec). -/
  errPhys : Nat := 0x3FF
  /-- R77 02 TDW_TRIM_EDITION. Reset: 0 (spec). -/
  edition : BitVec 16 := 0
  /-- R77 02 TDW_TRIM_PENDING. Reset: 0 (spec). -/
  trimPending : Bool := false
  /-- R77 02 TDW_REFRESH_MAX. Reset: 0 (spec). -/
  refreshMax : Nat := 0
deriving DecidableEq, Repr

/-- The span counters of block 3 (R103, R467). -/
structure PsrCounts where
  /-- R103 03 PSR_PASSES. Reset: 0 (spec). -/
  passes : Nat := 0
  /-- R103 03 PSR_REPLAYS_OPT. Reset: 0 (spec). -/
  opt : Nat := 0
  /-- R103 03 PSR_REPLAYS_ELEC. Reset: 0 (spec). -/
  elec : Nat := 0
  /-- R103 03 PSR_TALLY_FAILS. Reset: 0 (spec). -/
  tally : Nat := 0
  /-- R103 03 PSR_RANGE_FAULTS. Reset: 0 (spec). -/
  range : Nat := 0
  /-- R103 03 PSR_SLICE_FAULTS. Reset: 0 (spec). -/
  slice : Nat := 0
  /-- R100 03 stall passes replayed. Reset: 0. -/
  replayed : Nat := 0
  /-- R103 03 PSR_HOLD_CYCLES. Reset: 0 (spec). -/
  hold : Nat := 0
  /-- R103 03 PSR_RATE_VAL. Reset: 0 (spec). -/
  rate : Nat := 0
  /-- R103 03 PSR_QPEAK_E0. Reset: 0 (spec). -/
  peak0 : Nat := 0
  /-- R103 03 PSR_QPEAK_E1. Reset: 0 (spec). -/
  peak1 : Nat := 0
deriving DecidableEq, Repr

/-- The causes of failure of a stall pass (R85): a slice fault, a tally mismatch, a range fault. -/
structure PassFail where
  /-- R85 03. Reset: none counted. -/
  slice : Bool := false
  /-- R85 03. Reset: none counted. -/
  tally : Bool := false
  /-- R85 03. Reset: none counted. -/
  range : Bool := false
deriving DecidableEq, Repr

/-- A stall pass whose slicer words await reconstruction (R23, R89), or one that awaits a replay. -/
structure Flight where
  /-- R42 02 logical stalls driven with the tiles that the pass is compiled for, one or a drive group. Reset: no pass in flight. -/
  stalls : List (Nat × Tile) := []
  /-- R192 06. Reset: no pass in flight. -/
  slot : Nat := 0
  /-- R164 06. Reset: no pass in flight. -/
  task : Nat := 0
  /-- R89 03 vector index. Reset: no pass in flight. -/
  vec : Nat := 0
  /-- R78 03 set of the front hold. Reset: no pass in flight. -/
  mset : MSet := .a
  /-- R79 03. Reset: no pass in flight. -/
  fmt : WFmt := .int4
  /-- R62 02 integration. Reset: no pass in flight. -/
  n : Nat := 1
  /-- R61, R62 02 per output: index, chunk, weight bounds, words per channel and plane. Reset: no pass in flight. -/
  outs : List (Nat × Nat × (Int × Int) × List (List Word)) := []
  /-- R89 03 outputs whose values are accepted. Reset: no pass in flight. -/
  want : List Nat := []
  /-- R93 03 this is a replay. Reset: no pass in flight. -/
  replay : Bool := false
  /-- R46 02 the pass was withheld and its tile has not come to the front since. Reset: no pass in flight. -/
  withheld : Bool := false
  /-- R85 03 causes counted for it, by logical stall. Reset: no pass in flight. -/
  counted : List (Nat × PassFail) := []
  /-- R94 03 replay deadline, as the count of work cycles (seq.work) at which it passes. Reset: no pass in flight. -/
  deadline : Nat := 0
deriving DecidableEq, Repr

/-- PSR_LAST_FAIL (R103). -/
structure LastFail where
  /-- R103 03. Reset: 0 (spec). -/
  cause : Nat := 0
  /-- R103 03. Reset: 0 (spec). -/
  output : Nat := 0
  /-- R103 03. Reset: 0x3FF (spec). -/
  phys : Nat := 0x3FF
  /-- R103 03. Reset: 0x3FF (spec). -/
  logical : Nat := 0x3FF
deriving DecidableEq, Repr

/-- One 32-bit signed accumulator (R22, R87). -/
structure Acc where
  /-- R87 03. Reset: none in use. -/
  slot : Nat := 0
  /-- R87 03. Reset: none in use. -/
  task : Nat := 0
  /-- R87 03. Reset: none in use. -/
  vec : Nat := 0
  /-- R87 03. Reset: none in use. -/
  out : Nat := 0
  /-- R22, R87 03. Reset: none in use. -/
  value : Int := 0
  /-- R132 04 chunks entered. Reset: none in use. -/
  chunks : Nat := 0
deriving DecidableEq, Repr

/-- Register block 3 (R103) and the replay machinery. -/
structure Psr where
  /-- R103 03 PSR_OPT_REPLAY_EN in force. Reset: 1 (spec). -/
  optEn : Bool := true
  /-- R103 03 value written. Reset: 1 (spec). -/
  optEnNext : Bool := true
  /-- R103 03. Reset: see LastFail. -/
  lastFail : LastFail := {}
  /-- R467 00 counts gathering. Reset: 0 (spec). -/
  cur : PsrCounts := {}
  /-- R467 00 latched. Reset: 0 (spec). -/
  shown : PsrCounts := {}
  /-- R23 01 passes in the pipeline. Reset: empty. -/
  flights : List Flight := []
  /-- R91 03 optical replays waiting for reserve cycles. Reset: empty. -/
  optWait : List Flight := []
  /-- R92 03 replay unit of E0. Reset: empty. -/
  queue0 : List Flight := []
  /-- R92 03 replay unit of E1. Reset: empty. -/
  queue1 : List Flight := []
  /-- R22 01, R87 03 accumulators. Reset: empty. -/
  accs : List Acc := []
  /-- R278 10 counts of rows, each with the modulus and the integration of its pass. Reset: empty. -/
  soft : List (Nat × Nat × SoftCount) := []
deriving DecidableEq, Repr

/-- The span counters of block 4 (R135). -/
structure SquCounts where
  /-- R135 04 SQU_SAT_COUNT. Reset: 0 (spec). -/
  sat : Nat := 0
  /-- R135 04 SQU_UNDERUSE_COUNT. Reset: 0 (spec). -/
  under : Nat := 0
  /-- R135 04 SQU_CONST_COUNT. Reset: 0 (spec). -/
  constCh : Nat := 0
  /-- R135 04 SQU_NONFINITE_COUNT. Reset: 0 (spec). -/
  nonfin : Nat := 0
deriving DecidableEq, Repr

/-- SQU_LAST_EVENT and XL_LAST_EVENT (R135, R161). -/
structure LastEvent where
  /-- R135 04, R161 05. Reset: 0 (spec). -/
  cause : Nat := 0
  /-- R135 04, R161 05. Reset: 0 (spec). -/
  graph : Nat := 0
  /-- R135 04, R161 05. Reset: 0 (spec). -/
  task : Nat := 0
deriving DecidableEq, Repr

/-- One scale register that holds or has held a record (R120). -/
structure ScaleReg where
  /-- R120 04. Reset: none in use. -/
  die : Nat := 0
  /-- R120 04. Reset: none in use. -/
  index : Nat := 0
  /-- R120 04 graph that holds it. Reset: none in use. -/
  slot : Nat := 0
  /-- R120 04. Reset: none in use. -/
  task : Nat := 0
  /-- R120 04 held by a conversion task or a history. Reset: none in use. -/
  used : Bool := true
  /-- R119 04 current scale record. Reset: DESIGN CHOICE zeros (SQU_SCALE_WORD has no reset value; log 12). -/
  record : List Byte := []
  /-- R126 04 running-maximum history. Reset: none in use. -/
  hist : List Word := []
deriving DecidableEq, Repr

/-- Register block 4 (R135). -/
structure Squ where
  /-- R135 04 SQU_SEL_DIE. Reset: 0 (spec). -/
  selDie : Bool := false
  /-- R135 04 SQU_SEL_INDEX. Reset: 0 (spec). -/
  selIndex : BitVec 13 := 0
  /-- R135 04 SQU_SCALE_DATA0 to 3 as captured. Reset: DESIGN CHOICE 0 (spec gives none; log 12). -/
  capture : List Word := [0, 0, 0, 0]
  /-- R120 04 scale registers. Reset: DESIGN CHOICE none in use (log 12). -/
  regs : List ScaleReg := []
  /-- R467 00. Reset: 0 (spec). -/
  cur : SquCounts := {}
  /-- R467 00. Reset: 0 (spec). -/
  shown : SquCounts := {}
  /-- R135 04. Reset: 0 (spec). -/
  last : LastEvent := {}
deriving DecidableEq, Repr

/-- The span counters of block 5 (R160). -/
structure LgeCounts where
  /-- R160 05 LGE_LOOKUPS. Reset: 0 (spec). -/
  lookups : Nat := 0
  /-- R160 05 LGE_SUBST_PASSES. Reset: 0 (spec). -/
  passes : Nat := 0
  /-- R160 05 LGE_SUBST_CYCLES. Reset: 0 (spec). -/
  cycles : Nat := 0
deriving DecidableEq, Repr

/-- The tables of one tile of a substituted logical stall (R148): for each output and column, the products with every activation code. -/
structure SubstTile where
  /-- R148 05. Reset: none built. -/
  tile : Tile := {}
  /-- R148 05 output and the tables W[o][i] of its 64 columns. Reset: none built. -/
  tables : List (Nat × List (List Int)) := []
deriving DecidableEq, Repr

/-- A logical stall that is substituted (R71, R148). -/
structure Subst where
  /-- R148 05 logical stall. Reset: none substituted. -/
  logical : Nat := 0
  /-- R148 05 on the LGE (true) or on the replay unit. Reset: none substituted. -/
  onLge : Bool := true
  /-- R148 05 tables of its front tile. Reset: none built. -/
  front : Option SubstTile := none
  /-- R148 05 tables of its shadow tile. Reset: none built. -/
  shadow : Option SubstTile := none
deriving DecidableEq, Repr

/-- A bank of product tables, 131,072 at most (R143). -/
structure LgeBank where
  /-- R143 05 graph whose slice it holds. Reset: empty. -/
  slot : Nat := 0
  /-- R143 05 task whose slice it holds. Reset: empty. -/
  task : Nat := 0
  /-- R143 05 first column of the slice. Reset: empty. -/
  first : Nat := 0
  /-- R140 05 tables, vector by vector and column by column. Reset: empty. -/
  tables : List (List Int) := []
deriving DecidableEq, Repr

/-- Register block 5 (R160), its table banks and the substitution store. -/
structure Lge where
  /-- R467 00. Reset: 0 (spec). -/
  cur : LgeCounts := {}
  /-- R467 00. Reset: 0 (spec). -/
  shown : LgeCounts := {}
  /-- R148 05 logical stalls substituted, with the tables of the substitution store. Reset: empty. -/
  subst : List Subst := []
  /-- R149 05 tables built in the fallow slot for the stalls that retire at its boundary. Reset: empty. -/
  ready : List Subst := []
  /-- R143 05 banks of product tables, bank k of half h as 2 h + k. Reset: see LgeBank. -/
  banks : List LgeBank := List.replicate 4 {}
  /-- R143 05 the bank that serves lookups in each half. Reset: DESIGN CHOICE bank 0 (log 12). -/
  serving : List Nat := [0, 0]
deriving DecidableEq, Repr

/-- The span counters of block 6 (R161). -/
structure XlCounts where
  /-- R161 05 XL_NONFINITE_COUNT. Reset: 0 (spec). -/
  nonfin : Nat := 0
  /-- R161 05 XL_OVERFLOW_COUNT. Reset: 0 (spec). -/
  overflow : Nat := 0
deriving DecidableEq, Repr

/-- Register block 6 (R161). -/
structure Xl where
  /-- R467 00. Reset: 0 (spec). -/
  cur : XlCounts := {}
  /-- R467 00. Reset: 0 (spec). -/
  shown : XlCounts := {}
  /-- R161 05. Reset: 0 (spec). -/
  last : LastEvent := {}
  /-- R130 04, R157 05 outlier sums p[o]: slot, task, vector, output, FP32. Reset: empty. -/
  outlier : List (Nat × Nat × Nat × Nat × Word) := []
deriving DecidableEq, Repr

/-- One task descriptor (R164) with what admission fixes about it (R172). -/
structure Task where
  /-- R164 06 TD_KIND. Reset: none resident. -/
  kind : BitVec 8 := 0
  /-- R164 06 TD_FLAGS. Reset: none resident. -/
  flags : BitVec 8 := 0
  /-- R164 06 TD_PRIORITY. Reset: none resident. -/
  prio : BitVec 8 := 0xFF
  /-- R164 06 TD_LANE. Reset: none resident. -/
  lane : BitVec 8 := 0xFF
  /-- R164 06 TD_DEADLINE. Reset: none resident. -/
  deadline : Word := 0
  /-- R164 06 TD_A. Reset: none resident. -/
  a : DWord := 0
  /-- R164 06 TD_B. Reset: none resident. -/
  b : DWord := 0
  /-- R164 06 TD_RESULT. Reset: none resident. -/
  res : DWord := 0
  /-- R164 06 TD_D0. Reset: none resident. -/
  d0 : Word := 0
  /-- R164 06 TD_D1. Reset: none resident. -/
  d1 : Word := 0
  /-- R164 06 TD_D2. Reset: none resident. -/
  d2 : Word := 0
  /-- R164 06 TD_FORMAT. Reset: none resident. -/
  fmt : Word := 0
  /-- R164, R166 06 TD_POLICY. Reset: none resident. -/
  policy : List Byte := []
  /-- R172 06 effective priority P(t). Reset: none resident. -/
  effP : Nat := 0
  /-- R172 06 effective deadline D(t), 2^64 for infinity. Reset: none resident. -/
  effD : Nat := 0
deriving DecidableEq, Repr

/-- What the digest unit has hashed for a task that completed (R203 to R211). -/
structure TagPrep where
  /-- R210 07 task index. Reset: none waiting. -/
  task : Nat := 0
  /-- R203 07 the tag. Reset: none waiting. -/
  tag : List Byte := []
  /-- R209 07 result digest. Reset: none waiting. -/
  digest : List Byte := []
  /-- R210 07 LR_RESULT_LEN. Reset: none waiting. -/
  len : Nat := 0
  /-- R208 07 task ID. Reset: none waiting. -/
  id : DWord := 0
  /-- R205 07 STALE_WEIGHTS. Reset: none waiting. -/
  stale : Bool := false
  /-- R210 07 COMPAT. Reset: none waiting. -/
  compat : Bool := false
  /-- R210 07 hall time at which the result was complete. Reset: none waiting. -/
  time : Nat := 0
deriving DecidableEq, Repr

/-- A run of a graph in progress (R162). -/
structure Run where
  /-- R208 07 run number since admission. Reset: none in progress. -/
  number : Nat := 0
  /-- R171, R184 06 hall time of the boundary at which it was due. Reset: none in progress. -/
  due : Nat := 0
  /-- R465 06 status each task ended with. Reset: none in progress. -/
  ends : List (Option (BitVec 16)) := []
  /-- R171 06 completion entries reserved and not yet posted. Reset: none in progress. -/
  reserved : Nat := 0
  /-- R171, R214 06 tag-record entries reserved and not yet posted. Reset: none in progress. -/
  tags : Nat := 0
  /-- R206 07 bytes that each tagged task has read, but for its weight operand. Reset: none in progress. -/
  inputs : List (Nat × List Byte) := []
  /-- R211 07 tag records whose digests are complete and that are to be written. Reset: none in progress. -/
  tagWait : List TagPrep := []
deriving DecidableEq, Repr

/-- A resident graph (R162, R163). -/
structure Graph where
  /-- R323 12 graph slot. Reset: none resident. -/
  slot : Nat := 0
  /-- R163 06 GD_GRAPH_ID. Reset: none resident. -/
  id : Word := 0
  /-- R163 06 GD_MODULES. Reset: none resident. -/
  modules : Nat := 1
  /-- R163 06 GD_MODULE_INDEX. Reset: none resident. -/
  index : Nat := 0
  /-- R163 06 GD_EDITION. Reset: none resident. -/
  edition : Nat := 1
  /-- R169 06 address of the descriptor, read again at re-admission. Reset: none resident. -/
  addr : DWord := 0
  /-- R163 06 GD_IMAGE. Reset: none resident. -/
  image : DWord := 0
  /-- R163 06 GD_PRIORITY. Reset: none resident. -/
  priority : Nat := 0
  /-- R163 06 GD_COMPLETION_RING. Reset: none resident. -/
  compRing : Nat := 0
  /-- R163 06 GD_EVENT_RING. Reset: none resident. -/
  eventRing : Nat := 0
  /-- R163 06 GD_LEDGER_RING. Reset: none resident. -/
  ledgerRing : Nat := 0xFFFF
  /-- R163 06 GD_PERIOD. Reset: none resident. -/
  period : Nat := 0
  /-- R163 06 GD_PHASE. Reset: none resident. -/
  phase : Nat := 0
  /-- R163 06 GD_ARCADE_ALLOT. Reset: none resident. -/
  arcadeAllot : Nat := 0
  /-- R163 06 GD_COMMON_ALLOT. Reset: none resident. -/
  commonAllot : Nat := 0
  /-- R164 06. Reset: none resident. -/
  tasks : List Task := []
  /-- R167 06 producer, consumer. Reset: none resident. -/
  edges : List (Nat × Nat) := []
  /-- R173 06 order list. Reset: none resident. -/
  order : List Nat := []
  /-- R225 08 unit table: physical units of banks 0 to 23, then of the common bank. Reset: none resident. -/
  units : List (List Nat) := []
  /-- R163, R207, R249 06 07 09 image header block as read at admission: seeds, collective table. Reset: none resident. -/
  header : List Byte := []
  /-- R204 07 image digest. Reset: none resident. -/
  digest : List Byte := []
  /-- R322 12 PAUSED. Reset: none resident. -/
  paused : Bool := false
  /-- R322 12 GRAPH_RESUME waiting for the boundary. Reset: none resident. -/
  resume : Bool := false
  /-- R229 08 HELD. Reset: none resident. -/
  held : Bool := false
  /-- R323 12 GRAPH_RELEASE waits for the run in progress. Reset: none resident. -/
  releasing : Bool := false
  /-- R162 06 run requests not yet started. Reset: none resident. -/
  requests : Nat := 0
  /-- R171 06 hall times of the due boundaries whose runs have not started. Reset: none resident. -/
  waitDue : List Nat := []
  /-- R190, R229, R322, R337 06, 08, 12, 13 statuses of runs that never started, whose entries wait for room in the completion ring. Reset: none resident. -/
  owed : List (BitVec 16) := []
  /-- R162 06. Reset: none resident. -/
  run : Option Run := none
  /-- R208 07 runs started since admission. Reset: none resident. -/
  runs : Nat := 0
  /-- R191 06 epoch of admission. Reset: none resident. -/
  admitted : Nat := 0
deriving DecidableEq, Repr

/-- An almanac entry (R180). -/
structure AlmanacEntry where
  /-- R180 06 AE_START. Reset: none placed. -/
  start : Nat := 0
  /-- R180 06 AE_UNIT. Reset: none placed. -/
  unit : Nat := 0
  /-- R180 06 AE_OP. Reset: none placed. -/
  op : Nat := 0
  /-- R180 06 AE_SET. Reset: none placed. -/
  mset : Option MSet := none
  /-- R180 06 AE_TASK, graph slot and task, none for a frame entry. Reset: none placed. -/
  task : Option (Nat × Nat) := none
  /-- R180 06 AE_LEN. Reset: none placed. -/
  len : Nat := 0
deriving DecidableEq, Repr

/-- An almanac page (R175 to R178). -/
structure Page where
  /-- R177, R180 06 its entries. Reset: empty. -/
  entries : List AlmanacEntry := []
  /-- R186 06 stall work cycles of each arcade that carry planes or ramp fill in the last window. Reset: empty, 0 for every arcade. -/
  activity : List Nat := []
  /-- R179 06 logical stalls not in service when the page was built. Reset: empty. -/
  without : List Nat := []
  /-- R177 06 placed tasks: graph slot, task index. Reset: empty. -/
  tasks : List (Nat × Nat) := []
  /-- R99 03, R175 06 set plan: slot, task, set, n. Reset: empty. -/
  plan : List (Nat × Nat × MSet × Nat) := []
  /-- R466 06 TRANSFER lists as read at page build: slot, task, bytes, none where the list could not be read. Reset: empty. -/
  lists : List (Nat × Nat × Option (List Byte)) := []
  /-- R192 06 SEQ_PAGE_LENGTH. Reset: 0 (spec). -/
  length : Nat := 0
  /-- R192 06 SEQ_STALLS_PAGE. Reset: 0 (spec). -/
  stalls : Nat := 0
  /-- R180 06 SEQ_PAGE_DIGEST. Reset: 0 (spec). -/
  digest : DWord := 0
  /-- R101 03 a pass group runs its warm set at n = 16 for want of an eligible pair. Reset: 0. -/
  marginShort : Bool := false
deriving DecidableEq, Repr

/-- Register block 7 (R192), the resident graphs and the epoch's course. -/
structure SeqState where
  /-- R192 06 SEQ_DUMP_RING. Reset: 0 (spec). -/
  dumpRing : BitVec 14 := 0
  /-- R180 06 copy of the next page armed. Reset: none armed. -/
  dumpTo : Option Nat := none
  /-- R192 06 SEQ_AS_STATUS. Reset: 0 (spec). -/
  admitStatus : BitVec 16 := 0
  /-- R192 06 SEQ_AD_DETAIL. Reset: 0 (spec). -/
  admitDetail : Word := 0
  /-- R169, R222 06 08 addresses of persistent errors met by the reads of an admission not yet decided. Reset: none. -/
  admitBad : List Nat := []
  /-- R192 06 SEQ_EPOCH. Reset: 0 (spec). -/
  epoch : Nat := 0
  /-- R192 06 SEQ_LAG. Reset: 0 (spec). -/
  lag : Nat := 0
  /-- R192 06 current page. Reset: 0 (spec). -/
  page : Page := {}
  /-- R178 06 page built for the next epoch. Reset: empty. -/
  next : Page := {}
  /-- R192 06 SEQ_OVERRUNS. Reset: 0 (spec). -/
  overruns : Nat := 0
  /-- R192 06 SEQ_LAPSES. Reset: 0 (spec). -/
  lapses : Nat := 0
  /-- R162 06 resident graphs. Reset: empty, SEQ_GRAPHS 0 (spec). -/
  graphs : List Graph := []
  /-- R99 03 pass groups with a pass in this epoch: slot, task. Reset: empty. -/
  ran : List (Nat × Nat) := []
  /-- R181 06 hall time of the next boundary, 0 before the first epoch. Reset: DESIGN CHOICE 0 (log 13). -/
  boundary : Nat := 0
  /-- R183 06 the epoch's fallow slot has begun. Reset: DESIGN CHOICE 0 (log 13). -/
  fallow : Bool := false
  /-- R189 06 the slot is a short fallow slot. Reset: DESIGN CHOICE 0 (log 13). -/
  short : Bool := false
  /-- R183, R189 06 hall time at which the slot began. Reset: DESIGN CHOICE 0 (log 13). -/
  slotStart : Nat := 0
  /-- R28, R94 03, R183 06 work cycles since power-on: work-clock periods that no throttling and no hold skipped. Reset: DESIGN CHOICE 0 (log 13). -/
  work : Nat := 0
  /-- R183 06 value of that count when the epoch opened. Reset: DESIGN CHOICE 0 (log 13). -/
  workAt : Nat := 0
  /-- R187, R275 06 ramp-fill stall-symbols of each arcade in the epoch, reading symbols among them. Reset: 0. -/
  fill : List Nat := List.replicate 24 0
  /-- R72 02 arcades for which the fallow slot holds spare preparation. Reset: none. -/
  prepared : List Nat := []
  /-- R188 06 EPOCH_OVERRUN raised in this epoch. Reset: 0. -/
  overrun : Bool := false
  /-- R322 12 STOP BOUNDARY waits for the boundary. Reset: 0. -/
  stopBoundary : Bool := false
  /-- R100 03 rate watch in force. Reset: 0. -/
  rateWatch : Bool := false
  /-- R179 06 stalls in service when the last page was built. Reset: none built. -/
  built : Option Nat := none
  /-- R95 03 hall time a replay hold began. Reset: none. -/
  replayHold : Option Nat := none
  /-- R299 11 hall time a light hold began. Reset: none. -/
  lightHold : Option Nat := none
  /-- R256 09 hall time a link hold began. Reset: none. -/
  linkHold : Option Nat := none
  /-- R148 05 hall time a substitution hold began. Reset: none. -/
  substHold : Option Nat := none
deriving DecidableEq, Repr

/-- A unit written by a LANE_OUT task (R185). -/
structure OutUnit where
  /-- R185 06 presentation time. Reset: none. -/
  time : Nat := 0
  /-- R185 06 unit index k. Reset: none. -/
  index : Nat := 0
  /-- R185 06 the unit, none until written. Reset: none. -/
  data : Option (List Byte) := none
  /-- R185 06 presented, or replaced by silence. Reset: none. -/
  done : Bool := false
  /-- R185 06 counted as late. Reset: none. -/
  late : Bool := false
deriving DecidableEq, Repr

/-- A stream lane (R193). -/
structure Lane where
  /-- R193 06 TSL_LANE_EN. Reset: 0 (spec). -/
  en : Bool := false
  /-- R193 06 TSL_LANE_DIR. Reset: 0 (spec). -/
  dir : Bool := false
  /-- R193 06 TSL_LANE_DROP_LATE. Reset: 0 (spec). -/
  dropLate : Bool := false
  /-- R193 06 TSL_LANE_PRIORITY. Reset: 0b111 (spec). -/
  priority : BitVec 3 := 7
  /-- R193 06 TSL_LANE_UNIT_BYTES. Reset: 0 (spec). -/
  unitBytes : BitVec 24 := 0
  /-- R193 06 TSL_LANE_BASE_LO. Reset: 0 (spec). -/
  baseLo : Word := 0
  /-- R193 06 TSL_LANE_BASE_HI. Reset: 0 (spec). -/
  baseHi : Word := 0
  /-- R193 06 TSL_LANE_UNITS. Reset: 0 (spec). -/
  units : BitVec 16 := 0
  /-- R193 06 TSL_LANE_DELAY. Reset: 0 (spec). -/
  delay : Word := 0
  /-- R193 06 TSL_LANE_PERIOD. Reset: 0 (spec). -/
  period : Word := 0
  /-- R193 06 TSL_LS_LATE. Reset: 0 (spec). -/
  late : Nat := 0
  /-- R193 06 TSL_LS_DISCARDED. Reset: 0 (spec). -/
  discarded : Nat := 0
  /-- R184 06 input units held, in capture-time order: capture time, whether a LANE_IN task has read it, bytes. Reset: empty. -/
  buf : List (Nat × Bool × List Byte) := []
  /-- R184 06 end of the last window read. Reset: DESIGN CHOICE 0 (log 13). -/
  readTo : Nat := 0
  /-- R185 06 output units to present. Reset: empty. -/
  out : List OutUnit := []
deriving DecidableEq, Repr

/-- Register block 8 (R193) and hall time. -/
structure Tsl where
  /-- R193 06 TSL_HT, R28 01. Reset: 0 (spec). -/
  hallTime : Nat := 0
  /-- R193 06 TSL_LEN in force. Reset: 0x14 (spec). -/
  len : BitVec 8 := 0x14
  /-- R181, R193 06 TSL_LEN as written. Reset: 0x14 (spec). -/
  lenNext : BitVec 8 := 0x14
  /-- R181 06 hall time at which a TSL_LEN written and not yet in force takes effect. Reset: DESIGN CHOICE 0, meaningless while none waits (log 11). -/
  lenAt : Nat := 0
  /-- R193 06 TSL_SYNC_STATE. Reset: 0b00 (spec). -/
  sync : SyncState := .free
  /-- R193 06 TSL_OFFSET. Reset: 0 (spec). -/
  offset : Int := 0
  /-- R182 06 rate correction, ppm, within 100. Reset: DESIGN CHOICE 0 (log 13). -/
  slew : Int := 0
  /-- R306 12 peer-delay requests sent. Reset: DESIGN CHOICE 0 (log 13). -/
  pdelay : Nat := 0
  /-- R193 06. Reset: see Lane. -/
  lanes : List Lane := List.replicate 48 {}
deriving DecidableEq, Repr

/-- One HBM3E stack (R234). -/
structure Stack where
  /-- R234 08 HMS_SS_STATE. Reset: 0b00 (spec). -/
  state : StackState := .inService
  /-- R234, R227 08 epochs of persistent errors, HMS_SS_PERSIST counts the last 16. Reset: empty (spec 0). -/
  persist : List Nat := []
  /-- R234 08 transient errors gathering. Reset: 0 (spec). -/
  cur : Nat := 0
  /-- R234 08 HMS_SS_RETRIES. Reset: 0 (spec). -/
  shown : Nat := 0
deriving DecidableEq, Repr

/-- Register block 9 (R234). -/
structure Hms where
  /-- R467 00 gathering. Reset: 0 (spec). -/
  retries : Nat := 0
  /-- R234 08 HMS_RETRIES. Reset: 0 (spec). -/
  retriesShown : Nat := 0
  /-- R467 00 gathering. Reset: 0 (spec). -/
  persist : Nat := 0
  /-- R234 08 HMS_PERSISTENT. Reset: 0 (spec). -/
  persistShown : Nat := 0
  /-- R467 00 gathering. Reset: 0 (spec). -/
  stg : Nat := 0
  /-- R234 08 HMS_STG_RETRIES. Reset: 0 (spec). -/
  stgShown : Nat := 0
  /-- R234 08 HMS_LAST_ERR. Reset: none, HMS_LE_VALID 0 (spec). -/
  lastErr : Option Nat := none
  /-- R234 08 HMS_STG_LAST_ERR. Reset: none, HMS_SLE_VALID 0 (spec). -/
  stgLastErr : Option Nat := none
  /-- R234 08 HMS_SPILL_ACTIVE and HMS_SPILL_STACK. Reset: inactive, 0xF (spec). -/
  spill : Option Nat := none
  /-- R234 08 HMS_OUT_OF_SERVICE. Reset: 0 (spec). -/
  outOfService : Bool := false
  /-- R234 08. Reset: see Stack. -/
  hbm : List Stack := List.replicate 10 {}
deriving DecidableEq, Repr

/-- Register block 10 (R235). -/
structure Lms where
  /-- R467 00 gathering. Reset: 0 (spec). -/
  retries : Nat := 0
  /-- R235 08 LMS_RETRIES. Reset: 0 (spec). -/
  retriesShown : Nat := 0
  /-- R467 00 gathering. Reset: 0 (spec). -/
  persist : Nat := 0
  /-- R235 08 LMS_PERSISTENT. Reset: 0 (spec). -/
  persistShown : Nat := 0
  /-- R235 08 LMS_LAST_ERR. Reset: none, LMS_LE_VALID 0 (spec). -/
  lastErr : Option Nat := none
  /-- R235 08 LMS_TIER_STATE. Reset: 0b00 (spec). -/
  tier : TierState := .inService
  /-- R235 08 LMS_PKG_FAILED. Reset: 0 (spec). -/
  failed : BitVec 12 := 0
  /-- R232 08 a package failed; the tier leaves service at the boundary. Reset: 0. -/
  failing : Bool := false
  /-- R232 08 package and epoch of persistent errors. Reset: empty. -/
  pkgPersist : List (Nat × Nat) := []
deriving DecidableEq, Repr

/-- A weight region and its digest (R205). -/
structure Region where
  /-- R205 07, R225 08 device addresses and bytes it covers, in the order of its load's destination range: one piece, or one for each staging
  unit. Reset: none held. -/
  parts : List (Nat × Nat) := []
  /-- R205 07. Reset: none held. -/
  digest : List Byte := []
  /-- R205 07. Reset: none held. -/
  stale : Bool := false
deriving DecidableEq, Repr

/-- One link port (R263). -/
structure Port where
  /-- R263 09 OLE_PS_STATE. Reset: 0b000 (spec). -/
  state : PortState := .dark
  /-- R263 09 OLE_PS_REASON. Reset: 0 (spec). -/
  reason : BitVec 2 := 0
  /-- R263 09 OLE_PS_PEER. Reset: 0 (spec). -/
  peer : BitVec 4 := 0
  /-- R263 09 OLE_PS_PEER_PORT. Reset: 0 (spec). -/
  peerPort : BitVec 2 := 0
  /-- R263 09 OLE_PS_RTT. Reset: 0 (spec). -/
  rtt : BitVec 12 := 0
  /-- R260, R261 09 blocked at the switch or modulators parked. Reset: 0. -/
  blocked : Bool := false
  /-- R261 09 probes emitted while DARK. Reset: 0. -/
  probes : Nat := 0
deriving DecidableEq, Repr

/-- One lane (R263). -/
structure LinkLane where
  /-- R263 09 OLE_LS_STATE. Reset: 0b00 (spec). -/
  state : LaneState := .idle
  /-- R263 09 OLE_LS_PORT. Reset: 0 (spec). -/
  port : BitVec 2 := 0
  /-- R263 09 OLE_LS_REPLACES. Reset: 0x3F none (spec). -/
  replaces : Option Nat := none
  /-- R467 00 frames discarded in the span, gathering. Reset: 0 (spec). -/
  fails : Nat := 0
  /-- R263 09 OLE_LS_FAILS. Reset: 0 (spec). -/
  failsShown : Nat := 0
  /-- R258 09 frames discarded in the epoch. Reset: 0. -/
  epochFails : Nat := 0
  /-- R243 09 it failed the test frames of training and is kept out of service. Reset: 0. -/
  barred : Bool := false
  /-- R259 09 it has been retested since it was dropped. Reset: 0. -/
  retested : Bool := false
  /-- R301 11 end of the suspension of the lock-loss test. Reset: none. -/
  pauseUntil : Option Nat := none
deriving DecidableEq, Repr

/-- The span counters of block 11 (R263). -/
structure OleCounts where
  /-- R263 09 OLE_FRAMES. Reset: 0 (spec). -/
  frames : Nat := 0
  /-- R263 09 OLE_CRC_FAILS. Reset: 0 (spec). -/
  crc : Nat := 0
  /-- R263 09 OLE_RESENDS. Reset: 0 (spec). -/
  resends : Nat := 0
  /-- R263 09 OLE_HOLD_CYCLES. Reset: 0 (spec). -/
  hold : Nat := 0
deriving DecidableEq, Repr

/-- OLE_LAST_HOLD (R263). -/
structure LastHold where
  /-- R263 09. Reset: 0 (spec). -/
  cause : Nat := 0
  /-- R263 09. Reset: 0 (spec). -/
  peer : Nat := 0
  /-- R263 09. Reset: 0 (spec). -/
  graph : Nat := 0
  /-- R263 09. Reset: 0 (spec). -/
  task : Nat := 0
deriving DecidableEq, Repr

/-- The collective in progress (R249 to R257). -/
structure Coll where
  /-- R249 09. Reset: none in progress. -/
  slot : Nat := 0
  /-- R249 09. Reset: none in progress. -/
  task : Nat := 0
  /-- R249 09 phase running. Reset: none in progress. -/
  phase : Nat := 0
  /-- R249 09 CD_PHASES. Reset: none in progress. -/
  phases : Nat := 1
  /-- R249 09 device address of the receive area. Reset: none in progress. -/
  recv : Nat := 0
  /-- R249 09 bytes of one contribution. Reset: none in progress. -/
  size : Nat := 0
  /-- R240, R254 09 frames accepted in the phase: port, frame number. Reset: none in progress. -/
  got : List (Nat × Nat) := []
  /-- R254 09 port, lane and frame number of frames sent. Reset: none in progress. -/
  sent : List (Nat × Nat × Nat) := []
  /-- R254 09 port and lowest frame number the peer has not received. Reset: none in progress. -/
  acked : List (Nat × Nat) := []
  /-- R254 09 lane, frame and times the lane failed it. Reset: none in progress. -/
  fails : List (Nat × Nat × Nat) := []
  /-- R254 09 lane and the furthest frame that has come on it, accepted or discarded. Reset: none in progress. -/
  cursor : List (Nat × Nat) := []
  /-- R254 09 port and frame whose resend has been requested. Reset: none in progress. -/
  asked : List (Nat × Nat) := []
  /-- R249, R251 09 count of work cycles at which the phase's window begins. Reset: none in progress. -/
  start : Nat := 0
  /-- R247 09 the phase's DATA frames wait for the reconfiguration to end. Reset: none in progress. -/
  waiting : Bool := false
  /-- R256 09 lanes lost in the phase. Reset: none in progress. -/
  lost : Bool := false
  /-- R256 09 retries in the phase. Reset: none in progress. -/
  retried : Bool := false
  /-- R256 09 a peer has reported that it started the phase late. Reset: none in progress. -/
  peerLate : Bool := false
deriving DecidableEq, Repr

/-- Register block 11 (R263). -/
structure Ole where
  /-- R263 09 OLE_GROUP_ID. Reset: 0 (spec). -/
  groupId : BitVec 16 := 0
  /-- R263 09 OLE_INDEX. Reset: 0 (spec). -/
  index : BitVec 4 := 0
  /-- R263 09 OLE_SIZE. Reset: 1 (spec). -/
  size : BitVec 5 := 1
  /-- R263 09 OLE_GS_STATE. Reset: 0 (spec). -/
  gsState : BitVec 2 := 0
  /-- R263 09 OLE_GS_REACHED. Reset: 0 (spec). -/
  reached : BitVec 16 := 0
  /-- R263 09 OLE_SWITCH. Reset: 0 (spec). -/
  switch : BitVec 12 := 0
  /-- R263 09 OLE_REST_SWITCH. Reset: 0 (spec). -/
  restSwitch : BitVec 12 := 0
  /-- R263 09 OLE_REST_LANES0 to 3. Reset: 0xFFFF_FFFF (spec). -/
  restLanes : List Word := [0xFFFFFFFF, 0xFFFFFFFF, 0xFFFFFFFF, 0xFFFFFFFF]
  /-- R263 09 OLE_TRAIN_PORTS. Reset: 0xF (spec). -/
  trainPorts : BitVec 4 := 0xF
  /-- R467 00. Reset: 0 (spec). -/
  cur : OleCounts := {}
  /-- R467 00. Reset: 0 (spec). -/
  shown : OleCounts := {}
  /-- R263 09. Reset: 0 (spec). -/
  lastHold : LastHold := {}
  /-- R263 09. Reset: see Port. -/
  ports : List Port := List.replicate 4 {}
  /-- R263 09. Reset: see LinkLane. -/
  lanes : List LinkLane := List.replicate 32 {}
  /-- R249 09. Reset: none in progress. -/
  coll : Option Coll := none
  /-- R254 09 resend requests that leave in the next check block: port and frame. Reset: none. -/
  requests : List (Nat × Nat) := []
  /-- R247 09 lanes steered by a reconfiguration and not yet verified, with the IDLE frames received. Reset: none. -/
  reconf : List (Nat × Nat) := []
  /-- R247 09 hall time at which the reconfiguration under way began. Reset: none. -/
  steering : Option Nat := none
deriving DecidableEq, Repr

/-- One hardware ring (R329, R353). -/
structure Ring where
  /-- R353 13 HIF_RC_TYPE. Reset: 0b000 (spec). -/
  type : RingType := .submission
  /-- R353 13 HIF_RC_SIZE, k - 1. Reset: 0x0 (spec). -/
  size : BitVec 4 := 0
  /-- R353 13 HIF_RING_BASE_LO. Reset: 0 (spec). -/
  baseLo : Word := 0
  /-- R353 13 HIF_RING_BASE_HI. Reset: 0 (spec). -/
  baseHi : Word := 0
  /-- R353 13 HIF_RL_LINKED. Reset: 0 (spec). -/
  linked : BitVec 14 := 0
  /-- R353 13 HIF_RL_INT_EN. Reset: 0 (spec). -/
  intEn : Bool := false
  /-- R353 13 HIF_RL_VECTOR. Reset: 0 (spec). -/
  vector : BitVec 6 := 0
  /-- R353 13 HIF_RM_COUNT. Reset: 1 (spec). -/
  modCount : BitVec 16 := 1
  /-- R353 13 HIF_RM_TIME. Reset: 0x64 (spec). -/
  modTime : BitVec 16 := 0x64
  /-- R353 13 HIF_RING_PROD. Reset: 0 (spec). -/
  prod : Word := 0
  /-- R353 13 HIF_RING_CONS. Reset: 0 (spec). -/
  cons : Word := 0
  /-- R353 13 HIF_RS_STATE. Reset: 0b00 (spec). -/
  state : RingState := .disabled
  /-- R353 13 HIF_RS_CAUSE. Reset: 0 (spec). -/
  cause : BitVec 3 := 0
  /-- R353 13 HIF_RS_LOST. Reset: 0 (spec). -/
  lost : Nat := 0
  /-- R336 13 entries visible since the last message. Reset: 0. -/
  unsignalled : Nat := 0
  /-- R336 13 hall time of the oldest unsignalled entry. Reset: 0. -/
  oldest : Nat := 0
  /-- R341 13 first event number lost. Reset: none. -/
  gapFirst : Option Nat := none
  /-- R341 13 records lost. Reset: 0. -/
  gapCount : Nat := 0
  /-- R171 06, R337 13 entries reserved and not yet written. Reset: 0. -/
  reserved : Nat := 0
  /-- R210 07 next LR_SEQ. Reset: 0. -/
  ledgerSeq : Nat := 0
  /-- R212 07 batch size B. Reset: 256 (spec). -/
  batchB : Nat := 256
  /-- R212 07 records of the open batch. Reset: empty. -/
  batch : List (List Byte) := []
  /-- R212 07 LR_SEQ of its first record. Reset: 0. -/
  batchFirst : Nat := 0
  /-- R212 07 hall time of its first record. Reset: 0. -/
  batchAt : Nat := 0
  /-- R213 07 GAP_BEFORE of the open batch. Reset: 0. -/
  batchGap : Bool := false
  /-- R212, R213, R431 07 closed batches waiting to be signed: first LR_SEQ, gap before, ledger key slot, records. Reset: none. -/
  closed : List (Nat × Bool × Nat × List (List Byte)) := []
  /-- R214 07 signature records waiting for room, 22 entries each. Reset: empty. -/
  sigWait : List (List (List Byte)) := []
deriving DecidableEq, Repr

/-- One host window (R346). -/
structure Window where
  /-- R353 13 HIF_WC_EN. Reset: 0 (spec). -/
  en : Bool := false
  /-- R353 13 HIF_WC_READ. Reset: 0 (spec). -/
  read : Bool := false
  /-- R353 13 HIF_WC_WRITE. Reset: 0 (spec). -/
  write : Bool := false
  /-- R353 13 HIF_WC_SIZE. Reset: 0x0C (spec). -/
  size : BitVec 6 := 0x0C
  /-- R353 13 HIF_WIN_HOST_LO. Reset: 0 (spec). -/
  hostLo : Word := 0
  /-- R353 13 HIF_WIN_HOST_HI. Reset: 0 (spec). -/
  hostHi : Word := 0
deriving DecidableEq, Repr

/-- One of the eight sessions (R317). -/
structure Session where
  /-- R317 12. Reset: free (R328: 0, spec). -/
  state : SessState := .free
  /-- R317 12 role granted or requested. Reset: none. -/
  role : BitVec 8 := 0
  /-- R317 12 host key ID. Reset: none. -/
  keyId : DWord := 0
  /-- R319 12 source MAC of the host. Reset: none. -/
  mac : BitVec 48 := 0
  /-- R311 12 last accepted sequence. Reset: 0 (R325: a session starts at 1). -/
  lastSeq : Nat := 0
  /-- R320 12 cached replies and completions, newest first. Reset: empty. -/
  cache : List Frame := []
  /-- R321 12 EVENT_SUBSCRIBE block mask. Reset: 0, no copies. -/
  mask : BitVec 16 := 0
  /-- R308 12 event counter of the session. Reset: DESIGN CHOICE 0 (log 14). -/
  events : Nat := 0
  /-- R317 12 transcript digest th. Reset: none. -/
  transcript : List Byte := []
  /-- R317 12 session keys derived from K and th. Reset: none. -/
  keys : List Byte := []
  /-- R317 12 hall time of step 2. Reset: none. -/
  openedAt : Nat := 0
  /-- R318 12 hall time of the last accepted tagged request. Reset: none. -/
  lastAt : Nat := 0
deriving DecidableEq, Repr

/-- A message being reassembled (R315). -/
structure Assembly where
  /-- R315 12. Reset: none. -/
  src : BitVec 48 := 0
  /-- R315 12. Reset: none. -/
  opcode : BitVec 16 := 0
  /-- R315 12. Reset: none. -/
  seq : Word := 0
  /-- R315 12. Reset: none. -/
  count : Nat := 0
  /-- R315 12. Reset: none. -/
  length : Nat := 0
  /-- R315 12 fragments held. Reset: none. -/
  parts : List (Nat × List Byte) := []
  /-- R315 12 hall time of the first fragment. Reset: none. -/
  time : Nat := 0
deriving DecidableEq, Repr

/-- One gate-list entry (R328). -/
structure QbvEntry where
  /-- R328 12 HIF_QBV_IMM_OPEN. Reset: 1 (spec). -/
  imm : Bool := true
  /-- R328 12 HIF_QBV_OTHER_OPEN. Reset: 1 (spec). -/
  other : Bool := true
  /-- R328 12 HIF_QBV_INTERVAL. Reset: 0 (spec). -/
  interval : BitVec 24 := 0
deriving DecidableEq, Repr

/-- The control-port registers (R328) and the front end. -/
structure Cp where
  /-- R328 12 HIF_CP_TAG_TX. Reset: 0 (spec). -/
  tagTx : Bool := false
  /-- R328 12 HIF_CP_PCP_IMM. Reset: 0b110 (spec). -/
  pcpImm : BitVec 3 := 6
  /-- R328 12 HIF_CP_PCP_OTHER. Reset: 0b101 (spec). -/
  pcpOther : BitVec 3 := 5
  /-- R328 12 HIF_CP_VID. Reset: 0 (spec). -/
  vid : BitVec 12 := 0
  /-- R328 12 HIF_CP_LINK_UP. Reset: 0 (spec). -/
  linkUp : Bool := false
  /-- R328 12 HIF_CP_SQI. Reset: 0 (spec). -/
  sqi : BitVec 3 := 0
  /-- R328 12 HIF_CP_LINK_DROPS. Reset: 0 (spec). -/
  linkDrops : Nat := 0
  /-- R328 12 HIF_CP_DROPPED. Reset: 0 (spec). -/
  dropped : Nat := 0
  /-- R328 12 HIF_CP_AUTH_FAILS. Reset: 0 (spec). -/
  authFails : Nat := 0
  /-- R328 12 HIF_CP_EVENTS_DROPPED. Reset: 0 (spec). -/
  evDropped : Nat := 0
  /-- R328 12 HIF_QBV_EN. Reset: 0 (spec). -/
  qbvEn : Bool := false
  /-- R328 12 HIF_QBV_COUNT. Reset: 0x01 (spec). -/
  qbvCount : BitVec 7 := 1
  /-- R328 12 HIF_QBV_BASE_LO. Reset: 0 (spec). -/
  qbvBaseLo : Word := 0
  /-- R328 12 HIF_QBV_BASE_HI. Reset: 0 (spec). -/
  qbvBaseHi : Word := 0
  /-- R328 12 HIF_QBV_CYCLE. Reset: 0 (spec). -/
  qbvCycle : Word := 0
  /-- R328 12. Reset: see QbvEntry. -/
  qbv : List QbvEntry := List.replicate 64 {}
  /-- R314 12 the enabled list has reached its first cycle start. Reset: 0. -/
  gateInForce : Bool := false
  /-- R317 12. Reset: see Session. -/
  sessions : List Session := List.replicate 8 {}
  /-- R315 12. Reset: empty. -/
  assemblies : List Assembly := []
  /-- the model's own: next module nonce (R317 12). Reset: DESIGN CHOICE 0 (log 4). -/
  nonce : Nat := 0
deriving DecidableEq, Repr

/-- A bulk descriptor in progress (R348). -/
structure BulkJob where
  /-- R348 13. Reset: none in progress. -/
  ring : Nat := 0
  /-- R349 13 BD_COOKIE. Reset: none in progress. -/
  cookie : DWord := 0
  /-- R349 13 BD_FLAGS. Reset: none in progress. -/
  flags : BitVec 8 := 0
  /-- R351 13 list entries, 1 without LIST. Reset: none in progress. -/
  entries : Nat := 1
  /-- R351 13 bytes moved by each finished entry. Reset: none in progress. -/
  moved : List Nat := []
  /-- R351 13 bytes moved by the entry that waits for the host. Reset: none in progress. -/
  part : Nat := 0
  /-- R337 13 completion entries reserved and not yet posted. Reset: none in progress. -/
  reserved : Nat := 1
  /-- R227 08, R346 13 ranges it names: address, bytes, written. Reset: none in progress. -/
  ranges : List (Nat × Nat × Bool) := []
  /-- R351 13 R464 04 first status other than OK among its finished entries. Reset: none in progress. -/
  first : BitVec 16 := 0
  /-- R351 13 hall time at which its wait for the host began. Reset: none in progress. -/
  since : Nat := 0
deriving DecidableEq, Repr

/-- Register block 12 (R353, R443) apart from the control port. -/
structure Hif where
  /-- R353 13 HIF_ER_EN. Reset: 0 (spec). -/
  evRingEn : Bool := false
  /-- R353 13 HIF_ER_RING. Reset: 0 (spec). -/
  evRing : BitVec 14 := 0
  /-- R353 13 HIF_TC_EN. Reset: 0 (spec). -/
  tcEn : Bool := false
  /-- R353 13 HIF_TC_PERIOD. Reset: 0x01 (spec). -/
  tcPeriod : BitVec 7 := 1
  /-- R353 13 HIF_TC_RING. Reset: 0 (spec). -/
  tcRing : BitVec 14 := 0
  /-- R353 13 HIF_PL_UP. Reset: 0 (spec). -/
  plUp : Bool := false
  /-- R353 13 HIF_PL_SPEED. Reset: 0 (spec). -/
  plSpeed : BitVec 3 := 0
  /-- R353 13 HIF_PL_WIDTH. Reset: 0 (spec). -/
  plWidth : BitVec 4 := 0
  /-- R353 13 HIF_PL_MPS. Reset: 0 (spec). -/
  plMps : BitVec 4 := 0
  /-- R353 13 HIF_EVENTS_LOST. Reset: 0 (spec). -/
  eventsLost : Nat := 0
  /-- R353 13 HIF_AS_VALID, HIF_AS_BASE. Reset: 0 (spec). -/
  aper : List (Bool × BitVec 14) := List.replicate 16 (false, 0)
  /-- R353 13. Reset: see Window. -/
  wins : List Window := List.replicate 64 {}
  /-- R353 13 rings set up; a ring not listed is at its reset values. Reset: all at reset (spec). -/
  rings : List (Nat × Ring) := []
  /-- R443 18 HIF_IRQ_GLOBAL_EN. Reset: 0 (spec). -/
  irqGlobal : Bool := false
  /-- R443 18 HIF_IE_MASK. Reset: 0 (spec). -/
  irqEn : List Word := List.replicate 17 0
  /-- R443 18 HIF_IV_VECTOR. Reset: 0 (spec). -/
  irqVec : List (BitVec 6) := List.replicate 17 0
  /-- R343 13, R444 18 MSI-X mask bits. Reset: PRESUMED all ones (PCI Express 5.0; log 15). -/
  msixMask : BitVec 64 := 0xFFFFFFFFFFFFFFFF
  /-- R343 13, R444 18 MSI-X Pending Bits. Reset: PRESUMED 0 (PCI Express 5.0; log 15). -/
  msixPending : BitVec 64 := 0
  /-- R341 13 module event number. Reset: 0 (spec). -/
  eventNumber : Nat := 0
  /-- R438 18 latch of each reading source for each low word: source, address, high word. Reset: none filled. -/
  latches : List (Nat × Nat × Word) := []
  /-- R348 13. Reset: none in progress. -/
  bulk : List BulkJob := []
  /-- R347 13 egress buffer: host bytes that wait while the host withholds credits, each with its host address, oldest first. Reset:
  empty. -/
  egress : List (Nat × Byte) := []
  /-- R347 13 a scheduled byte of the task being run found the egress buffer full. Reset: 0. -/
  egressFull : Bool := false
deriving DecidableEq, Repr

/-- One monitor input (R281). -/
structure Mon where
  /-- R288 10 CAL_MON_RAW. Reset: DESIGN CHOICE 0 (spec gives none; log 12). -/
  raw : Nat := 0
  /-- R281 10 last 8 samples. Reset: DESIGN CHOICE empty (log 12). -/
  hist : List Nat := []
  /-- R282 10 consecutive railed scans. Reset: 0. -/
  railed : Nat := 0
  /-- R282 10. Reset: 0. -/
  faulted : Bool := false
deriving DecidableEq, Repr

/-- One heater zone 8 a + z (R288). -/
structure Zone where
  /-- R288 10 CAL_ZS_LOOP. Reset: 0 (spec). -/
  loop : Bool := false
  /-- R288 10 CAL_ZS_SENSOR_BAD. Reset: 0 (spec). -/
  sensorBad : Bool := false
  /-- R288 10 CAL_ZS_NO_SENTINEL. Reset: 0 (spec). -/
  noSentinel : Bool := false
  /-- R288 10 CAL_ZS_ERROR, 0.1 mrad. Reset: 0 (spec). -/
  error : Int := 0
  /-- R271 10 consecutive scans above 6 mrad. Reset: 0. -/
  badScans : Nat := 0
  /-- R271 10 accumulated correction, 0.1 mrad. Reset: 0. -/
  corr : Int := 0
  /-- R270 10 heater drive, in the unit of the free coefficients. Reset: DESIGN CHOICE 0 (log 12). -/
  drive : Int := 0
  /-- R267, R270 10 T_set, 1/16 degree. Reset: DESIGN CHOICE 0 (log 12). -/
  setTemp : Int := 0
  /-- R267, R270 10 P_set. Reset: DESIGN CHOICE 0 (log 12). -/
  setDrive : Int := 0
  /-- R271 10 temperature at the entry to LOOP. Reset: 0. -/
  entryTemp : Int := 0
  /-- R271 10 numerator of kappa as refitted: accumulated correction. Reset: 0. -/
  kappaN : Int := 0
  /-- R271 10 denominator: temperature change over the episode, 0 while the first coefficient stands. Reset: 0. -/
  kappaD : Int := 0
  /-- R271 10 consecutive epochs within 1.5 mrad. Reset: 0. -/
  calm : Nat := 0
  /-- R271 10 an error beyond 1.5 mrad since the last fallow slot. Reset: 0. -/
  stray : Bool := false
deriving DecidableEq, Repr

/-- CAL_ARC_STATE of one arcade (R288). -/
structure ArcCal where
  /-- R288 10 CAL_ARC_EPB, 1/16 bit. Reset: 0 (spec). -/
  epb : Nat := 0
  /-- R288 10 CAL_ARC_POWER, 0.5 %. Reset: 0 (spec). -/
  power : Nat := 0
deriving DecidableEq, Repr

/-- What one reading of a stall found (R273, R274). -/
structure Reading where
  /-- R274 10 the stall's front hold as it was read. Reset: none taken. -/
  hold : Hold := {}
  /-- R43 02 the spare map under which it was read. Reset: none taken. -/
  map : List (Nat × Nat) := []
  /-- R274 10 sum of the 64 values of x of a tap, in units of h/64: physical row, column and sum; a tap not listed stands on its boundary, sum 0.
  Reset: none taken. -/
  errors : List (Nat × Nat × Int) := []
  /-- R274 10 the same sum of a row's no-column symbols. Reset: none taken. -/
  zeros : List (Nat × Int) := []
deriving DecidableEq, Repr

/-- CAL_STALL_STATE of one physical stall (R288), its readings, its drop ring and its sentinel. -/
structure StallCal where
  /-- R288 10 CAL_SS_READINGS. Reset: 0 (spec). -/
  readings : Nat := 0
  /-- R288 10 CAL_SS_MAX_CORR. Reset: 0 (spec). -/
  maxCorr : Nat := 0
  /-- R288 10 CAL_SS_EPB. Reset: 0 (spec). -/
  epb : Nat := 0
  /-- R288 10 CAL_SS_READ. Reset: 0b10 (spec). -/
  read : BitVec 2 := 2
  /-- R70, R285 10 commissioned drop reading, 0.1 uW. Reset: DESIGN CHOICE 0 (log 12). -/
  commissioned : Nat := 0
  /-- R274, R276 10 readings since the current edition was built, oldest first. Reset: none taken. -/
  taken : List Reading := []
  /-- R272 10 steps the drop heater has been moved. Reset: 0. -/
  dropSteps : Nat := 0
  /-- R272 10 position of the electro-optic section, in 1/1000 of its range. Reset: DESIGN CHOICE 500, mid-range (log 12). -/
  eoAt : Nat := 500
  /-- R267 10 operating point of its sentinel, as recorded in phase 6. Reset: DESIGN CHOICE 0 (log 12). -/
  point : Int := 0
  /-- R280 10 epoch from which its next spare check is due. Reset: 0. -/
  checkDue : Nat := 0
  /-- R280 10 spare checks done on it. Reset: 0. -/
  checks : Nat := 0
deriving DecidableEq, Repr

/-- A monitor calibration record (R285). -/
structure MonRecord where
  /-- R285 10 calendar time of COMMIT, UTC seconds. Reset: none held. -/
  time : Nat := 0
  /-- R285 10 reference power as written, nW. Reset: none held. -/
  power : Word := 0
  /-- R285 10 reference identifier as written. Reset: none held. -/
  ref : List Word := [0, 0, 0, 0]
  /-- R285 10 the reference monitor's reading, 0.1 uW. Reset: none held. -/
  reading : Int := 0
  /-- R284, R285 10 number of the step ZERO that measured its zeros, 0 for the factory's. Reset: none held. -/
  zeroNo : Nat := 0
  /-- R284, R285 10 number of the step FULL that measured its gains, 0 for the factory's. Reset: none held. -/
  gainNo : Nat := 0
  /-- R282 10 sum of the eight dark monitors of each converter when the zeros were taken. Reset: none held. -/
  dark : List Int := []
  /-- R285 10 commissioned power of each arcade, 0.1 uW. Reset: none held. -/
  commissioned : List Nat := []
deriving DecidableEq, Repr

/-- A step ZERO or FULL of system calibration under way (R284). -/
structure SysRun where
  /-- R323 12 where its completion goes; none for a step begun by CAL_CTRL. Reset: none under way. -/
  who : Option Origin := none
  /-- R284 10 the step, 1 ZERO or 2 FULL. Reset: none under way. -/
  step : Nat := 1
  /-- R284 10 hall time at which its 0.5 s began. Reset: none under way. -/
  since : Nat := 0
  /-- R269, R284 10 what the reacquisition that ends it finds. Reset: none under way. -/
  cal : CalObs := {}
deriving DecidableEq, Repr

/-- Register block 13 (R288) and the trim editions. -/
structure Cal where
  /-- R288 10 CAL_SYSCAL_STEP. Reset: 0 (spec). -/
  step : BitVec 3 := 0
  /-- R288 10 CAL_SELF_TRIM_EN in force. Reset: 1 (spec). -/
  selfTrim : Bool := true
  /-- R288 10 value written. Reset: 1 (spec). -/
  selfTrimNext : Bool := true
  /-- R288 10 CAL_URGENT_EN. Reset: 1 (spec). -/
  urgentEn : Bool := true
  /-- R288 10 CAL_PHASE. Reset: 0 (spec). -/
  phase : BitVec 4 := 0
  /-- R288 10 CAL_SYSCAL_STAGE. Reset: 0 (spec). -/
  stage : BitVec 2 := 0
  /-- R267, R284 10 hall time at which that phase began. Reset: 0. -/
  phaseAt : Nat := 0
  /-- R288 10 CAL_START_FAILS. Reset: 0 (spec). -/
  startFails : Nat := 0
  /-- R288 10 CAL_EPB_MODULE. Reset: 0 (spec). -/
  epbModule : Nat := 0
  /-- R288 10 CAL_EPB_TABLE. Reset: 0 (spec). -/
  epbTable : Nat := 0
  /-- R288 10 CAL_EPB_ARCADE. Reset: 0x1F (spec). -/
  epbArcade : Nat := 0x1F
  /-- R288 10 CAL_ED_COUNT. Reset: 0 (spec). -/
  edCount : BitVec 16 := 0
  /-- R288 10 CAL_ED_CAUSE. Reset: 0 (spec). -/
  edCause : BitVec 2 := 0
  /-- R288 10 CAL_SYSCAL_POWER. Reset: 0 (spec). -/
  power : Word := 0
  /-- R288 10 CAL_SYSCAL_REF_ID0 to 3. Reset: 0 (spec). -/
  refId : List Word := [0, 0, 0, 0]
  /-- R285 10 the monitor calibration record in force; CAL_SYSCAL_VALID and CAL_SYSCAL_TIME show it. Reset: none, both 0 (spec). -/
  record : Option MonRecord := none
  /-- R284 10 zeros and gains measured by steps ZERO and FULL. Reset: none. -/
  draft : MonRecord := {}
  /-- R284 10 step ZERO or FULL under way. Reset: none. -/
  sysRun : Option SysRun := none
  /-- R288 10 CAL_SEL_MEAN. Reset: 0 (spec). -/
  selMean : Bool := false
  /-- R288 10 CAL_SEL_INPUT. Reset: 0 (spec). -/
  selInput : BitVec 11 := 0
  /-- R281 10 monitor inputs sampled; one not listed is unsampled. Reset: DESIGN CHOICE unsampled (log 12). -/
  mons : List (Nat × Mon) := []
  /-- R281 10 place of each converter's scan in its 512 inputs. Reset: DESIGN CHOICE the first (log 12). -/
  scan : List Nat := [0, 0, 0, 0]
  /-- R288 10. Reset: see ArcCal. -/
  arcs : List ArcCal := List.replicate 24 {}
  /-- R288 10. Reset: see Zone. -/
  zones : List Zone := List.replicate 192 {}
  /-- R288 10. Reset: see StallCal. -/
  stalls : List StallCal := List.replicate 816 {}
  /-- R266, R276 10 an edition is built and not yet marked pending, with its cause. Reset: none. -/
  pending : Option Nat := none
  /-- R279 10 rows more than 0.5 bit below their arcade's median, and for how many consecutive spans. Reset: empty. -/
  low : List (Nat × Nat) := []
  /-- R278 10 effective phase bits of each measured row 68 g + r, in 1/16 bit. Reset: none measured. -/
  rowEpb : List (Nat × Nat) := []
  /-- R264 10 the current edition. Reset: see Edition. -/
  trims : Edition := {}
  /-- R264 10 the edition in the pending area. Reset: see Edition. -/
  trimsPending : Edition := {}
  /-- R266, R276 10 the edition built and not yet marked pending. Reset: see Edition. -/
  built : Edition := {}
  /-- R264, R267 10 calibrations that have measured trims, slicer zeros, monitor zeros or gains. Reset: DESIGN CHOICE 0 (log 3). -/
  measured : Nat := 0
  /-- R393 16 retention buffers hold the trims. Reset: 0. -/
  retention : Bool := false
  /-- R267 10 start-up calibration has completed since power-on or cold reset. Reset: 0. -/
  started : Bool := false
deriving DecidableEq, Repr

/-- One comb source (R289, R304). -/
structure Source where
  /-- R304 11 CLS_SS_STATE. Reset: 0b000 (spec). -/
  state : SrcState := .off
  /-- R304 11 CLS_SS_BIAS. Reset: 0 (spec). -/
  bias : Nat := 0
  /-- R304 11 CLS_SS_POWER. Reset: 0 (spec). -/
  power : Nat := 0
  /-- R304 11 CLS_SS_OFFSET. Reset: 0 (spec). -/
  offset : Int := 0
  /-- R304 11 output at the last start-up, 0.1 uW. Reset: DESIGN CHOICE 0 (log 12). -/
  start : Nat := 0
  /-- R293 11 role resumed after DORMANT or step ZERO. Reset: off. -/
  role : SrcState := .off
  /-- R297, R302 11 a takeover is under way: kind 1 fade, 3 host request. Reset: none. -/
  due : Option Nat := none
deriving DecidableEq, Repr

/-- CLS_LAST_TAKEOVER (R304). -/
structure LastTakeover where
  /-- R304 11. Reset: 0 (spec). -/
  kind : Nat := 0
  /-- R304 11 CLS_LT_FROM. Reset: 0 (spec). -/
  src : Nat := 0
  /-- R304 11 CLS_LT_TO. Reset: 0 (spec). -/
  dst : Nat := 0
  /-- R304 11 CLS_LT_DARK. Reset: 0 (spec). -/
  dark : Nat := 0
deriving DecidableEq, Repr

/-- Register block 1 (R304). -/
structure Cls where
  /-- R304 11. Reset: see Source. -/
  sources : List Source := List.replicate 56 {}
  /-- R304 11. Reset: 0 (spec). -/
  last : LastTakeover := {}
  /-- R304 11 CLS_HOLD_CYCLES. Reset: 0 (spec). -/
  hold : Nat := 0
  /-- R297 11 pairs that meet the criterion and wait. Reset: none. -/
  waits : List Nat := []
  /-- R302 11 host requests waiting, serving source index. Reset: none. -/
  requests : List Nat := []
  /-- R299 11 arcades whose light hold lasts, with the hall time of the trip. Reset: none. -/
  tripped : List (Nat × Nat) := []
  /-- R300 11 dark arcades. Reset: none. -/
  dark : List Nat := []
deriving DecidableEq, Repr

/-- One temperature sensor (R354, R370). -/
structure Sensor where
  /-- R370 14 TPS_S_TEMP, 1/16 degree. Reset: DESIGN CHOICE 0 (spec gives none; log 12). -/
  temp : Int := 0
  /-- R370 14 TPS_S_VALID. Reset: 0 (spec). -/
  valid : Bool := false
  /-- R355 14 sampled since powered. Reset: 0. -/
  sampled : Bool := false
  /-- R357 14 end of the 100 ms of 16 kHz sampling. Reset: 0. -/
  fastUntil : Nat := 0
deriving DecidableEq, Repr

/-- One sensor domain (R356, R370). -/
structure Domain where
  /-- R370 14 TPS_MAX_LEVEL. Reset: 0 (spec). -/
  level : Nat := 0
  /-- R358 14 hall times since which the maximum is 3 degrees below T1, T2 and T3. Reset: none. -/
  below : List (Option Nat) := [none, none, none]
  /-- R370 14 TPS_MAX_FAST. Reset: 0 (spec). -/
  fast : Bool := false
deriving DecidableEq, Repr

/-- Register block 14 (R370, R390). -/
structure Tps where
  /-- R370 14 TPS_FLOOR. Reset: 0 (spec). -/
  floor : BitVec 2 := 0
  /-- R370 14 TPS_K. Reset: 0 (spec). -/
  k : Nat := 0
  /-- R361 14 hall time of the last step of k or of the change that began the fall. Reset: 0. -/
  stepAt : Nat := 0
  /-- R370 14. Reset: see Sensor. -/
  sensors : List Sensor := List.replicate 278 {}
  /-- R370 14. Reset: see Domain. -/
  domains : List Domain := List.replicate 7 {}
  /-- R370 14 TPS_THROTTLE_CYCLES. Reset: 0 (spec). -/
  skipped : Nat := 0
  /-- R370 14 TPS_FROSTS. Reset: 0 (spec). -/
  frosts : Nat := 0
  /-- R367, R370 14 TPS_TRIP_LATCH: sensor, reading, calendar seconds and nanoseconds. Reset: none, TPS_TL_VALID 0 (spec). -/
  trip : Option (Nat × Int × Nat × Nat) := none
  /-- R364 14 corrections of the references that follow the temperature, in the steps of its table: 0 the carrier oscillator, 1 + k the
  resonator of source k, 57 + i the slicers under sensor i. Reset: DESIGN CHOICE 0 (spec gives none; log 96). -/
  refs : List Int := List.replicate 185 0
  /-- R390 15 TPS_PS_LEVEL, L_p. Reset: 0 (spec). -/
  lp : Nat := 0
  /-- R390 15 TPS_PS_EXCURSION. Reset: 0 (spec). -/
  excursion : Bool := false
  /-- R380 15 hall time at which the excursion began. Reset: 0. -/
  excAt : Nat := 0
  /-- R380 15 excursion-rule rises of this excursion. Reset: 0. -/
  excSteps : Nat := 0
  /-- R390 15 TPS_PS_ISO_OK. Reset: 0 (spec). -/
  isoOk : Bool := false
  /-- R382 15 telemetry lost and not yet back for 10 ms. Reset: 0. -/
  isoLost : Bool := false
  /-- R390 15 TPS_PS_GROUPS. Reset: 0b00_0011 (spec). -/
  groups : BitVec 6 := 3
  /-- R390 15 TPS_IN_V. Reset: DESIGN CHOICE 0 (spec gives none; log 12). -/
  inV : Nat := 0
  /-- R390 15 TPS_IN_I. Reset: DESIGN CHOICE 0 (spec gives none; log 12). -/
  inI : Nat := 0
  /-- R378 15 input currents of the last 1 ms, 10 mA. Reset: none sampled. -/
  currents : List Nat := []
  /-- R379 15 input powers of the last 100 us, 0.1 mW. Reset: none sampled. -/
  powers : List Nat := []
  /-- R379 15 sum and count of the input powers since the last update of P1s. Reset: none sampled. -/
  msPower : Nat × Nat := (0, 0)
  /-- R379 15 sums and counts of the input powers of the last 1 s, one for each ms. Reset: none sampled. -/
  secPower : List (Nat × Nat) := []
  /-- R390 15 TPS_P1S. Reset: 0 (spec). -/
  p1s : Nat := 0
  /-- R390 15 TPS_P100. Reset: 0 (spec). -/
  p100 : Nat := 0
  /-- R390 15 TPS_PK_EXC. Reset: 0 (spec). -/
  pkExc : Nat := 0
  /-- R390 15 TPS_PK_P100. Reset: 0 (spec). -/
  pkP100 : Nat := 0
  /-- R390 15 TPS_EXC_COUNT. Reset: 0 (spec). -/
  excCount : Nat := 0
  /-- R380 15 hall time of the last fast-rule rise. Reset: none. -/
  fastAt : Option Nat := none
  /-- R380 15 hall time of the last sustained-rule rise. Reset: none. -/
  sustAt : Option Nat := none
  /-- R380 15 hall time of the last fall. Reset: none. -/
  fallAt : Option Nat := none
  /-- R380 15 hall time since which P100 is at or below 1,000 W. Reset: 0. -/
  calmAt : Nat := 0
  /-- R381 15 hall time since which P100 exceeds 1,150 W. Reset: none. -/
  overAt : Option Nat := none
  /-- R390 15 TPS_BK_CAP. Reset: DESIGN CHOICE 0 (spec gives none; log 12). -/
  bkCap : Nat := 0
  /-- R390 15 TPS_BK_EXT. Reset: DESIGN CHOICE 0 (spec gives none; log 12). -/
  bkExt : Nat := 0
  /-- R374, R376 15 the hot-swap switch conducts. Reset: true, the module is running (log 16). -/
  switch : Bool := true
  /-- R374 15 PWR_EN asserted. Reset: true, the module is running (log 16). -/
  pwrEn : Bool := true
  /-- R387, R389 15 the backup domain has powered on again since the last start. Reset: 0. -/
  calLost : Bool := false
  /-- R392 16 OFF by POWER_OFF: waits for PWR_EN or the input to cycle. Reset: 0. -/
  offLatch : Bool := false
  /-- R373 15 input below 40 V, to report each occurrence. Reset: 0. -/
  inputLow : Bool := false
  /-- R373 15 input above 60 V. Reset: 0. -/
  inputHigh : Bool := false
deriving DecidableEq, Repr

/-- One firmware component (R415, R432). -/
structure FwSlot where
  /-- R432 17 MSC_FS_ACTIVE, false A. Reset: DESIGN CHOICE A (spec gives none; log 12). -/
  active : Bool := false
  /-- R432 17 MSC_FS_A_VALID. Reset: DESIGN CHOICE 1 (the running slot passed R416; log 12). -/
  aValid : Bool := true
  /-- R432 17 MSC_FS_B_VALID. Reset: DESIGN CHOICE 0 (log 12). -/
  bValid : Bool := false
  /-- R432 17 MSC_FS_PENDING, with the earliest hall time of the switch. Reset: 0 (spec). -/
  pending : Option Nat := none
  /-- R432 17 MSC_FS_TRIAL, with the hall time it ends. Reset: 0 (spec). -/
  trial : Option Nat := none
  /-- R432 17 MSC_FS_EDITION_WAIT. Reset: 0 (spec). -/
  editionWait : Bool := false
  /-- R413, R432 17 anti-rollback counter. Reset: DESIGN CHOICE 0 (spec gives none; log 12). -/
  counter : Word := 0
  /-- R432 17 MF_VERSION_NO of slots A and B. Reset: DESIGN CHOICE 0 (log 12). -/
  version : List Word := [0, 0]
  /-- R418 17 MF_SECURITY of slots A and B. Reset: DESIGN CHOICE 0 (log 12). -/
  security : List Word := [0, 0]
  /-- R418 17 MF_EDITION of slots A and B. Reset: DESIGN CHOICE NE-1 (log 12). -/
  edition : List (BitVec 8) := [1, 1]
  /-- R418 17 image digests of slots A and B. Reset: DESIGN CHOICE empty (log 12). -/
  digest : List (List Byte) := [[], []]
  /-- R415 17 images in slots A and B. Reset: DESIGN CHOICE empty (log 12). -/
  image : List (List Byte) := [[], []]
deriving DecidableEq, Repr

/-- A manifest held until its arbitration interval ends (R419). -/
structure Held where
  /-- R419 17 where its completion goes. Reset: none held. -/
  who : Origin := .ring 0 0
  /-- R418 17. Reset: none held. -/
  man : Manifest := {}
deriving DecidableEq, Repr

/-- The update session that holds the lock (R419, R420). -/
structure UpdSession where
  /-- R420 17 holder. Reset: none. -/
  who : Origin := .ring 0 0
  /-- R418 17. Reset: none. -/
  man : Manifest := {}
  /-- R421 17 bytes written so far. Reset: none. -/
  written : Nat := 0
  /-- R421 17 bytes written. Reset: none. -/
  data : List Byte := []
  /-- R420 17 hall time of the last UPDATE_DATA or UPDATE_FINISH. Reset: none. -/
  lastAt : Nat := 0
deriving DecidableEq, Repr

/-- An enrolled host key (R413). -/
structure HostKey where
  /-- R413 17 host key ID. Reset: none enrolled. -/
  id : DWord := 0
  /-- R413 17 role, 0x00 revoked. Reset: none enrolled. -/
  role : BitVec 8 := 0
  /-- R413 17 public key. Reset: none enrolled. -/
  key : List Byte := []
  /-- R413 17 SR_SEQUENCE. Reset: none enrolled. -/
  seq : Nat := 0
deriving DecidableEq, Repr

/-- Register block 15 (R408, R432, R441), the journal and the MSC core. -/
structure Msc where
  /-- R391, R408 16 MSC_ST_STATE. Reset: 0x1 STANDBY (spec). -/
  mode : Mode := .standby
  /-- R408 16 MSC_ST_PREVIOUS. Reset: 0x0 OFF (spec). -/
  prev : Mode := .off
  /-- R408 16 hall time of the last transition, from which MSC_ST_SECONDS counts. Reset: 0 (spec). -/
  modeAt : Nat := 0
  /-- R408 16 MSC_RC_TYPE. Reset: 0x1 (spec). -/
  rcType : Nat := 1
  /-- R408 16 MSC_RC_SOURCE. Reset: 0x0 (spec). -/
  rcSource : Nat := 0
  /-- R408 16 MSC_RC_BLOCK. Reset: 0x0 (spec). -/
  rcBlock : Nat := 0
  /-- R408 16 MSC_RC_HALF1. Reset: 0 (spec). -/
  rcHalf1 : Bool := false
  /-- R408 16 MSC_RC_HALF0. Reset: 0 (spec). -/
  rcHalf0 : Bool := false
  /-- R408 16 MSC_RC_COUNT. Reset: 0 (spec). -/
  rcCount : Nat := 0
  /-- R402, R408 16 MSC_UNIT_STATE: block and half (or engine) FAULTED. Reset: none, 0 (spec). -/
  units : List (Nat × Nat) := []
  /-- R403 16 block, half and epoch of faults in the last 16 epochs. Reset: empty. -/
  unitHist : List (Nat × Nat × Nat) := []
  /-- R408 16 MSC_DF_REFAULT0. Reset: 0 (spec). -/
  refault0 : Nat := 0
  /-- R408 16 MSC_DF_REFAULT1. Reset: 0 (spec). -/
  refault1 : Nat := 0
  /-- R408 16 MSC_DF_E0, MSC_DF_E1: die and epoch. Reset: 0 (spec). -/
  dieFaults : List (Nat × Nat) := []
  /-- R408 16 MSC_WD_RECENT: hall times of restarts in the last 60 s. Reset: 0 (spec). -/
  wdTimes : List Nat := []
  /-- R408 16 MSC_WD_TOTAL. Reset: 0 (spec). -/
  wdTotal : Nat := 0
  /-- R408 16 MSC_WD_LONGEST. Reset: 0 (spec). -/
  wdLongest : Nat := 0
  /-- R404 16 the MSC core is running (not in a restart). Reset: 1. -/
  running : Bool := true
  /-- R404 16 hall time a restart began. Reset: 0. -/
  restartAt : Nat := 0
  /-- R311, R319 12 commands accepted and waiting for the MSC. Reset: empty. -/
  waiting : List (Origin × Job) := []
  /-- R440 18 register accesses waiting for a subsystem reset to end: path, offset, word written. Reset: none. -/
  accesses : List (Path × Nat × Option Word) := []
  /-- R323 12 action that begins 1 ms after its completion. Reset: none. -/
  action : Option Action := none
  /-- R323 12 hall time at which it begins. Reset: 0. -/
  actionAt : Nat := 0
  /-- R394 16 reset under way, until RESET_END. Reset: none. -/
  resetting : Option Action := none
  /-- R441 18 MSC_LED_OVERRIDE. Reset: 0 (spec). -/
  ledOverride : Bool := false
  /-- R441 18 MSC_LED_PATTERN. Reset: 0 (spec). -/
  ledPattern : BitVec 3 := 0
  /-- R441 18 MSC_STRAP_SLOT. Reset: DESIGN CHOICE 0xF, pins open (R450; log 16). -/
  strapSlot : BitVec 4 := 0xF
  /-- R441 18 MSC_STRAP_PCIE_OFF. Reset: DESIGN CHOICE 0, tied to GND (log 16). -/
  strapPcieOff : Bool := false
  /-- R441 18 MSC_STRAP_CP_MASTER. Reset: DESIGN CHOICE 1, pin open (log 16). -/
  strapMaster : Bool := true
  /-- R451 19 RESET_N held low. Reset: DESIGN CHOICE 0 (log 16). -/
  resetHeld : Bool := false
  /-- R386, R390 15 calendar UTC seconds. Reset: DESIGN CHOICE 0, the backup domain has powered on (R387; log 16). -/
  calS : Nat := 0
  /-- R386, R390 15 calendar nanoseconds. Reset: DESIGN CHOICE 0 (R387; log 16). -/
  calNs : Nat := 0
  /-- R387 15 calendar-set flag. Reset: 0 (R387). -/
  calSet : Bool := false
  /-- R426 17 journal slots held, newest first. Reset: DESIGN CHOICE empty (log 12). -/
  journal : List (Nat × List Byte) := []
  /-- R428, R432 17 next slot number. Reset: DESIGN CHOICE 0 (spec gives none; log 12). -/
  journalHead : Nat := 0
  /-- R426 17 next record sequence number. Reset: DESIGN CHOICE 0 (log 12). -/
  journalSeq : Nat := 0
  /-- R427 17 second in which event records are being counted. Reset: 0. -/
  jSecond : Nat := 0
  /-- R427 17 event records journaled in it. Reset: 0. -/
  jCount : Nat := 0
  /-- R427 17 first event number not journaled, and count. Reset: none. -/
  jGap : Option (Nat × Nat) := none
  /-- R416, R432 17 MSC_BOOT_CHAIN. Reset: 0 until R416 completes (spec). -/
  chain : List Byte := List.replicate 32 0
  /-- R416 17 measured boot has completed. Reset: 0. -/
  booted : Bool := false
  /-- R432 17 MSC_K_IDENTITY_OK. Reset: 0 (spec). -/
  identityOk : Bool := false
  /-- R413, R432 17 owner public key; empty when no owner record is in force. Reset: MSC_K_OWNER 0 (spec). -/
  ownerKey : List Byte := []
  /-- R413, R432 17 enrolled host keys. Reset: MSC_K_HOSTS 0 (spec). -/
  hostKeys : List HostKey := []
  /-- R413, R432 17 MSC_K_LEDGER_SLOT. Reset: 0 (spec). -/
  ledgerSlot : Nat := 0
  /-- R413, R416 17 signed records in force in flash order: kind, host key ID, bytes. Reset: none in force. -/
  records : List (Nat × Nat × List Byte) := []
  /-- R413 17 highest SR_SEQUENCE in force of each kind. Reset: none in force. -/
  configSeqs : List (Nat × Nat) := []
  /-- R415, R432 17. Reset: see FwSlot. -/
  fw : List FwSlot := List.replicate 6 {}
  /-- R419, R432 17 MSC_UPDATE. Reset: none, MSC_UP_LOCK 0 (spec). -/
  update : Option UpdSession := none
  /-- R419 17 manifests held. Reset: empty. -/
  held : List Held := []
  /-- R432 17 MSC_RS_STATE. Reset: 0 (spec). -/
  rcvState : BitVec 3 := 0
  /-- R432 17 MSC_RS_STATUS. Reset: 0 (spec). -/
  rcvStatus : BitVec 16 := 0
  /-- R430 17 hall time of DONE. Reset: 0. -/
  rcvAt : Nat := 0
  /-- R213 07 queued ledger copies: ring and record, an empty record for the completion of a run (R212). Reset: empty. -/
  copies : List (Nat × List Byte) := []
  /-- R213, R398 07 ring, first and last LR_SEQ of the records that went unsigned since its last batch. Reset: empty. -/
  copyGap : List (Nat × Nat × Nat) := []
  /-- R308 12 opcode and HDR_HT_LOW journaled for the privileged commands accepted, newest first; the manual gives no record layout for it (log 49). Reset: DESIGN CHOICE empty (log 49). -/
  hostTimes : List (BitVec 16 × Word) := []
  /-- R378 15 a power record has been written since the last start. Reset: 0. -/
  powerSeen : Bool := false
deriving DecidableEq, Repr

/-- The machine. -/
structure State where
  /-- R443 18. Reset: see EventRegs. -/
  ev : EventRegs := {}
  /-- R32 02. Reset: see Stall. -/
  stalls : List Stall := List.replicate 816 {}
  /-- R77 02. Reset: see Tdw. -/
  tdw : Tdw := {}
  /-- R103 03. Reset: see Psr. -/
  psr : Psr := {}
  /-- R135 04. Reset: see Squ. -/
  squ : Squ := {}
  /-- R160 05. Reset: see Lge. -/
  lge : Lge := {}
  /-- R161 05. Reset: see Xl. -/
  xl : Xl := {}
  /-- R192 06. Reset: see SeqState. -/
  seq : SeqState := {}
  /-- R193 06. Reset: see Tsl. -/
  tsl : Tsl := {}
  /-- R234 08. Reset: see Hms. -/
  hms : Hms := {}
  /-- R235 08. Reset: see Lms. -/
  lms : Lms := {}
  /-- R205 07. Reset: none recorded. -/
  regions : List Region := []
  /-- R263 09. Reset: see Ole. -/
  ole : Ole := {}
  /-- R328 12. Reset: see Cp. -/
  cp : Cp := {}
  /-- R353 13. Reset: see Hif. -/
  hif : Hif := {}
  /-- R288 10. Reset: see Cal. -/
  cal : Cal := {}
  /-- R304 11. Reset: see Cls. -/
  cls : Cls := {}
  /-- R370 14. Reset: see Tps. -/
  tps : Tps := {}
  /-- R408 16. Reset: see Msc. -/
  msc : Msc := {}
  /-- R216 08 device memory; an unlisted byte reads 0x00. Reset: DESIGN CHOICE 0x00 everywhere (log 2). -/
  mem : List Host.Cell := []
  /-- R346 13 host memory as the host windows reach it (the environment's). Reset: DESIGN CHOICE 0x00 everywhere (log 2). -/
  hostMem : List Host.Cell := []
  /-- the model's own: what left the module, newest first (log 5). Reset: DESIGN CHOICE empty (log 5). -/
  out : List Output := []
  /-- the model's own: index of the next free value (log 4). Reset: DESIGN CHOICE 0 (log 4). -/
  fresh : Nat := 0
  /-- the model's own: commands waiting, first in first out. Reset: empty. -/
  pending : List Instr := []
deriving DecidableEq, Repr

/-- The module right after power-on reset: mode STANDBY, every register at its reset value (R391, R394, R397). -/
def State.reset : State := {}

end Sys2Proof.Machine
end

