-- ==== Sys2Proof/Machine/Ops.lean ====
section
/-! DEFINITION. Named operations over bytes, lists, time and memory. -/

namespace Sys2Proof.Machine

/-- The outcome of a meaning. -/
abbrev Out := Host.Outcome State Fault Refusal

/-! ### Bytes (R8) -/

/-- The `n` low bytes of `v`, least significant first. -/
def le : Nat → Nat → List Byte
  | 0, _ => []
  | n + 1, v => BitVec.ofNat 8 v :: le n (v / 256)

/-- The number that bytes spell, least significant first. -/
def ofLe : List Byte → Nat
  | [] => 0
  | b :: r => b.toNat + 256 * ofLe r

/-- `n` zero bytes. -/
def zeros (n : Nat) : List Byte := List.replicate n 0

/-- Bytes `i` to `i + n - 1` of a record, as a number. -/
def field (bs : List Byte) (i n : Nat) : Nat := ofLe ((bs.drop i).take n)

/-- `bs` cut or filled with zero bytes to `n` bytes. -/
def fit (n : Nat) (bs : List Byte) : List Byte := (bs ++ zeros n).take n

/-- Bits `hi` to `lo` of a word. -/
def bits (w : Word) (hi lo : Nat) : Nat := (w.toNat / 2 ^ lo) % 2 ^ (hi - lo + 1)

/-- Bit `i` of a word. -/
def bit (w : Word) (i : Nat) : Bool := w.toNat.testBit i

/-- A word built of fields placed at bit offsets. -/
def pack (fs : List (Nat × Nat)) : Word := BitVec.ofNat 32 (fs.foldl (fun a f => a + f.2 * 2 ^ f.1) 0)

/-- A flag as a number. -/
def bool (b : Bool) : Nat := if b then 1 else 0

/-- A counter that stays at `max` (R328, R234). -/
def sat (max v : Nat) : Nat := if v ≤ max then v else max

/-- `v` as a field of `n` bits, two's complement. -/
def twos (n : Nat) (v : Int) : Nat := (v % (2 ^ n : Int)).toNat

/-- The signed value of an `n`-bit two's complement field. -/
def signed (n v : Nat) : Int := if v < 2 ^ (n - 1) then (v : Int) else (v : Int) - 2 ^ n

/-- One step of the bit-serial CRC-32C division. -/
def crcShift : Nat → Nat → Nat
  | 0, c => c
  | k + 1, c => crcShift k (if c % 2 = 1 then (c / 2) ^^^ 0x82F63B78 else c / 2)

/-- CRC-32C of bytes (R426). -/
def crc32c (bs : List Byte) : Nat := (bs.foldl (fun c b => crcShift 8 (c ^^^ b.toNat)) 0xFFFFFFFF) ^^^ 0xFFFFFFFF

/-! ### Lists -/

/-- The element at `i` replaced by `f` of it. -/
def update {α : Type} (l : List α) (i : Nat) (f : α → α) : List α :=
  match l, i with
  | [], _ => []
  | a :: r, 0 => f a :: r
  | a :: r, n + 1 => a :: update r n f

/-- The entry under key `k`, if the list has one. -/
def assoc {α : Type} (k : Nat) : List (Nat × α) → Option α
  | [] => none
  | (j, a) :: r => if j = k then some a else assoc k r

/-- The list with `a` under key `k`, keys rising. -/
def insertKey {α : Type} (k : Nat) (a : α) : List (Nat × α) → List (Nat × α)
  | [] => [(k, a)]
  | (j, b) :: r => if k < j then (k, a) :: (j, b) :: r else if k = j then (k, a) :: r else (j, b) :: insertKey k a r

/-- `a` placed before the first element it goes before. -/
def insertBy {α : Type} (before : α → α → Bool) (a : α) : List α → List α
  | [] => [a]
  | b :: r => if before a b then a :: b :: r else b :: insertBy before a r

/-- The list sorted by `before`; equal elements keep their order. -/
def sortBy {α : Type} (before : α → α → Bool) (l : List α) : List α := l.foldr (insertBy before) []

/-- `f` applied in turn to each element, from the first. -/
def each {α : Type} (l : List α) (f : α → State → State) (s : State) : State :=
  match l with
  | [] => s
  | a :: r => each r f (f a s)

/-! ### Output and time -/

/-- `o` leaves the module (log 5). -/
def emit (o : Output) (s : State) : State := { s with out := o :: s.out }

/-! ### Frames of the control port (R307 to R315) -/

/-- Session number `n`, 1 to 8. -/
def sessionAt (s : State) (n : Nat) : Session := s.cp.sessions.getD (n - 1) {}

/-- A reply of the front end: class IMM, as 802.1AS frames are; completions and event frames are of class OTHER (R312, R313). -/
def immFrame (f : Frame) : Bool := !f.completion && !f.event

/-- PCP and VID of the 802.1Q tag of what the module sends, if it sends tagged (R307). -/
def vlanOf (s : State) (imm : Bool) : Option (BitVec 3 × BitVec 12) :=
  if s.cp.tagTx then some (if imm then s.cp.pcpImm else s.cp.pcpOther, s.cp.vid) else none

/-- Open stretches of a gate within a cycle as the list gives them: start, end, open (R314). The last entry's states hold until the cycle ends, and
the list is cut at its end. -/
def gateStretches (cycle : Nat) : Nat → List (Nat × Bool) → List (Nat × Nat × Bool)
  | _, [] => []
  | at_, [e] => if at_ < cycle then [(at_, cycle, e.2)] else []
  | at_, e :: r => if at_ < cycle then (at_, min cycle (at_ + e.1), e.2) :: gateStretches cycle (at_ + e.1) r else []

/-- The stretches of a class's gate in the eight cycles from the one that holds hall time `t` on, in hall time. -/
def gateTimes (s : State) (imm : Bool) (t : Nat) : List (Nat × Nat × Bool) :=
  let base := s.cp.qbvBaseHi.toNat * 2 ^ 32 + s.cp.qbvBaseLo.toNat
  let c := s.cp.qbvCycle.toNat
  let first := base + (t - base) / c * c
  let es := (s.cp.qbv.take s.cp.qbvCount.toNat).map (fun e => (e.interval.toNat, if imm then e.imm else e.other))
  (List.range 8).flatMap (fun k => (gateStretches c 0 es).map (fun q => (first + k * c + q.1, first + k * c + q.2.1, q.2.2)))

/-- The first hall time from now on at which a frame of `d` ns of a class may start: its gate stays open until the frame has left (R312, R314). With no
list in force, or no such time in eight cycles, it is now (log 13). -/
def sendTime (s : State) (imm : Bool) (d : Nat) : Nat :=
  let t := s.tsl.hallTime
  if !s.cp.gateInForce ∨ s.cp.qbvCycle = 0 then t
  else
    let qs := gateTimes s imm t
    let fits (x : Nat) : Bool := qs.all (fun q => q.2.2 || decide (x + d ≤ q.1) || decide (q.2.1 ≤ x))
    ((t :: (qs.map (fun q => q.1)).filter (fun x => decide (t < x))).find? fits).getD t

/-- Time that a frame takes on the wire at 1 Gb/s (R305, R313): preamble, Ethernet header, 802.1Q tag, payload of at least 46 bytes, FCS, gap. -/
def wireNs (s : State) (f : Frame) : Nat :=
  8 * (38 + (if s.cp.tagTx then 4 else 0) + max 46 (16 + f.params.length + (if f.tagged then 32 else 0)))

/-- Header and parameters of a frame, from which its tag is computed (R308, R309). -/
def frameBytes (f : Frame) : List Byte :=
  let head := match f.frag with
    | some q => [BitVec.ofNat 8 q.1, BitVec.ofNat 8 q.2.1] ++ le 2 q.2.2
    | none => []
  let flags := 1 + 2 * bool f.tagged + 4 * bool f.completion + 8 * bool f.event + 16 * bool f.frag.isSome
  [0x01, BitVec.ofNat 8 flags] ++ le 2 f.session ++ le 4 f.seq.toNat ++ le 2 f.opcode.toNat ++ le 2 (head.length + f.params.length)
    ++ le 4 f.htLow.toNat ++ head ++ f.params

/-- A frame with its 802.1Q tag and, under its session's module-to-host key, its tag (R307, R309, R317). -/
def dressed (s : State) (f : Frame) : Frame :=
  { f with vlan := vlanOf s (immFrame f)
           tag := if f.tagged then le 32 (Config.kmacCommand ((sessionAt s f.session).keys.drop 32) (frameBytes f)).toNat else [] }

/-- The frames that a message leaves in: itself, or where its parameters are longer than 512 bytes fragments of up to 508 (R313, R315). -/
def fragments (f : Frame) : List Frame :=
  if f.params.length ≤ 512 then [f]
  else
    let n := (f.params.length + 507) / 508
    (List.range n).map (fun i => { f with frag := some (i, n, f.params.length), params := (f.params.drop (508 * i)).take 508 })

/-- A message leaves the module. -/
def sendMessage (f : Frame) (s : State) : State := { s with out := ((fragments f).map (fun q => Output.frame (dressed s q))).reverse ++ s.out }

/-- The next free value (log 4). -/
def drawFree (s : State) : DWord × State := (Config.free s.fresh, { s with fresh := s.fresh + 1 })

/-- Hall time now (R28, R193). -/
def now (s : State) : Nat := s.tsl.hallTime

/-- The reset under way leaves the blocks of the module running: none, a function reset, or a subsystem reset (R394, R399, R400). -/
def resetLight (s : State) : Bool :=
  match s.msc.resetting with
  | some (.reset .powerOn _) => false
  | some (.reset .cold _) => false
  | some (.reset .warm _) => false
  | some .thaw => false
  | _ => true

/-- IDLE or ACTIVE with no reset of the module under way: every block runs (R391, R394). -/
def running (s : State) : Bool := (s.msc.mode = .idle || s.msc.mode = .active) && resetLight s

/-- Periods skipped among the first `p` that R360 numbers from a boundary, at `k` of every 64. -/
def skippedIn (k p : Nat) : Nat := p / 64 * k + p % 64 * k / 64

/-- Hall time at which the open epoch opened, and 0 before the first (R181, R189): from it R360 numbers the work-clock periods. -/
def openedAt (s : State) : Nat :=
  if s.seq.boundary = 0 then 0 else s.seq.boundary - s.tsl.len.toNat * 50000 + s.seq.lag

/-- Periods of 0.5 ns that throttling skips in the next `d` ns (R360). -/
def skippedNext (s : State) (d : Nat) : Nat :=
  let p := 2 * (s.tsl.hallTime - openedAt s)
  skippedIn s.tps.k (p + 2 * d) - skippedIn s.tps.k p

/-- A replay hold, light hold, link hold or substitution hold lasts: no almanac executor issues an entry, and every work cycle is
skipped (R95, R148, R256, R299). -/
def held (s : State) : Bool :=
  s.seq.replayHold.isSome || s.seq.lightHold.isSome || s.seq.linkHold.isSome || s.seq.substHold.isSome

/-- Work cycles that pass in the next `d` ns (R28, R95, R360). -/
def workNext (s : State) (d : Nat) : Nat := if running s && !held s then 2 * d - skippedNext s d else 0

/-- Hall time and calendar go on by `d` ns (log 13), and the work cycles and the periods skipped meanwhile are counted (R360, R370). -/
def elapse (d : Nat) (s : State) : State :=
  { s with
    tsl := { s.tsl with hallTime := (s.tsl.hallTime + d) % 2 ^ 64 }
    seq := { s.seq with work := s.seq.work + workNext s d }
    tps := { s.tps with skipped := if running s then min 0xFFFFFFFF (s.tps.skipped + skippedNext s d) else s.tps.skipped }
    msc := { s.msc with
      calS := (s.msc.calS + (s.msc.calNs + d) / 1000000000) % 2 ^ 64
      calNs := (s.msc.calNs + d) % 1000000000 } }

/-- A nanosecond passes (log 13). -/
def tick (s : State) : State := elapse 1 s

/-- Hall time goes on to `t`, if it has not passed it (log 13). -/
def advanceTo (t : Nat) (s : State) : State := elapse (t - now s) s

/-- The least number from `lo` to `hi` with property `p`, which every greater one has; `hi` where none below it has. -/
def leastFrom (p : Nat → Bool) : Nat → Nat → Nat → Nat
  | 0, _, hi => hi
  | f + 1, lo, hi => if hi ≤ lo then hi else if p ((lo + hi) / 2) then leastFrom p f lo ((lo + hi) / 2) else leastFrom p f ((lo + hi) / 2 + 1) hi

/-- Hall time at which the count of work cycles reaches `w`, if the level in force lasts (R94, R360). -/
def timeOfWork (w : Nat) (s : State) : Nat :=
  let most := (w - s.seq.work + 1) * 64
  now s + leastFrom (fun d => decide (w ≤ s.seq.work + workNext s d)) 96 0 most

/-- Work cycles of the open epoch that have passed (R29, R183). -/
def epochWork (s : State) : Nat := s.seq.work - s.seq.workAt

/-- Epoch length in ns (R181): the TSL_LEN in force, in units of 50 us. -/
def epochNs (s : State) : Nat := s.tsl.len.toNat * 50000

/-- The hall-time boundary that comes next (R181): the first multiple of L from now where no epoch is open, and the first multiple of a new
length where that comes before it. -/
def nextBoundary (s : State) : Nat :=
  let h := if s.seq.boundary = 0 then (now s + epochNs s - 1) / epochNs s * epochNs s else s.seq.boundary
  if s.tsl.lenNext = s.tsl.len then h else min h s.tsl.lenAt

/-! ### Memory (R216 to R232, R346) -/

/-- The canonical form: addresses strictly rising, no cell equal to the 0x00 that an unlisted address reads as (log 2). -/
def Memory.wf : List Host.Cell → Bool
  | [] => true
  | [(_, v)] => v != 0
  | (a, v) :: (b, w) :: r => v != 0 && decide (a < b) && Memory.wf ((b, w) :: r)

/-- The byte at key `a`. -/
def Memory.get (a : Nat) : List Host.Cell → Byte
  | [] => 0
  | (b, v) :: r => if b = a then v else Memory.get a r

/-- The cells with byte `v` at key `a`, in canonical form. -/
def Memory.set (a : Nat) (v : Byte) : List Host.Cell → List Host.Cell
  | [] => if v = 0 then [] else [(a, v)]
  | (b, w) :: r =>
    if a < b then (if v = 0 then (b, w) :: r else (a, v) :: (b, w) :: r)
    else if a = b then (if v = 0 then r else (a, v) :: r)
    else (b, w) :: Memory.set a v r

/-- The cells outside the keys `lo` to `hi - 1`. -/
def Memory.lose (lo hi : Nat) (m : List Host.Cell) : List Host.Cell := m.filter (fun c => c.1 < lo || hi ≤ c.1)

def hbmEnd : Nat := 0x5A00000000
def lpddrBase : Nat := 0x10000000000
def spillBase : Nat := 0x15700000000
def lpddrEnd : Nat := 0x16000000000
def stagingBase : Nat := 0x20000000000
def commonBase : Nat := 0x20018000000
def stagingEnd : Nat := 0x2001C000000
def regBase : Nat := 0x30000000000
def regEnd : Nat := 0x30001000000
def windowBase : Nat := 0x8000000000000000

/-- The stack of an HBM3E address (R218). -/
def stackOf (a : Nat) : Nat := (a / 1024) % 10

/-- The stack offset of an HBM3E address (R218). -/
def stackOffset (a : Nat) : Nat := (a / 1024) / 10 * 1024 + a % 1024

/-- The package of an LPDDR5X address (R218). -/
def packageOf (a : Nat) : Nat := ((a - lpddrBase) / 1024) % 12

/-- The state of stack `n`. -/
def stackState (s : State) (n : Nat) : StackState := (s.hms.hbm.getD n {}).state

/-- The rails of the memories are up and, but for the LPDDR5X that takes a Frost event record, out of self-refresh (R365, R384, R391). -/
def hbmUp (s : State) : Bool := s.tps.groups.toNat.testBit 3 && s.msc.mode != .dormant
def lpddrUp (s : State) : Bool := s.tps.groups.toNat.testBit 2 && s.msc.mode != .dormant
def stagingUp (s : State) : Bool := s.tps.groups.toNat.testBit 4

/-- What an access to the byte at device address `a` meets (R216, R217, R227 to R232, R346, R384). -/
def place (s : State) (a : Nat) (write : Bool) : Place :=
  if a < hbmEnd then
    if s.hms.outOfService ∨ !hbmUp s then .outOfService
    else match stackState s (stackOf a) with
      | .inService => .device a
      | .failing => .failing
      | .failed => if s.hms.spill = some (stackOf a) ∧ lpddrUp s then .device (spillBase + stackOffset a) else .outOfService
  else if lpddrBase ≤ a ∧ a < spillBase then
    if s.lms.tier = .failed ∨ !lpddrUp s then .outOfService else .device a
  else if spillBase ≤ a ∧ a < lpddrEnd then
    if s.lms.tier = .inService ∧ lpddrUp s then .device a else .outOfService
  else if stagingBase ≤ a ∧ a < stagingEnd then if stagingUp s then .device a else .outOfService
  else if regBase ≤ a ∧ a < regEnd then .registers
  else if windowBase ≤ a then
    let w := (a - windowBase) / 2 ^ 40
    let f := (a - windowBase) % 2 ^ 40
    match s.hif.wins[w]? with
    | none => .unmapped
    | some win =>
      if win.en && (if write then win.write else win.read) && decide (f < 2 ^ win.size.toNat) then
        .host ((win.hostHi.toNat * 2 ^ 32 + win.hostLo.toNat + f) % 2 ^ 64)
      else .unmapped
  else .unmapped

/-- The place is memory that serves the access. -/
def placeServes : Place → Bool
  | .device _ => true
  | .host _ => true
  | _ => false

/-- The byte at device address `a`; an address that does not serve reads 0. -/
def readByte (s : State) (a : Nat) : Byte :=
  match place s a false with
  | .device k => Memory.get k s.mem
  | .host k => Memory.get k s.hostMem
  | _ => 0

/-- `n` bytes from device address `a`. -/
def readBytes (s : State) (a : Nat) : Nat → List Byte
  | 0 => []
  | n + 1 => readByte s a :: readBytes s (a + 1) n

/-- Byte `v` stored at device address `a`; an address that does not serve takes nothing. -/
def writeByte (a : Nat) (v : Byte) (s : State) : State :=
  match place s a true with
  | .device k => { s with mem := Memory.set k v s.mem }
  | .host k => { s with hostMem := Memory.set k v s.hostMem }
  | _ => s

/-- Bytes stored from device address `a` up. -/
def writeBytes (a : Nat) (bs : List Byte) (s : State) : State :=
  match bs with
  | [] => s
  | b :: r => writeBytes (a + 1) r (writeByte a b s)

/-- The number at device address `a`, `n` bytes, little-endian. -/
def readNat (s : State) (a n : Nat) : Nat := ofLe (readBytes s a n)

/-- The places of `n` bytes from `a`, as a check sees them: the first of unmapped, registers, out of service and FAILING that any of
them meets, else that they serve. -/
def placesOf (s : State) (a : Nat) (write : Bool) : Nat → List Place
  | 0 => []
  | n + 1 => place s a write :: placesOf s (a + 1) write n

/-- Some byte of the range meets a place with property `p`. -/
def touches (s : State) (a n : Nat) (write : Bool) (p : Place → Bool) : Bool := (placesOf s a write n).any p

/-- Every byte of the range is served. -/
def serves (s : State) (a n : Nat) (write : Bool) : Bool := (placesOf s a write n).all placeServes

/-- Two ranges of `n` bytes at `a` and of `m` at `b` have a byte in common. -/
def overlaps (a n b m : Nat) : Bool := decide (a < b + m) && decide (b < a + n)

/-- A weight region has a byte among the `n` at `a`. -/
def regionTouches (a n : Nat) (r : Region) : Bool := r.parts.any (fun p => overlaps a n p.1 p.2)

/-- A weight region that `n` bytes at `a` touch becomes stale, unless a weight load writes them (R205). -/
def staleRegions (a n : Nat) (s : State) : State :=
  { s with regions := s.regions.map (fun r => if regionTouches a n r then { r with stale := true } else r) }

/-- A task's bytes stored: its writes make the weight regions they touch stale (R205). -/
def storeTask (a : Nat) (bs : List Byte) (s : State) : State := staleRegions a bs.length (writeBytes a bs s)

/-! ### Rings and graphs -/

/-- Ring `i` (R329); a ring not listed is at its reset values. -/
def ringOf (s : State) (i : Nat) : Ring := (assoc i s.hif.rings).getD {}

/-- Ring `i` set to `r`. -/
def setRing (i : Nat) (r : Ring) (s : State) : State := { s with hif := { s.hif with rings := insertKey i r s.hif.rings } }

/-- Ring `i` changed by `f`. -/
def modRing (i : Nat) (f : Ring → Ring) (s : State) : State := setRing i (f (ringOf s i)) s

/-- Entries a ring has room for in all: 2^k, k = HIF_RC_SIZE + 1 (R330). -/
def Ring.capacity (r : Ring) : Nat := 2 ^ (r.size.toNat + 1)

/-- Entries a ring holds: PROD - CONS modulo 2^32 (R331). -/
def Ring.used (r : Ring) : Nat := (r.prod - r.cons).toNat

/-- Entries free and not reserved. -/
def Ring.room (r : Ring) : Nat := r.capacity - r.used - r.reserved

/-- Base device address of a ring. -/
def Ring.base (r : Ring) : Nat := r.baseHi.toNat * 2 ^ 32 + r.baseLo.toNat

/-- Device address of the entry with index `x` (R331). -/
def Ring.entry (r : Ring) (x : Word) : Nat := r.base + 64 * (x.toNat % r.capacity)

/-- The resident graph in a slot. -/
def graphAt (s : State) (slot : Nat) : Option Graph := s.seq.graphs.find? (fun g => g.slot = slot)

/-- The resident graph with an ID. -/
def graphById (s : State) (id : Word) : Option Graph := s.seq.graphs.find? (fun g => g.id = id)

/-- The graph in a slot changed by `f`. -/
def modGraph (slot : Nat) (f : Graph → Graph) (s : State) : State :=
  { s with seq := { s.seq with graphs := s.seq.graphs.map (fun g => if g.slot = slot then f g else g) } }

/-- Task `t` of a graph. -/
def taskAt (g : Graph) (t : Nat) : Task := g.tasks.getD t {}

/-- Physical stall `g`. -/
def stallAt (s : State) (g : Nat) : Stall := s.stalls.getD g {}

/-- Physical stall `g` changed by `f`. -/
def modStall (g : Nat) (f : Stall → Stall) (s : State) : State := { s with stalls := update s.stalls g f }

/-- The physical stall that serves logical stall `l` (R33, R75). -/
def servedBy (s : State) (l : Nat) : Option Nat := s.stalls.findIdx? (fun st => st.logical = some l)

/-! ### Status values (R326) -/

def Status.ok : BitVec 16 := 0x0000
def Status.accepted : BitVec 16 := 0x0001
def Status.headerInvalid : BitVec 16 := 0x0100
def Status.versionUnsupported : BitVec 16 := 0x0101
def Status.opcodeUnknown : BitVec 16 := 0x0102
def Status.paramLength : BitVec 16 := 0x0103
def Status.paramInvalid : BitVec 16 := 0x0104
def Status.addressInvalid : BitVec 16 := 0x0105
def Status.graphMalformed : BitVec 16 := 0x0106
def Status.editionMismatch : BitVec 16 := 0x0107
def Status.moduleCount : BitVec 16 := 0x0108
def Status.graphEmpty : BitVec 16 := 0x0109
def Status.graphCycle : BitVec 16 := 0x010A
def Status.epochInvalid : BitVec 16 := 0x010B
def Status.taskParam : BitVec 16 := 0x010C
def Status.qpolicyInvalid : BitVec 16 := 0x010D
def Status.accumRange : BitVec 16 := 0x010E
def Status.epochSpan : BitVec 16 := 0x010F
def Status.reduceRange : BitVec 16 := 0x0110
def Status.calRefRange : BitVec 16 := 0x0111
def Status.graphUnknown : BitVec 16 := 0x0112
def Status.notReady : BitVec 16 := 0x0200
def Status.updateBusy : BitVec 16 := 0x0201
def Status.graphHeld : BitVec 16 := 0x0202
def Status.stopped : BitVec 16 := 0x0203
def Status.runLapsed : BitVec 16 := 0x0204
def Status.graphPeriodic : BitVec 16 := 0x0205
def Status.graphSlots : BitVec 16 := 0x0300
def Status.memorySpace : BitVec 16 := 0x0301
def Status.stagingSpace : BitVec 16 := 0x0302
def Status.scaleSpace : BitVec 16 := 0x0303
def Status.ringSpace : BitVec 16 := 0x0304
def Status.laneBusy : BitVec 16 := 0x0305
def Status.sessionSlots : BitVec 16 := 0x0306
def Status.queueFull : BitVec 16 := 0x0307
def Status.authRequired : BitVec 16 := 0x0400
def Status.tagInvalid : BitVec 16 := 0x0401
def Status.sessionUnknown : BitVec 16 := 0x0402
def Status.signatureInvalid : BitVec 16 := 0x0403
def Status.roleDenied : BitVec 16 := 0x0404
def Status.seqStale : BitVec 16 := 0x0405
def Status.seqExhausted : BitVec 16 := 0x0406
def Status.rollback : BitVec 16 := 0x0407
def Status.keyUnknown : BitVec 16 := 0x0408
def Status.hwAccumFault : BitVec 16 := 0x0500
def Status.hwReadParity : BitVec 16 := 0x0501
def Status.hwStackFailed : BitVec 16 := 0x0502
def Status.hwLpddrFailed : BitVec 16 := 0x0503
def Status.hwLinkFailed : BitVec 16 := 0x0504
def Status.hwUnitFault : BitVec 16 := 0x0505

end Sys2Proof.Machine
end

