-- ==== Sys2Proof/Machine/Flags.lean ====
section
/-! DEFINITION. Event-status bits, the records they yield, MSI-X messages, the journal and the entries the module writes to rings
(R331 to R341, R426, R427, R443, R444). -/

namespace Sys2Proof.Machine

/-! ### Event sources (R443) -/

/-- The number of an event source (R443). -/
def srcIndex : Src → Nat
  | .pma => 0 | .cls => 1 | .tdw => 2 | .psr => 3 | .squ => 4 | .lge => 5 | .xl => 6 | .seq => 7 | .tsl => 8 | .hms => 9
  | .lms => 10 | .ole => 11 | .hif => 12 | .cal => 13 | .tps => 14 | .msc => 15 | .cp => 16

/-- The event source of a number. -/
def srcOf (n : Nat) : Src :=
  match n with
  | 0 => .pma | 1 => .cls | 2 => .tdw | 3 => .psr | 4 => .squ | 5 => .lge | 6 => .xl | 7 => .seq | 8 => .tsl | 9 => .hms
  | 10 => .lms | 11 => .ole | 12 => .hif | 13 => .cal | 14 => .tps | 15 => .msc | _ => .cp

/-- The register block of an event source: source 16 belongs to block 12 (R443). -/
def srcBlock (c : Src) : Nat := match c with | .cp => 12 | c => srcIndex c

/-- The event-status register of a source. -/
def EventRegs.read (e : EventRegs) : Src → Word
  | .pma => e.pma | .cls => e.cls | .tdw => e.tdw | .psr => e.psr | .squ => e.squ | .lge => e.lge | .xl => e.xl | .seq => e.seq
  | .tsl => e.tsl | .hms => e.hms | .lms => e.lms | .ole => e.ole | .hif => e.hif | .cal => e.cal | .tps => e.tps | .msc => e.msc
  | .cp => e.cp

/-- The event-status register of a source set to `w`. -/
def EventRegs.write (e : EventRegs) (c : Src) (w : Word) : EventRegs :=
  match c with
  | .pma => { e with pma := w } | .cls => { e with cls := w } | .tdw => { e with tdw := w } | .psr => { e with psr := w }
  | .squ => { e with squ := w } | .lge => { e with lge := w } | .xl => { e with xl := w } | .seq => { e with seq := w }
  | .tsl => { e with tsl := w } | .hms => { e with hms := w } | .lms => { e with lms := w } | .ole => { e with ole := w }
  | .hif => { e with hif := w } | .cal => { e with cal := w } | .tps => { e with tps := w } | .msc => { e with msc := w }
  | .cp => { e with cp := w }

/-- The bits each event-status register defines (R75, R304, R77, R103, R135, R160, R161, R192, R193, R234, R235, R263, R353, R288,
R370, R390, R408, R432, R328). -/
def eventMask : Src → Word
  | .pma => 0xFF | .cls => 0x1FF | .tdw => 0xF | .psr => 0x3FF | .squ => 0x1F | .lge => 0xF | .xl => 0xF | .seq => 0xFF
  | .tsl => 0x3F | .hms => 0xFF | .lms => 0x3F | .ole => 0x3FF | .hif => 0xFF | .cal => 0x3FF | .tps => 0x7FFFF | .msc => 0xFF00FF
  | .cp => 0x1F

/-- The INVALID_ENCODING bit of each event-status register (R437). -/
def invalidBit : Src → Nat
  | .pma => 7 | .cls => 8 | .tdw => 3 | .psr => 9 | .squ => 4 | .lge => 3 | .xl => 3 | .seq => 7 | .tsl => 5 | .hms => 7
  | .lms => 5 | .ole => 9 | .hif => 7 | .cal => 9 | .tps => 7 | .msc => 7 | .cp => 4

/-! ### MSI-X (R336, R343, R444) -/

/-- MSI-X vector `v` is sent, or its Pending Bit is set while it is masked. With the bulk port strapped off no message leaves (R451; log 17). -/
def sendVector (v : Nat) (s : State) : State :=
  if s.hif.msixMask.toNat.testBit v then
    { s with hif := { s.hif with msixPending := s.hif.msixPending ||| BitVec.ofNat 64 (2 ^ v) } }
  else if s.msc.strapPcieOff then s else emit (.msix v) s

/-- Source `c` is pending: an enabled bit of its register is set (R444). -/
def irqPending (s : State) (c : Src) : Bool :=
  (s.ev.read c &&& s.hif.irqEn.getD (srcIndex c) 0) != 0

/-- The vector of source `c` is sent if it is pending and event messages are enabled (R444). -/
def irqIfPending (c : Src) (s : State) : State :=
  if s.hif.irqGlobal && irqPending s c then sendVector (s.hif.irqVec.getD (srcIndex c) 0).toNat s else s

/-- Bit `b` of source `c` set; the source's message is sent if that makes it pending (R444). -/
def setBit (c : Src) (b : Nat) (s : State) : State :=
  let s' := { s with ev := s.ev.write c (s.ev.read c ||| BitVec.ofNat 32 (2 ^ b)) }
  if irqPending s c then s' else irqIfPending c s'

/-! ### The journal (R426, R427) -/

/-- A journal record: type and bytes 1 to 7, bytes 36 to 55, and the copy number; the CRC covers bytes 0 to 59 (R426). -/
def journalBytes (s : State) (head tail : List Byte) (copy : Nat) : List Byte :=
  let b := fit 8 head ++ le 8 s.msc.journalSeq ++ le 8 s.msc.calS ++ le 4 s.msc.calNs ++ le 8 (now s) ++ fit 20 tail
    ++ [BitVec.ofNat 8 copy] ++ zeros 3
  b ++ le 4 (crc32c b)

/-- One copy of a journal record in the next slot. Of the 1,024 sectors of 1,024 slots the one after the head's is kept erased (R426; log 97). -/
def journalCopy (head tail : List Byte) (copy : Nat) (s : State) : State :=
  let next := s.msc.journalHead + 1
  { s with msc := { s.msc with
      journal := (((s.msc.journalHead, journalBytes s head tail copy) :: s.msc.journal).filter (fun j => decide (next / 1024 ≤ j.1 / 1024 + 1022)))
      journalHead := next } }

/-- A journal record in one copy. -/
def journalOne (head tail : List Byte) (s : State) : State :=
  let s := journalCopy head tail 0 s
  { s with msc := { s.msc with journalSeq := s.msc.journalSeq + 1 } }

/-- A journal record in two copies, in consecutive slots under one sequence number (R366, R426). -/
def journalTwo (head tail : List Byte) (s : State) : State :=
  let s := journalCopy head tail 1 (journalCopy head tail 0 s)
  { s with msc := { s.msc with journalSeq := s.msc.journalSeq + 1 } }

/-- An event record journaled, at up to 64 per second; beyond that it is counted for the gap record (R427). -/
def journalEvent (number : Nat) (head tail : List Byte) (s : State) : State :=
  let sec := now s / 1000000000
  let s := if s.msc.jSecond = sec then s else { s with msc := { s.msc with jSecond := sec, jCount := 0 } }
  if s.msc.jCount < 64 then
    let s := journalOne head tail s
    { s with msc := { s.msc with jCount := s.msc.jCount + 1 } }
  else
    { s with msc := { s.msc with jGap := some (match s.msc.jGap with | none => (number, 1) | some (f, c) => (f, c + 1)) } }

/-! ### The LAST registers (R103, R135, R161, R263, R304, R234, R235) -/

def psrLastFailWord (s : State) : Word :=
  pack [(29, s.psr.lastFail.cause), (20, s.psr.lastFail.output), (10, s.psr.lastFail.phys), (0, s.psr.lastFail.logical)]
def lastEventWord (l : LastEvent) : Word := pack [(29, l.cause), (16, l.graph), (0, l.task)]
def oleLastHoldWord (s : State) : Word :=
  pack [(29, s.ole.lastHold.cause), (24, s.ole.lastHold.peer), (16, s.ole.lastHold.graph), (0, s.ole.lastHold.task)]
def clsLastTakeoverWord (s : State) : Word :=
  pack [(30, s.cls.last.kind), (24, s.cls.last.src), (18, s.cls.last.dst), (0, s.cls.last.dark)]
def hmsLastErrLo (s : State) : Word := BitVec.ofNat 32 (s.hms.lastErr.getD 0)
def hmsLastErrHi (s : State) : Word := match s.hms.lastErr with | none => 0 | some a => pack [(31, 1), (0, a / 2 ^ 32 % 256)]
def lmsLastErrLo (s : State) : Word := BitVec.ofNat 32 (s.lms.lastErr.getD 0)
def lmsLastErrHi (s : State) : Word := match s.lms.lastErr with | none => 0 | some a => pack [(31, 1), (0, a / 2 ^ 32 % 4096)]

/-- EV_DETAIL: the block's LAST registers, in offset order (R341). -/
def lastRegisters (s : State) : Src → List Byte
  | .psr => le 4 (psrLastFailWord s).toNat
  | .squ => le 4 (lastEventWord s.squ.last).toNat
  | .xl => le 4 (lastEventWord s.xl.last).toNat
  | .ole => le 4 (oleLastHoldWord s).toNat
  | .cls => le 4 (clsLastTakeoverWord s).toNat
  | .hms => le 4 (hmsLastErrLo s).toNat ++ le 4 (hmsLastErrHi s).toNat
  | .lms => le 4 (lmsLastErrLo s).toNat ++ le 4 (lmsLastErrHi s).toNat
  | _ => []

/-! ### When a bit is recorded -/

/-- When each event bit is "set with an event record": in every occurrence, on a change from 0 to 1, or by the gap record only. -/
def recRule (c : Src) (b : Nat) : RecRule :=
  match c with
  | .pma => .each
  | .cls => .each
  | .tdw => .each
  | .psr => if b ≤ 2 then .edge else .each
  | .squ => .edge
  | .lge => .each
  | .xl => .edge
  | .seq => .each
  | .tsl => if b = 2 ∨ b = 3 then .edge else .each
  | .hms => if b = 0 then .edge else .each
  | .lms => if b = 0 then .edge else .each
  | .ole => if b = 0 then .edge else .each
  | .hif => if b = 4 then .never else .edge
  | .cal => if b ≤ 1 then .edge else .each
  | .tps => if b = 2 ∨ b = 8 then .edge else .each
  | .msc => .each
  | .cp => if b = 0 then .edge else .each

/-! ### Ring entries (R331 to R337) -/

/-- An entry became visible in ring `i`: its message is sent when HIF_RM_COUNT entries wait (R336). -/
def ringSignal (i : Nat) (s : State) : State :=
  let r := ringOf s i
  if r.intEn then
    if r.modCount.toNat ≤ r.unsignalled + 1 then
      sendVector r.vector.toNat (setRing i { r with unsignalled := 0 } s)
    else setRing i { r with unsignalled := r.unsignalled + 1, oldest := if r.unsignalled = 0 then now s else r.oldest } s
  else s

/-- A 64-byte entry written at PROD, which then passes it (R331, R332). -/
def ringStore (i : Nat) (e : List Byte) (s : State) : State :=
  let r := ringOf s i
  ringSignal i (modRing i (fun r => { r with prod := r.prod + 1 }) (storeTask (r.entry r.prod) (fit 64 e) s))

/-- The ring can take an entry now: ENABLED, with room beside what is reserved. -/
def ringTakes (s : State) (i n : Nat) : Bool :=
  let r := ringOf s i
  r.state = .enabled && decide (n ≤ r.room)

/-- The memory of the next entry of the ring serves a write. -/
def ringServes (s : State) (i : Nat) : Bool :=
  let r := ringOf s i
  serves s (r.entry r.prod) 64 true

/-- A ring enters FAULTED with a cause (R333, R352); its event follows. -/
def faultRing (i : Nat) (cause : BitVec 3) (s : State) : State :=
  modRing i (fun r => { r with state := .faulted, cause := cause }) s

/-- An entry that a FAULTED ring would have taken is counted (R333). -/
def ringLost (i : Nat) (s : State) : State := modRing i (fun r => { r with lost := sat 0xFFFF (r.lost + 1) }) s

/-- The 64 bytes of an event record (R341). -/
def eventRecord (s : State) (c : Src) (b : Nat) (i : EvInfo) : List Byte :=
  let g := i.graph.bind (graphAt s)
  [0x31, BitVec.ofNat 8 (srcBlock c), BitVec.ofNat 8 b, BitVec.ofNat 8 (bool g.isSome + 2 * bool i.unit.isSome)]
    ++ le 8 s.hif.eventNumber ++ le 8 (now s) ++ le 8 s.msc.calS ++ le 4 s.msc.calNs
    ++ le 4 (match g with | some g => g.id.toNat | none => 0) ++ le 4 i.task ++ le 2 (i.unit.getD 0) ++ le 2 i.logical
    ++ le 4 i.status.toNat ++ fit 16 (i.detail.getD (lastRegisters s c))

/-- An event record lost for ring `i`: counted, HIF_EVENT_LOST set, and remembered for the gap record (R337, R341). -/
def eventLost (i number : Nat) (s : State) : State :=
  let s := modRing i (fun r => { r with gapFirst := some (r.gapFirst.getD number), gapCount := r.gapCount + 1 }) s
  setBit .hif 4 { s with hif := { s.hif with eventsLost := sat 0xFFFFFFFF (s.hif.eventsLost + 1) } }

/-- The gap record of ring `i`, written when room has returned (R341). -/
def writeGap (i : Nat) (s : State) : State :=
  let r := ringOf s i
  match r.gapFirst with
  | none => s
  | some first =>
    if r.type = .event ∧ ringTakes s i 1 ∧ ringServes s i then
      let e : List Byte := [0x32, 0, 0, 0] ++ le 8 first ++ le 8 (now s) ++ zeros 24 ++ le 4 r.gapCount
      ringStore i e (setRing i { r with gapFirst := none, gapCount := 0 } s)
    else s

/-- The copies of an event record to the sessions that asked for its block (R321). -/
def eventCopies (c : Src) (e : List Byte) (s : State) : State :=
  each (List.range 8) (fun n s =>
    let x := s.cp.sessions.getD n {}
    if x.state = .isOpen ∧ x.mask.toNat.testBit (srcBlock c) then
      let f : Frame := { dst := x.mac, session := n + 1, seq := BitVec.ofNat 32 x.events, opcode := 0, tagged := true,
                         completion := false, event := true, htLow := 0, params := e }
      let s := sendMessage { f with htLow := BitVec.ofNat 32 (sendTime s false (wireNs s f)) } s
      { s with cp := { s.cp with sessions := update s.cp.sessions n (fun x => { x with events := x.events + 1 }) } }
    else s) s


/-- Event record `e` with its number for event ring `ring` (R333, R337, R341, R352): a ring in FAULTED counts it as discarded, one without
room loses it, and memory that does not serve puts the ring in FAULTED, which `fault` reports. -/
def putEvent (ring number : Nat) (e : List Byte) (fault : State → State) (s : State) : State :=
  let s := writeGap ring s
  if (ringOf s ring).type != .event then s
  else if (ringOf s ring).state = .faulted then ringLost ring s
  else if ringTakes s ring 1 && (ringOf s ring).gapFirst.isNone then
    if ringServes s ring then ringStore ring e s else fault (ringLost ring (faultRing ring 3 s))
  else if (ringOf s ring).state = .enabled then eventLost ring number s
  else s

/-- An event record put to the ring of the graph it names, and to the module's event ring where that is another (R341). -/
def eventRings (graphRing : Option Nat) (put : Nat → State → State) (s : State) : State :=
  let s := match graphRing with | some r => put r s | none => s
  if s.hif.evRingEn ∧ graphRing ≠ some s.hif.evRing.toNat then put s.hif.evRing.toNat s else s

/-- The journal's share of event record `e` (R427): records written at every occurrence. -/
def journalRecord (c : Src) (b number : Nat) (e : List Byte) (i : EvInfo) (s : State) : State :=
  if recRule c b = .each then
    journalEvent number (0x71 :: (e.drop 1).take 3 ++ (e.drop 32).take 4)
      (le 8 number ++ le 4 i.status.toNat ++ le 2 (i.unit.getD 0) ++ le 2 i.logical ++ le 4 i.task) s
  else s

/-- The event ring of the graph that an event names. -/
def graphRingOf (s : State) (i : EvInfo) : Option Nat := (i.graph.bind (graphAt s)).map (fun g => g.eventRing)

/-- The event record of bit `b` of source `c` (R341): to the graph's ring and the module's, the copies to the sessions, and the journal. -/
def writeRecord (c : Src) (b : Nat) (i : EvInfo) (fault : Nat → State → State) (s : State) : State :=
  let e := eventRecord s c b i
  let number := s.hif.eventNumber
  journalRecord c b number e i (eventCopies c e
    (eventRings (graphRingOf s i) (fun ring => putEvent ring number e (fault ring)) { s with hif := { s.hif with eventNumber := (number + 1) % 2 ^ 64 } }))

/-- The occurrence of a bit, which was set already or not, is recorded. -/
def recorded (c : Src) (b : Nat) (wasSet : Bool) : Bool := recRule c b != .never && !(recRule c b == .edge && wasSet)

/-- Bit `b` of source `c` set with its event record (R341): the message first. `fault` reports a ring that its memory puts in FAULTED. -/
def raiseWith (fault : Nat → State → State) (c : Src) (b : Nat) (i : EvInfo) (s : State) : State :=
  if recorded c b ((s.ev.read c).toNat.testBit b) then writeRecord c b i fault (setBit c b s) else setBit c b s

/-- As many records follow one another as rings can fault for them: `fuel` bounds them (two rings at most). -/
def raiseFuel : Nat → Src → Nat → EvInfo → State → State
  | 0, c, b, i, s => raiseWith (fun _ => setBit .hif 5) c b i s
  | f + 1, c, b, i, s => raiseWith (fun ring => raiseFuel f .hif 5 { unit := some ring }) c b i s

/-- Bit `b` of source `c` set with its event record (R341). -/
def raise (c : Src) (b : Nat) (i : EvInfo) (s : State) : State := raiseFuel 2 c b i s

/-- A module entry written to ring `i` if the ring takes it (R337): a ring in FAULTED counts it as lost, and memory that does not serve
puts the ring in FAULTED (R352). -/
def ringPush (i : Nat) (e : List Byte) (s : State) : State :=
  if (ringOf s i).state = .faulted then ringLost i s
  else if ringTakes s i 1 then
    if ringServes s i then ringStore i e s
    else raise .hif 5 { unit := some i } (ringLost i (faultRing i 3 s))
  else s

/-- A reserved entry written: the reservation is used up (R171, R337). -/
def ringPushReserved (i : Nat) (e : List Byte) (s : State) : State :=
  ringPush i e (modRing i (fun r => { r with reserved := r.reserved - 1 }) s)

/-- Several entries written whole or dropped whole (R337, telemetry): a drop sets HIF_TELEM_DROP. -/
def telemetryPush (i : Nat) (es : List (List Byte)) (s : State) : State :=
  if (ringOf s i).type = .telemetry ∧ ringTakes s i es.length then each es (ringPush i) s
  else raise .hif 3 { unit := some i } s

end Sys2Proof.Machine
end

