-- ==== Sys2Proof/Machine/Fp.lean ====
section
/-! DEFINITION. FP32, BF16 and E4M3 arithmetic with ties away from zero (R104, R105, R111 to R113, R115).
A finite FP32 value is held exactly as an integer count of 2^-149. -/

namespace Sys2Proof.Machine

/-- The canonical NaN (R105). -/
def fpNaN : Word := 0x7FC00000
def fpInf (neg : Bool) : Word := if neg then 0xFF800000 else 0x7F800000
def fpZero (neg : Bool) : Word := if neg then 0x80000000 else 0
def fpOne : Word := 0x3F800000
/-- The least scale, 2^-126 (R123). -/
def fpMinNormal : Word := 0x00800000

def fpNeg (w : Word) : Bool := bit w 31
def fpMag (w : Word) : Nat := w.toNat % 2 ^ 31
def fpIsNaN (w : Word) : Bool := decide (0x7F800000 < fpMag w)
def fpIsInf (w : Word) : Bool := fpMag w = 0x7F800000
def fpFinite (w : Word) : Bool := decide (fpMag w < 0x7F800000)
def fpIsZero (w : Word) : Bool := fpMag w = 0

/-- The magnitude of a finite value in units of 2^-149. -/
def fpUnits (w : Word) : Nat :=
  let e := fpMag w / 2 ^ 23
  let f := fpMag w % 2 ^ 23
  if e = 0 then f else (f + 2 ^ 23) * 2 ^ (e - 1)

/-- A finite value in units of 2^-149, signed. -/
def fpInt (w : Word) : Int := if fpNeg w then -(fpUnits w : Int) else (fpUnits w : Int)

/-- A value for comparisons: infinities lie beyond every finite value. -/
def fpKey (w : Word) : Int := if fpIsInf w then (if fpNeg w then -(2 ^ 300 : Int) else 2 ^ 300) else fpInt w

/-- The magnitude `n / d` units rounded to nearest, ties away from zero; overflow becomes infinity (R104, R105). -/
def fpRoundMag (n d : Nat) : Nat :=
  let sh := Nat.log2 (n / d) - 23
  let r := (2 * n + d * 2 ^ sh) / (2 * d * 2 ^ sh)
  let m := sh * 2 ^ 23 + r
  if m < 0x7F800000 then m else 0x7F800000

/-- Sign and magnitude `n / d` units as FP32. -/
def fpRound (neg : Bool) (n d : Nat) : Word := BitVec.ofNat 32 (bool neg * 2 ^ 31 + fpRoundMag n d)

/-- An exact integer as FP32 (cvt_rna). -/
def fpOfInt (v : Int) : Word := fpRound (decide (v < 0)) (v.natAbs * 2 ^ 149) 1

/-- Product (mul_rna). -/
def fpMul (a b : Word) : Word :=
  let neg := fpNeg a != fpNeg b
  if fpIsNaN a || fpIsNaN b then fpNaN
  else if fpIsInf a || fpIsInf b then (if fpIsZero a || fpIsZero b then fpNaN else fpInf neg)
  else fpRound neg (fpUnits a * fpUnits b) (2 ^ 149)

/-- Sum (add_rna). -/
def fpAdd (a b : Word) : Word :=
  if fpIsNaN a || fpIsNaN b then fpNaN
  else if fpIsInf a then (if fpIsInf b && fpNeg a != fpNeg b then fpNaN else a)
  else if fpIsInf b then b
  else
    let v := fpInt a + fpInt b
    if v = 0 then fpZero (fpNeg a && fpNeg b) else fpRound (decide (v < 0)) v.natAbs 1

/-- The value with its sign changed. -/
def fpNegate (a : Word) : Word := a ^^^ 0x80000000
def fpAbs (a : Word) : Word := a &&& 0x7FFFFFFF
/-- Difference. -/
def fpSub (a b : Word) : Word := if fpIsNaN b then fpNaN else fpAdd a (fpNegate b)

/-- Quotient (div_rna). -/
def fpDiv (a b : Word) : Word :=
  let neg := fpNeg a != fpNeg b
  if fpIsNaN a || fpIsNaN b then fpNaN
  else if fpIsInf a then (if fpIsInf b then fpNaN else fpInf neg)
  else if fpIsInf b then fpZero neg
  else if fpIsZero b then (if fpIsZero a then fpNaN else fpInf neg)
  else fpRound neg (fpUnits a * 2 ^ 149) (fpUnits b)

/-- `n / d` rounded to an integer, ties away from zero. -/
def ratToInt (n : Int) (d : Nat) : Int :=
  if n < 0 then -(((2 * n.natAbs + d) / (2 * d) : Nat) : Int) else (((2 * n.natAbs + d) / (2 * d) : Nat) : Int)

/-- A finite value rounded to the nearest integer, ties away from zero (rna_int). -/
def fpToInt (w : Word) : Int := ratToInt (fpInt w) (2 ^ 149)

/-- The greater and the lesser of two values that are no NaN, with -0 below +0 (R122, R154). -/
def fpLess (a b : Word) : Bool :=
  decide (fpKey a < fpKey b) || (fpIsZero a && fpIsZero b && fpNeg a && !fpNeg b)
def fpMax (a b : Word) : Word := if fpLess a b then b else a
def fpMin (a b : Word) : Word := if fpLess b a then b else a

/-! ### Named functions of NE-1 (R155) -/

/-- One unit in the last place of a finite value, in units of 2^-149. -/
def fpUlp (w : Word) : Nat := 2 ^ (fpMag w / 2 ^ 23 - 1)

/-- The positive FP32 value `off` units in the last place from the nearest one to `n / d` units, if it is finite and within 2 of them of it, else the
nearest one (R155). -/
def fpNear (off : Int) (n d : Nat) : Word :=
  let r := fpRound false n d
  let c := (r.toNat : Int) + off
  if 0 ≤ c ∧ c < 0x7F800000 ∧ ((fpUnits (BitVec.ofInt 32 c) * d : Nat) - n : Int).natAbs ≤ 2 * fpUlp r * d then BitVec.ofInt 32 c else r

/-- Terms of the exponential series from term `t` of index `k`, in units of 2^-320, at `y` units. -/
def expTerms (y : Int) : Nat → Int → Int → Int
  | 0, _, _ => 0
  | f + 1, k, t => t + expTerms y f (k + 1) (t * y / (2 ^ 320 * k))

/-- `n` squarings in units of 2^-320. -/
def squareUp : Nat → Int → Int
  | 0, v => v
  | n + 1, v => squareUp n (v * v / 2 ^ 320)

/-- The exponential of `x` units of 2^-149, in units of 2^-320, far closer than a unit in the last place: the series at x / 256, squared 8 times. -/
def expScaled (x : Int) : Nat := (squareUp 8 (expTerms (x * 2 ^ 163) 64 1 (2 ^ 320))).toNat

/-- exp_ne1 of a finite argument (R155): beyond 89 it overflows (R105). -/
def expFinite (w : Word) : Word :=
  let x := fpInt w
  if 89 * 2 ^ 149 ≤ x then fpInf false
  else fpNear (Config.expNe1 w) (if x ≤ -(110 * 2 ^ 149) then 0 else expScaled x) (2 ^ 171)

/-- rsqrt_ne1 of a positive finite argument (R155): the root of 2^447 / n, in units of 2^-149, to 200 further bits. -/
def rsqrtFinite (w : Word) : Word :=
  let q := 2 ^ 847 / fpUnits w
  fpNear (Config.rsqrtNe1 w) (leastFrom (fun v => decide (q < (v + 1) * (v + 1))) 512 0 (2 ^ 424)) (2 ^ 200)

/-! ### BF16 (R113) -/

def bf16ToFp (h : Nat) : Word := BitVec.ofNat 32 (h * 2 ^ 16)

def fpToBf16 (w : Word) : Nat :=
  if fpIsNaN w then (w.toNat / 2 ^ 16) ||| 0x40
  else bool (fpNeg w) * 2 ^ 15 + (fpMag w + 0x8000) / 2 ^ 16

/-! ### E4M3 (R111, R112) -/

def e4m3ToFp (c : Nat) : Word :=
  let neg := decide (128 ≤ c % 256)
  let e := c / 8 % 16
  let m := c % 8
  if e = 15 ∧ m = 7 then BitVec.ofNat 32 (bool neg * 2 ^ 31 + 0x7FC00000)
  else fpRound neg (if e = 0 then m * 2 ^ 140 else (8 + m) * 2 ^ (e + 139)) 1

/-- The E4M3 code, whether it saturated, and whether the value was not finite (R112). -/
def fpToE4m3 (w : Word) : Nat × Bool × Bool :=
  let s := bool (fpNeg w) * 128
  if fpIsNaN w then (s + 0x7F, false, true)
  else if fpIsInf w then (s + 0x7E, true, true)
  else
    -- units of 2^-9 after rounding at the value's own step
    let n := fpUnits w
    let sh := Nat.log2 (n / 2 ^ 140) - 3
    let r := (2 * n + 2 ^ (140 + sh)) / (2 * 2 ^ (140 + sh))
    let c := sh * 8 + r
    if c ≤ 0x7E then (s + c, false, false) else (s + 0x7E, true, false)

end Sys2Proof.Machine
end

