-- ==== Sys2Proof/Machine/Formats.lean ====
section
/-! DEFINITION. Code tables, packing and the mapping of values to codes (R107 to R117). -/

namespace Sys2Proof.Machine

/-- The weight format of TD_FORMAT [3:0] (R165). -/
def wfmtOf (n : Nat) : Option WFmt :=
  match n with
  | 0 => some .int4 | 1 => some .int3 | 2 => some .int2 | 3 => some .ternary | 4 => some .nb4 | _ => none

/-- Container bits of a weight code (R107). -/
def wfmtBits : WFmt → Nat
  | .int2 => 2 | .ternary => 2 | _ => 4

/-- Largest positive value qw of a weight format (R107). -/
def wfmtQw : WFmt → Nat
  | .int4 => 7 | .int3 => 3 | .int2 => 1 | .ternary => 1 | .nb4 => 9

/-- Activation width b with which a weight format runs (R79). -/
def wfmtActBits : WFmt → Nat
  | .int3 => 3 | .int2 => 2 | _ => 4

/-- Largest magnitude of a format's chunk range (R79). -/
def wfmtChunkMax : WFmt → Nat
  | .int4 => 7680 | .nb4 => 11520 | .int3 => 1792 | .ternary => 960 | .int2 => 384

/-- NB4 levels in code order (R107). -/
def nb4Levels : List Int := [-12, -9, -7, -5, -4, -3, -2, -1, 0, 1, 2, 3, 4, 5, 7, 9]

/-- The value of a weight code (R107): ternary 0b10 stands for 0. -/
def weightValue (f : WFmt) (c : Nat) : Int :=
  match f with
  | .int4 => signed 4 (c % 16)
  | .int3 => signed 3 (c % 8)
  | .int2 => signed 2 (c % 4)
  | .ternary => if c % 4 = 1 then 1 else if c % 4 = 3 then -1 else 0
  | .nb4 => nb4Levels.getD (c % 16) 0

/-- The code at column `i` of packed bytes, `b` container bits each (R107). -/
def codeAt (b : Nat) (bs : List Byte) (i : Nat) : Nat :=
  let per := 8 / b
  ((bs.getD (i / per) 0).toNat / 2 ^ (b * (i % per))) % 2 ^ b

/-- Bytes of a row of `k` codes (R464): each row begins on a byte boundary. -/
def rowBytes (b k : Nat) : Nat := (k * b + 7) / 8

/-- Codes packed under R107. -/
def packCodes (b : Nat) (cs : List Nat) : List Byte :=
  (List.range (rowBytes b cs.length)).map (fun j =>
    BitVec.ofNat 8 ((List.range (8 / b)).foldl (fun a i => a + cs.getD (j * (8 / b) + i) 0 % 2 ^ b * 2 ^ (b * i)) 0))

/-- Offset of the first rescale entry after `o` rows of `k` codes: the next 16-byte boundary after the last row, for a destination at
`dst` (R464). -/
def entriesAt (dst b k o : Nat) : Nat := (dst + o * rowBytes b k + 15) / 16 * 16

/-! ### Conversion targets (R121, R166) -/

/-- The kinds of SP_TARGET: activation of a width, INT8, weight format, E4M3, BF16, FP32. -/
def targetBits (t : Nat) : Nat :=
  match t with
  | 0x01 => 4 | 0x02 => 4 | 0x03 => 2 | 0x04 => 8 | 0x10 => 4 | 0x11 => 4 | 0x12 => 2 | 0x13 => 2 | 0x14 => 4
  | 0x20 => 8 | 0x21 => 16 | _ => 32

/-- A target for the optical path: a 4-, 3- or 2-bit activation. -/
def targetIsAct (t : Nat) : Bool := t = 1 || t = 2 || t = 3

/-- Activation width of the target (R109). -/
def targetWidth (t : Nat) : Nat := 5 - t

/-- The weight format of a target, if it is one. -/
def targetWeight (t : Nat) : Option WFmt := if 0x10 ≤ t then wfmtOf (t - 0x10) else none

/-- A target that has a scale record (R121): activation, INT8 or weight format. -/
def targetScaled (t : Nat) : Bool := targetIsAct t || t = 4 || (targetWeight t).isSome

/-- Code range of a target (R115, R116). -/
def targetRange (t : Nat) : Int × Int :=
  match t with
  | 0x01 => (0, 15) | 0x02 => (0, 7) | 0x03 => (0, 3) | 0x04 => (-128, 127)
  | 0x10 => (-8, 7) | 0x11 => (-4, 3) | 0x12 => (-2, 1) | 0x13 => (-1, 1) | _ => (-12, 9)

/-- qa of an activation width, 127 for INT8, qw of a weight format (R109, R110, R107). -/
def targetQ (t : Nat) : Nat :=
  match targetWeight t with
  | some f => wfmtQw f
  | none => if t = 4 then 127 else 2 ^ targetWidth t - 1

/-- A scale record (R119). -/
structure ScaleRec where
  scale : Word := fpOne
  inv : Word := fpOne
  konst : Word := 0
  zp : Nat := 0
  constCh : Bool := false
  sat : Bool := false
  underuse : Bool := false
  nonfinite : Bool := false
  compat : Bool := false
  satCount : Nat := 0
deriving DecidableEq, Repr

/-- The 16 bytes of a scale record (R119). -/
def scaleBytes (r : ScaleRec) : List Byte :=
  le 4 r.scale.toNat ++ le 4 r.inv.toNat ++ le 4 r.konst.toNat ++ [BitVec.ofNat 8 r.zp,
    BitVec.ofNat 8 (bool r.constCh + 2 * bool r.sat + 4 * bool r.underuse + 8 * bool r.nonfinite + 16 * bool r.compat)]
    ++ le 2 (sat 0xFFFF r.satCount)

/-- The scale record that 16 bytes hold (R119). -/
def scaleOf (bs : List Byte) : ScaleRec :=
  let fl := field bs 13 1
  { scale := BitVec.ofNat 32 (field bs 0 4), inv := BitVec.ofNat 32 (field bs 4 4), konst := BitVec.ofNat 32 (field bs 8 4)
    zp := field bs 12 1, constCh := fl.testBit 0, sat := fl.testBit 1, underuse := fl.testBit 2, nonfinite := fl.testBit 3
    compat := fl.testBit 4, satCount := field bs 14 2 }

/-- A value clamped to a range, and whether it had to be. -/
def clamp (lo hi v : Int) : Int × Bool := if v < lo then (lo, true) else if hi < v then (hi, true) else (v, false)

/-- The NB4 code of a quotient that is no NaN, and whether it saturates (R117). -/
def nb4Code (q : Word) : Nat × Bool :=
  let k := fpKey q * 2          -- twice the value, in units of 2^-149
  let u : Int := 2 ^ 149
  if k ≤ -27 * u then (0, true) else if k ≤ -21 * u then (0, false) else if k ≤ -16 * u then (1, false)
  else if k ≤ -12 * u then (2, false) else if k ≤ -9 * u then (3, false) else if k ≤ -7 * u then (4, false)
  else if k ≤ -5 * u then (5, false) else if k ≤ -3 * u then (6, false) else if k ≤ -u then (7, false)
  else if k < u then (8, false) else if k < 3 * u then (9, false) else if k < 5 * u then (10, false)
  else if k < 7 * u then (11, false) else if k < 9 * u then (12, false) else if k < 12 * u then (13, false)
  else if k < 16 * u then (14, false) else if k < 20 * u then (15, false) else (15, true)

/-- A value mapped to a code of target `t` under record `r` (R115 to R117; log 81): the code's value, whether it saturated, whether it was not
finite. For NB4 the code's value is its level. -/
def mapValue (t : Nat) (r : ScaleRec) (x : Word) : Int × Bool × Bool :=
  if fpIsNaN x then ((r.zp : Int), true, true)
  else
    let q := fpMul x r.inv
    if t = 0x14 then
      let c := if fpIsNaN q then (8, true) else nb4Code q
      (nb4Levels.getD c.1 0, c.2, fpIsInf x)
    else
      let lim := targetRange t
      let z : Int := if targetIsAct t then r.zp else 0
      let k : Int := if fpIsNaN q then (Config.nanCode x).toInt else if fpIsInf q then (if fpNeg q then -(2 ^ 40) else 2 ^ 40) else fpToInt q
      let c := clamp lim.1 lim.2 (k + z)
      (c.1, c.2, fpIsInf x)

/-- The code that stands for a value of target `t`. -/
def codeOfValue (t : Nat) (v : Int) : Nat :=
  if t = 0x14 then (nb4Levels.findIdx (· = v))
  else twos (targetBits t) (if t = 0x11 then ((twos 3 v : Nat) : Int) else v)

end Sys2Proof.Machine
end

