-- ==== Sys2Proof/Machine/Residue.lean ====
section
/-! DEFINITION. Moduli sets, slicer words and the reconstruction of chunk sums (R41, R61, R63, R78, R80, R82 to R85). -/

namespace Sys2Proof.Machine

/-- The moduli of a set in channel order, the tally modulus last (R78). -/
def setModuli : MSet → List Nat
  | .a => [29, 31, 32, 27] | .b => [13, 15, 16, 17, 11] | .c => [31, 32, 29] | .d => [15, 16, 17, 13]

/-- The reconstruction constants c_j (R84). -/
def setCoeffs : MSet → List Nat
  | .a => [4960, 13920, 9889] | .b => [24480, 38896, 36465, 6240] | .c => [32, 961] | .d => [2176, 3825, 2160]

/-- The data product M (R78). -/
def setProduct : MSet → Nat
  | .a => 28768 | .b => 53040 | .c => 992 | .d => 4080

/-- Channels of an output: data channels and the tally (R41). -/
def setChannels (m : MSet) : Nat := (setModuli m).length

/-- Outputs of a stall (R41). -/
def setOutputs : MSet → Nat
  | .a => 16 | .b => 12 | .c => 21 | .d => 16

/-- Code of a set as PMA_SET shows it (R75). -/
def setCode : Option MSet → Nat
  | some .a => 0 | some .b => 1 | some .c => 2 | some .d => 3 | none => 7

/-- The sets a weight format may run under (R79). -/
def setsAllowed : WFmt → List MSet
  | .int4 => [.a, .b] | .nb4 => [.a, .b] | .int3 => [.d] | .ternary => [.d] | .int2 => [.c, .d]

/-- The warm set of a format (R100). -/
def warmSet : WFmt → MSet
  | .int4 => .b | .nb4 => .b | _ => .d

/-- Needed effective phase bits, in tenths (R78). -/
def setNeeded : MSet → Nat
  | .a => 65 | .c => 65 | .b => 56 | .d => 56

/-- The thermometer word of level `k` (R61). -/
def thermo (k : Nat) : Word := BitVec.ofNat 32 (2 ^ k - 1)

/-- The level a slicer word of modulus `m` stands for; none is a slice fault (R63, R82). -/
def levelOf (m : Nat) (w : Word) : Option Nat := (List.range m).find? (fun k => thermo k = w)

/-- The level a row of modulus `m` shows for one plane: the driven columns' weights summed modulo `m` (R38, R61). -/
def idealLevel (m : Nat) (plane : Nat) (acts : List Nat) (ws : List Int) : Nat :=
  (((acts.zip ws).foldl (fun (v : Int) p => if p.1.testBit plane then v + p.2 else v) 0) % (m : Int)).toNat

/-- Horner combination of the levels of the planes, plane 0 first in the list (R83). -/
def combine (m : Nat) : List Nat → Nat
  | [] => 0
  | l :: r => (2 * combine m r + l) % m

/-- What a reconstruction finds: the value, a tally mismatch, a value outside the chunk bounds (R84, R85). -/
structure Recon where
  value : Int := 0
  tally : Bool := false
  range : Bool := false
deriving DecidableEq, Repr

/-- The pseudocode of R84 on the combined residues of an output's channels. -/
def reconstruct (m : MSet) (rs : List Nat) (qa : Nat) (n p : Int) : Recon :=
  let big := setProduct m
  let x := ((rs.zip (setCoeffs m)).foldl (fun v q => (v + q.1 * q.2) % big) 0)
  let x : Int := if (big + 1) / 2 ≤ x then (x : Int) - big else x
  let t := (setModuli m).getLastD 1
  { value := x, tally := decide (x % (t : Int) ≠ (rs.getLastD 0 : Int)), range := decide (x < qa * n ∨ qa * p < x) }

/-- What the words of one output give: a slice fault, or the reconstruction (R82 to R85). -/
def reconstructWords (m : MSet) (ws : List (List Word)) (qa : Nat) (n p : Int) : Option Recon :=
  let lv := ((setModuli m).zip ws).map (fun c => c.2.map (levelOf c.1))
  if lv.any (fun c => c.any Option.isNone) then none
  else some (reconstruct m (((setModuli m).zip lv).map (fun c => combine c.1 (c.2.map (fun l => l.getD 0)))) qa n p)

/-- Weight bounds N and P of a chunk (R80). -/
def weightBounds (ws : List Int) : Int × Int :=
  ws.foldl (fun b w => (b.1 + min w 0, b.2 + max w 0)) (0, 0)

/-- The chunk sum itself, as the replay unit computes it (R92). -/
def exactSum (acts : List Nat) (ws : List Int) : Int := (acts.zip ws).foldl (fun v p => v + p.1 * p.2) 0

/-- The step code before it is rounded, in units of 1/(8192 m) LSB (R265). -/
def stepValue (m r : Nat) (c : Nat → Int) (g o : Int) : Int :=
  let k := 64 * r / m
  let f := 64 * r % m
  (c k * (m - f : Int) + c (k + 1) * f) * (384 + g) + o * m * 512

/-- The step code of residue `r` under modulus `m`, from the curve C, gain g and offset o of the edition's trims (R265). -/
def stepCode (m r : Nat) (c : Nat → Int) (g o : Int) : BitVec 10 :=
  if r = 0 then 0
  else
    let code := (stepValue m r c g o + m * 4096) / (m * 8192 : Int)
    BitVec.ofNat 10 (if code < 1 then 1 else if 1023 < code then 1023 else code.toNat)

/-! ### Trims (R264) -/

/-- Knot `k` of the curve of row `68 g + r`, in 1/16 LSB; C[0] = 0 (R264). -/
def curveAt (e : Edition) (row k : Nat) : Int := if k = 0 then 0 else (Config.curve e.base row k).toNat

/-- The gain g of a tap, unsigned (R264). -/
def tapGain (e : Edition) (row c : Nat) : Int :=
  (((assoc (64 * row + c) e.taps).map (fun q => q.1)).getD (Config.gain e.base row c)).toNat

/-- The offset o of a tap, signed, in 1/16 LSB (R264). -/
def tapOffset (e : Edition) (row c : Nat) : Int :=
  (((assoc (64 * row + c) e.taps).map (fun q => q.2)).getD (Config.offset e.base row c)).toInt

/-- The slicer zero Z of a row, in units of 2 pi / 4096 (R264). -/
def zeroAt (e : Edition) (row : Nat) : BitVec 12 := (assoc row e.zeros).getD (Config.slicerZero e.zeroBase row)

end Sys2Proof.Machine
end

