-- ==== Sys2Proof/Machine/Operands.lean ====
section
/-! DEFINITION. Operand forms: graph and task descriptors, scale policies, staging translation, weight and activation operands
(R144, R163 to R166, R225, R464). -/

namespace Sys2Proof.Machine

/-- The graph descriptor's 64 bytes, decoded (R163), for slot 0 and without what admission adds. -/
def graphOf (addr : Nat) (b : List Byte) : Graph :=
  { id := BitVec.ofNat 32 (field b 4 4), modules := field b 2 1, index := field b 3 1, edition := field b 1 1
    addr := BitVec.ofNat 64 addr, image := BitVec.ofNat 64 (field b 32 8), priority := field b 50 1
    compRing := field b 44 2, eventRing := field b 46 2, ledgerRing := field b 48 2, period := field b 52 2, phase := field b 54 2
    arcadeAllot := field b 40 2, commonAllot := field b 42 2 }

/-- A task descriptor's 64 bytes, decoded (R164). -/
def taskOf (b : List Byte) : Task :=
  { kind := BitVec.ofNat 8 (field b 0 1), flags := BitVec.ofNat 8 (field b 1 1), prio := BitVec.ofNat 8 (field b 2 1)
    lane := BitVec.ofNat 8 (field b 3 1), deadline := BitVec.ofNat 32 (field b 4 4), a := BitVec.ofNat 64 (field b 8 8)
    b := BitVec.ofNat 64 (field b 16 8), res := BitVec.ofNat 64 (field b 24 8), d0 := BitVec.ofNat 32 (field b 32 4)
    d1 := BitVec.ofNat 32 (field b 36 4), d2 := BitVec.ofNat 32 (field b 40 4), fmt := BitVec.ofNat 32 (field b 44 4)
    policy := (b.drop 48).take 16 }

/-- TD_KIND codes (R165). -/
def kPassGroup : BitVec 8 := 1
def kLutGemv : BitVec 8 := 2
def kXlOp : BitVec 8 := 3
def kTransfer : BitVec 8 := 4
def kCollective : BitVec 8 := 5
def kHarvest : BitVec 8 := 6
def kLaneIn : BitVec 8 := 7
def kLaneOut : BitVec 8 := 8

/-- COMPLETION, COMPLETION_EACH and LEDGER_TAG of TD_FLAGS (R164). -/
def tdCompletion (t : Task) : Bool := t.flags.toNat.testBit 0
def tdEach (t : Task) : Bool := t.flags.toNat.testBit 1
def tdTag (t : Task) : Bool := t.flags.toNat.testBit 2

/-- LIST and WEIGHT_LOAD of a TRANSFER (R165, R464). -/
def tdList (t : Task) : Bool := bit t.d1 0
def tdWeightLoad (t : Task) : Bool := bit t.d1 1

/-- The weight format of a task. -/
def tdWfmt (t : Task) : WFmt := (wfmtOf (bits t.fmt 3 0)).getD .int4

/-! Scale policy (R166). -/

def spTarget (t : Task) : Nat := field t.policy 0 1
def spMode (t : Task) : Nat := field t.policy 1 1 % 4
def spPerTensor (t : Task) : Bool := (field t.policy 1 1).testBit 2
def spRunning (t : Task) : Bool := (field t.policy 1 1).testBit 3
def spHistory (t : Task) : Nat := field t.policy 1 1 / 16 + 1
def spOutFmt (t : Task) : Nat := field t.policy 2 1
def spInit (t : Task) : Word := BitVec.ofNat 32 (field t.policy 4 4)
def spRecords (t : Task) : Nat := field t.policy 8 4
def spOutliers (t : Task) : Nat := field t.policy 12 4

/-- Offset of a staging address in its bank and the bank: 0 to 23 arcade, 24 common (R163). -/
def stagingBank (a : Nat) : Nat × Nat :=
  if a < commonBase then ((a - stagingBase) / 0x1000000, (a - stagingBase) % 0x1000000) else (24, a - commonBase)

/-- First address of a bank. -/
def bankBase (k : Nat) : Nat := if k < 24 then stagingBase + k * 0x1000000 else commonBase

/-- The physical address of a task operand's byte: a staging address goes through the graph's unit table (R163, R225). -/
def physical (g : Graph) (a : Nat) : Option Nat :=
  if stagingBase ≤ a ∧ a < stagingEnd then
    let p := stagingBank a
    match (g.units.getD p.1 [])[p.2 / 65536]? with
    | some u => some (bankBase p.1 + u * 65536 + p.2 % 65536)
    | none => none
  else some a

/-- The pieces of `n` bytes of a task operand at `a`: offset in the operand, device address, bytes. A staging operand has one for each unit that
it spans, which need not be adjacent (R225). -/
def pieces (g : Graph) (a n : Nat) : List (Nat × Nat × Nat) :=
  if n = 0 then []
  else if a + n ≤ stagingBase ∨ stagingEnd ≤ a then [(0, a, n)]
  else (List.range ((a + n - 1) / 65536 - a / 65536 + 1)).filterMap (fun i =>
    let lo := max a ((a / 65536 + i) * 65536)
    (physical g lo).map (fun p => (lo - a, p, min (a + n) ((a / 65536 + i + 1) * 65536) - lo)))

/-- One byte of a task operand. -/
def taskByte (s : State) (g : Graph) (a : Nat) : Byte := match physical g a with | some p => readByte s p | none => 0

/-- `n` bytes of a task operand. -/
def taskBytes (s : State) (g : Graph) (a n : Nat) : List Byte := (List.range n).map (fun i => taskByte s g (a + i))

/-- A number in a task operand. -/
def taskNat (s : State) (g : Graph) (a n : Nat) : Nat := ofLe (taskBytes s g a n)

/-- Bytes the egress buffer holds (R347). -/
def egressSize : Nat := 4194304

/-- One byte a task writes at device address `p` (R347): a byte to a host window waits in the egress buffer while the host withholds credits,
and a task whose byte found the buffer full writes nothing further. The host withholds credits while the link is down. DESIGN CHOICE (log 95). -/
def taskByteOut (p : Nat) (b : Byte) (s : State) : State :=
  if s.hif.egressFull then s
  else match place s p true with
    | .host k =>
      if s.hif.plUp then writeByte p b s
      else if s.hif.egress.length < egressSize then { s with hif := { s.hif with egress := s.hif.egress ++ [(k, b)] } }
      else { s with hif := { s.hif with egressFull := true } }
    | _ => writeByte p b s

/-- The same, with the weight regions it touches made stale (R205). -/
def taskByteStale (p : Nat) (b : Byte) (s : State) : State :=
  let u := taskByteOut p b s
  if u.hif.egressFull then u else staleRegions p 1 u

/-- Bytes a task writes: each through the unit table; weight regions they touch become stale (R205). -/
def taskWrite (g : Graph) (a : Nat) (bs : List Byte) (s : State) : State :=
  match bs with
  | [] => s
  | b :: r => taskWrite g (a + 1) r (match physical g a with | some p => taskByteStale p b s | none => s)

/-- Address of an offset in the common allotment (R166). -/
def commonAt (off : Nat) : Nat := commonBase + off

/-- The outlier columns of a conversion task (R166). -/
def outlierCols (s : State) (g : Graph) (t : Task) : List Nat :=
  if spOutFmt t = 0 ∨ spOutliers t = 0xFFFFFFFF then []
  else
    let a := commonAt (spOutliers t)
    (List.range (taskNat s g a 4)).map (fun i => taskNat s g (a + 4 + 4 * i) 4)

/-- Address of the outlier buffer: the next 64-byte boundary after the list (R166). -/
def outlierBuf (s : State) (g : Graph) (t : Task) : Nat :=
  commonAt ((spOutliers t + 4 + 4 * taskNat s g (commonAt (spOutliers t)) 4 + 63) / 64 * 64)

/-- The task in the same graph whose result a task's TD_A operand is: the converter of its activations, whose policy names their scale
records (R119, R166). -/
def producerOf (g : Graph) (t : Nat) : Option Task :=
  let x := taskAt g t
  (g.edges.filterMap (fun e => if e.2 = t then some (taskAt g e.1) else none)).find? (fun p => p.res = x.a)

/-- The weight value at output `o`, column `i` of a matrix task's TD_B operand (R107, R464). -/
def weightAt (s : State) (g : Graph) (t : Task) (o i : Nat) : Int :=
  let b := wfmtBits (tdWfmt t)
  let a := t.b.toNat + o * rowBytes b t.d0.toNat + i * b / 8
  weightValue (tdWfmt t) ((taskByte s g a).toNat / 2 ^ (i * b % 8) % 2 ^ b)

/-- The weights of output `o` in chunk `c`: 64 columns, padding 0 (R59, R79). -/
def chunkWeights (s : State) (g : Graph) (t : Task) (o c : Nat) : List Int :=
  (List.range 64).map (fun j => if 64 * c + j < t.d0.toNat then weightAt s g t o (64 * c + j) else 0)

/-- Container bits of the activations of a pass group, by width (R109). -/
def actBits (b : Nat) : Nat := if b = 2 then 2 else 4

/-- The raw activation code at vector `v`, column `i` (R109): vectors lie one after the other, each from a byte boundary. -/
def actAt (s : State) (g : Graph) (t : Task) (v i : Nat) : Nat :=
  let w := wfmtActBits (tdWfmt t)
  let b := actBits w
  let a := t.a.toNat + v * rowBytes b t.d0.toNat + i * b / 8
  (taskByte s g a).toNat / 2 ^ (i * b % 8) % 2 ^ b % 2 ^ w

/-- The activation codes of chunk `c`, columns beyond the width 0 (R59). -/
def chunkActs (s : State) (g : Graph) (t : Task) (v c : Nat) : List Nat :=
  (List.range 64).map (fun j => if 64 * c + j < t.d0.toNat then actAt s g t v (64 * c + j) else 0)

/-- Chunks of an output (R79). -/
def chunkCount (t : Task) : Nat := (t.d0.toNat + 63) / 64

/-- Address of the rescale entry of output `o` of a matrix task (R131, R464). -/
def rescaleAt (t : Task) (o : Nat) : Nat := entriesAt t.b.toNat (wfmtBits (tdWfmt t)) t.d0.toNat t.d1.toNat + 16 * o

end Sys2Proof.Machine
end

