-- ==== Sys2Proof/Machine/Stalls.lean ====
section
/-! DEFINITION. Stalls, holds, swaps, refresh, probes and spares (chapter 02), and the almanac entries LOAD, SWAP and HOLD_REFRESH. -/

namespace Sys2Proof.Machine

/-- Arcade of a physical stall (R32). -/
def arcadeOf (g : Nat) : Nat := g / 34

/-- Electronic die above a physical stall: false E0, true E1 (R32, R17). -/
def dieOf (g : Nat) : Bool := decide (408 ≤ g)

/-- The logical stall a physical stall serves, 0x3FF for none (R75). -/
def logicalOf (s : State) (g : Nat) : Nat := (stallAt s g).logical.getD 0x3FF

/-- An event of block 0, naming the stall and its logical stall; EV_DETAIL is 0 unless given (R75). -/
def pmaEvent (b g : Nat) (detail : List Byte) (s : State) : State :=
  raise .pma b { unit := some g, logical := (stallAt s g).logical.getD 0xFFFF, detail := some detail } s

/-- An error of block 2: the stall and the count of TDW_ERR_STALL, and the event (R77). -/
def tdwError (b g : Nat) (s : State) : State :=
  let s := { s with tdw := { s.tdw with errPhys := g, errCount := sat 0xFFFF (s.tdw.errCount + 1) } }
  raise .tdw b { unit := some g, logical := (stallAt s g).logical.getD 0xFFFF } s

/-- The stall serves and its light and electronics can carry a pass: LOADED or SUSPECT with a valid front hold (R49, R73). -/
def stallDrives (st : Stall) : Bool := (st.state = .loaded || st.state = .suspect) && st.front.valid && !st.driveOff

/-- Stall `g` enters SUSPECT from LOADED or UNLOADED (R64). -/
def enterSuspect (g : Nat) (s : State) : State :=
  let st := stallAt s g
  if st.state = .loaded ∨ st.state = .unloaded then
    pmaEvent 0 g [] (modStall g (fun st => { st with state := .suspect, suspects := s.seq.epoch :: st.suspects, suspectAt := now s }) s)
  else s

/-- A request for a probe of stall `g` (R64, R76, R276, R279): refused unless the stall is LOADED or SUSPECT. -/
def probeRequest (g : Nat) (s : State) : State :=
  let st := stallAt s g
  if 815 < g ∨ (st.state ≠ .loaded ∧ st.state ≠ .suspect) then
    raise .pma 6 { unit := some g, logical := if 815 < g then 0xFFFF else st.logical.getD 0xFFFF, detail := some [] } s
  else if st.state = .suspect then s
  else enterSuspect g s

/-- A request through PMA_MAP_REQ (R72, R76): a probe at the host's request, and with action 1 the stall is mapped out. -/
def mapRequest (mapOut : Bool) (g : Nat) (s : State) : State :=
  let st := stallAt s g
  let s := probeRequest g (if st.state = .loaded then modStall g (fun st => { st with asked := true }) s else s)
  if mapOut ∧ g ≤ 815 ∧ (st.state = .loaded ∨ st.state = .suspect) then modStall g (fun st => { st with mapOut := true }) s else s

/-- Both holds of a stall lose their charge (R48): a stall that serves enters UNLOADED, but a SUSPECT one keeps its state. -/
def dischargeStall (st : Stall) : Stall :=
  { st with
    front := { st.front with valid := false, mset := none }
    shadow := { st.shadow with valid := false, mset := none }
    loading := false
    driveOff := false
    state := if st.state = .loaded then .unloaded else st.state }

/-- Every hold discharged (R48). -/
def dischargeAll (s : State) : State := { s with stalls := s.stalls.map dischargeStall }

/-! ### Tiles and loads -/

/-- The idle logical rows of a set (R41). -/
def idleRows (m : MSet) : List Nat := (List.range 64).drop (setOutputs m * setChannels m)

/-- The idle rows of a tile's stall that joined outputs of its drive group take: logical row, output, channel. The group's idle rows, in the
order of its member list and then by row number, are formed into joined outputs of one channel per row (R42). -/
def joinedRows (m : MSet) (t : Tile) : List (Nat × Nat × Nat) :=
  let idle := idleRows m
  ((List.range idle.length).zip idle).filterMap (fun q =>
    let i := t.member * idle.length + q.1
    (t.joined[i / setChannels m]?).bind (fun o =>
      if setChannels m * (i / setChannels m) + setChannels m ≤ t.group.length * idle.length then some (q.2, o, i % setChannels m) else none))

/-- The rows a tile takes under a set: logical row, output, channel, and the output's number within the stall, 31 for a joined one
(R41, R42, R103). -/
def tileRows (m : MSet) (t : Tile) : List (Nat × Nat × Nat × Nat) :=
  ((List.range t.outCount).flatMap (fun j => (List.range (setChannels m)).map (fun c => (j * setChannels m + c, t.outBase + j, c, j))))
    ++ (joinedRows m t).map (fun q => (q.1, q.2.1, q.2.2, 31))

/-- The outputs with a row on a tile's stall (R42, R148). -/
def tileOutputs (m : MSet) (t : Tile) : List Nat := ((tileRows m t).map (fun q => q.2.1)).eraseDups

/-- The set and integration the page in force runs a task under (R99, R175); the warm set at n = 1 for a task not in the plan. -/
def planOf (s : State) (slot task : Nat) (f : WFmt) : MSet × Nat :=
  match s.seq.page.plan.find? (fun p => p.1 = slot ∧ p.2.1 = task) with
  | some p => (p.2.2.1, p.2.2.2)
  | none => (warmSet f, 1)

/-- The weights of the 64 logical rows for a tile: each row has its output's weights, idle rows 0 (R41, R43). -/
def tileWeights (s : State) (m : MSet) (t : Tile) : List (List Int) :=
  match graphAt s t.slot with
  | none => List.replicate 64 (List.replicate 64 0)
  | some g =>
    (List.range 64).map (fun r =>
      match (tileRows m t).find? (fun q => q.1 = r) with
      | some q => chunkWeights s g (taskAt g t.task) q.2.1 t.chunk
      | none => List.replicate 64 0)

/-- The modulus of a logical row under a set and tile (R41). -/
def rowModulus (m : MSet) (t : Tile) (r : Nat) : Nat :=
  match (tileRows m t).find? (fun q => q.1 = r) with
  | some q => (setModuli m).getD q.2.2.1 1
  | none => 1

/-- The spare map of a stall with rows taken in by a probe: a spare row that failed stays under row 255, out of use (R66). -/
def mapWith (st : Stall) (rows : List (Nat × Nat)) : List (Nat × Nat) :=
  st.rowMap.map (fun q => if rows.any (fun o => o.2 = q.2) then (q.1, 255) else q) ++ rows

/-- The logical row whose codes physical row `r` holds, 64 for none (R39, R43). -/
def rowHeld (rowMap : List (Nat × Nat)) (r : Nat) : Nat :=
  if r < 64 then r else ((rowMap.find? (fun q => q.1 = r)).map (fun q => q.2)).getD 64

/-- The step codes of the 68 physical rows: a spare row in the spare map has the codes of its logical row, other spare rows 0x000
(R39, R43, R264, R265). -/
def tileCodes (e : Edition) (g : Nat) (m : MSet) (t : Tile) (rowMap : List (Nat × Nat)) (ws : List (List Int)) : List (List (BitVec 10)) :=
  (List.range 68).map (fun r =>
    let logical := rowHeld rowMap r
    (List.range 64).map (fun c =>
      let w := (ws.getD logical []).getD c 0
      let md := rowModulus m t logical
      stepCode md (w % (md : Int)).toNat (curveAt e (68 * g + r)) (tapGain e (68 * g + r) c) (tapOffset e (68 * g + r) c)))

/-- The edition a load uses: the pending edition inside a fallow slot, else the current one (R56). -/
def loadTrims (s : State) : Edition × Nat :=
  if s.seq.fallow ∧ s.tdw.trimPending then (s.cal.trimsPending, (s.tdw.edition + 1).toNat) else (s.cal.trims, s.tdw.edition.toNat)

/-- The hold that a load of tile `t` under set `m` writes on stall `g` (R40, R44, R80); in a fallow slot with the spare rows that the boundary
takes in (R66). -/
def loadedHold (s : State) (g : Nat) (m : MSet) (t : Tile) : Hold :=
  let fmt := match graphAt s t.slot with | some gr => tdWfmt (taskAt gr t.task) | none => .int4
  let ws := tileWeights s m t
  let tr := loadTrims s
  { valid := false, mset := some m, fmt := fmt, tile := t, weights := ws
    codes := tileCodes tr.1 g m t (mapWith (stallAt s g) (stallAt s g).outRows) ws
    bounds := ws.map weightBounds, edition := tr.2, refreshed := now s }

/-- A load abort on stall `g` (R46): the shadow hold is not valid, and a second abort in the epoch makes the stall SUSPECT. -/
def loadAbort (g : Nat) (s : State) : State :=
  let s := modStall g (fun st => { st with shadow := { st.shadow with valid := false }, loading := false, aborts := st.aborts + 1 }) s
  let s := tdwError 0 g s
  if 2 ≤ (stallAt s g).aborts then enterSuspect g s else s

/-! ### Substitution (R71, R148, R149) -/

/-- The entry of a substituted logical stall. -/
def substOf (s : State) (l : Nat) : Option Subst := s.lge.subst.find? (fun x => x.logical = l)

/-- The entry of a substituted logical stall changed by `f`. -/
def modSubst (l : Nat) (f : Subst → Subst) (s : State) : State :=
  { s with lge := { s.lge with subst := s.lge.subst.map (fun x => if x.logical = l then f x else x) } }

/-- The tables of a tile as the LGE builds them from the weight codes in staging SRAM: W[o][i][a] = a w for every output with a row on the
stall, every column and every activation code (R148). -/
def buildTables (s : State) (m : MSet) (t : Tile) : SubstTile :=
  match graphAt s t.slot with
  | none => { tile := t }
  | some g =>
    let x := taskAt g t.task
    { tile := t, tables := (tileOutputs m t).map (fun o =>
        (o, (chunkWeights s g x o t.chunk).map (fun w => (List.range (2 ^ wfmtActBits (tdWfmt x))).map (fun a => (a : Int) * w)))) }

/-- A substitution hold begins, if none runs, with LGE_SUBST_LATE (R148, R149, R160). -/
def beginSubstHold (l : Nat) (s : State) : State :=
  if s.seq.substHold.isSome then s
  else raise .lge 1 { logical := l } { s with seq := { s.seq with substHold := some (now s) } }

/-- SHADOW_LOAD (R44 to R46, R53, R56): the stall that serves `l` loads tile `t` under set `m`; `abort` says that a DAC queue ran empty
or a table had a parity error. For a substituted stall the LGE builds its tables instead (R148). -/
def execShadowLoad (l : Nat) (t : Tile) (m : MSet) (abort : Bool) (s : State) : Out :=
  if !running s ∨ held s then .next s else
  match servedBy s l with
  | none => .next (modSubst l (fun x => if x.onLge then { x with shadow := some (buildTables s m t) } else x) s)
  | some g =>
    if abort then .next (loadAbort g s)
    else .next (modStall g (fun st => { st with shadow := loadedHold s g m t, loading := true }) s)

/-- SHADOW_LOAD_COMPLETE (R52): 64 work cycles after its start the shadow hold is valid. -/
def execShadowLoadComplete (l : Nat) (s : State) : Out :=
  match servedBy s l with
  | none => .next s
  | some g =>
    if (stallAt s g).loading then
      .next (modStall g (fun st => { st with shadow := { st.shadow with valid := true, refreshed := now s }, loading := false }) s)
    else .next s

/-- The swap of stall `g` (R49 to R51): the holds exchange their roles, or, with no valid shadow hold, the columns send 0. -/
def swapStall (g : Nat) (s : State) : State :=
  let st := stallAt s g
  if st.shadow.valid ∧ ¬ st.loading then
    modStall g (fun st => { st with
      front := st.shadow
      shadow := { st.front with valid := false }
      driveOff := false
      swaps := st.swaps + 1
      state := if st.state = .unloaded then .loaded else st.state }) s
  else tdwError 1 g (modStall g (fun st => { st with driveOff := true }) s)

/-! ### Replays that wait and the tile they wait for (R91, R92, R96) -/

/-- Die of a logical stall (R17, R34). -/
def dieOfLogical (l : Nat) : Bool := decide (384 ≤ l)

/-- A stall pass goes to the replay unit of a die; the queue peak counts its 64 entries (R92, R103). -/
def queueOne (die : Bool) (f : Flight) (s : State) : State :=
  if die then
    let q := s.psr.queue1 ++ [f]
    { s with psr := { s.psr with queue1 := q, cur := { s.psr.cur with peak1 := max s.psr.cur.peak1 (min 64 q.length) } } }
  else
    let q := s.psr.queue0 ++ [f]
    { s with psr := { s.psr with queue0 := q, cur := { s.psr.cur with peak0 := max s.psr.cur.peak0 (min 64 q.length) } } }

/-- The share of a drive group's replay that the stall pass at place `i` of the group has: its own outputs, and with the first one the joined
outputs (log 73). -/
def passShare (f : Flight) (i : Nat) (q : Nat × Tile) : Flight :=
  let own := (List.range q.2.outCount).map (fun j => q.2.outBase + j)
  let others := f.stalls.flatMap (fun p => (List.range p.2.outCount).map (fun j => p.2.outBase + j))
  { f with stalls := [q], outs := []
           want := f.want.filter (fun o => own.contains o || (decide (i = 0) && !others.contains o)) }

/-- The stall passes of a replay go to the replay unit of their die, one entry for each (R92; log 73). -/
def queueReplay (f : Flight) (s : State) : State :=
  each ((List.range f.stalls.length).zip f.stalls) (fun q s => queueOne (dieOfLogical q.2.1) (passShare f q.1 q.2) s) s

/-- Logical stall `l` can be driven with tile `t` under set `m`: it is served, its front hold holds that tile, and its columns drive
(R49, R51, R64). -/
def inFront (s : State) (m : MSet) (l : Nat) (t : Tile) : Bool :=
  (substOf s l).isNone &&
  match servedBy s l with
  | some g => stallDrives (stallAt s g) && decide ((stallAt s g).front.tile = t) && decide ((stallAt s g).front.mset = some m)
  | none => false

/-- The tiles of a flight are in the front holds of its stalls (R91). -/
def flightInFront (s : State) (f : Flight) : Bool := f.stalls.all (fun q => inFront s f.mset q.1 q.2)

/-- After a change of front holds or of the spare map: a waiting replay whose tile has left the front runs on the replay unit, and a withheld
pass whose tile has come to the front waits for it from now on (R46, R91, R96). -/
def settleReplays (s : State) : State :=
  let gone (f : Flight) : Bool := !f.withheld && !flightInFront s f
  let s' := { s with psr := { s.psr with
    optWait := (s.psr.optWait.filter (fun f => !gone f)).map (fun f => if flightInFront s f then { f with withheld := false } else f) } }
  each (s.psr.optWait.filter gone) queueReplay s'

/-- The scheduled span is over: no replay that waits can run optically any more (R91, R96). -/
def endSpan (s : State) : State := each s.psr.optWait queueReplay { s with psr := { s.psr with optWait := [] } }

/-- SWAP (R50): at a boundary that the almanac names. A shadow hold of another set waits for the first symbol of an epoch (R53; log 74). A
substituted stall's shadow tables become those of its front tile (R148). -/
def execSwap (l : Nat) (s : State) : Out :=
  if !running s ∨ held s then .next s else
  match servedBy s l with
  | none => .next (modSubst l (fun x => if x.shadow.isSome then { x with front := x.shadow, shadow := none } else x) s)
  | some g =>
    let st := stallAt s g
    if st.shadow.valid ∧ st.front.valid ∧ st.shadow.mset ≠ st.front.mset then .next s
    else .next (settleReplays (swapStall g s))

/-! ### Refresh (R54, R55) -/

/-- The hold named: shadow or front. -/
def holdOf (st : Stall) (shadow : Bool) : Hold := if shadow then st.shadow else st.front

/-- A refresh is due to this hold: it is valid, and no load rewrites it (R54, R57). -/
def refreshable (st : Stall) (shadow : Bool) : Bool := (holdOf st shadow).valid && !(shadow && st.loading)

/-- The hold rewritten from its code store; the longest interval is kept in units of 10 ns (R54, R77). -/
def refreshHold (g : Nat) (shadow : Bool) (s : State) : State :=
  let st := stallAt s g
  let age := (now s - (holdOf st shadow).refreshed) / 10
  let s := modStall g (fun st =>
    if shadow then { st with shadow := { st.shadow with refreshed := now s } }
    else { st with front := { st.front with refreshed := now s } }) s
  { s with tdw := { s.tdw with refreshMax := sat 0xFFFF (max s.tdw.refreshMax age) } }

/-- HOLD_REFRESH (R33, R54): the frame entry of logical stall `l`. -/
def execHoldRefresh (l : Nat) (shadow : Bool) (s : State) : Out :=
  match servedBy s l with
  | none => .next s
  | some g => if running s ∧ ¬ held s ∧ refreshable (stallAt s g) shadow then .next (refreshHold g shadow s) else .next s

/-- REFRESH_LATE (R55): at 50 us without a refresh the hold is refreshed and the error recorded. -/
def execRefreshLate (g : Nat) (shadow : Bool) (s : State) : Out :=
  if refreshable (stallAt s g) shadow then
    let s := advanceTo ((holdOf (stallAt s g) shadow).refreshed + 50000) s
    .next (tdwError 2 g (refreshHold g shadow s))
  else .next s

/-! ### Probes and spares (R65 to R70) -/

/-- Entries of a stall to SUSPECT in the last 16 epochs (R66, R75). -/
def suspectCount (s : State) (st : Stall) : Nat := (st.suspects.filter (fun e => s.seq.epoch < e + 16)).length

/-- Spare rows of a stall not yet in its spare map (R66). -/
def freeSpareRows (st : Stall) : List Nat := [64, 65, 66, 67].filter (fun r => !st.rowMap.any (fun q => q.1 = r))

/-- The stalls of arcade `a` that take light from line `k` in service, in the order their drop rings lie along the bus: the spare positions first
(R35, R36). A stall that is to leave its line is PARKED. -/
def onLine (s : State) (a k : Nat) : List Nat :=
  (([32, 33] ++ List.range 32).map (fun p => 34 * a + p)).filter (fun h =>
    decide ((stallAt s h).line = k) && decide ((stallAt s h).drop ≠ Drop.parked))

/-- The drop states of a line (R36, R70): the upstream one of two stalls is in HALF and the downstream one in FULL, and a stall alone on its line
is in FULL (log 75). -/
def settleLine (a k : Nat) (s : State) : State :=
  match onLine s a k with
  | [] => s
  | [h] => modStall h (fun st => { st with drop := .full }) s
  | h :: r => each r (fun x s => modStall x (fun st => { st with drop := .full }) s) (modStall h (fun st => { st with drop := .half }) s)

/-- Stall `g` leaves its line in the fallow slot: PARKED, and the line settles without it (R67, R70). -/
def leaveLine (g : Nat) (s : State) : State :=
  settleLine (arcadeOf g) (stallAt s g).line (modStall g (fun st => { st with drop := .parked }) s)

/-- Spare positions of an arcade in SPARE, lowest first (R67). -/
def sparesOf (s : State) (a : Nat) : List Nat := [34 * a + 32, 34 * a + 33].filter (fun h => (stallAt s h).state = .spare)

/-- Hall time of the boundary that ends the fallow slot (R68, R189). -/
def slotEnd (s : State) : Nat := if s.seq.short then s.seq.slotStart + 5000 else nextBoundary s

/-- The modulus that physical row `r` of a hold decides under (R41). -/
def heldModulus (h : Hold) (map : List (Nat × Nat)) (r : Nat) : Nat :=
  match h.mset with
  | some m => rowModulus m h.tile (rowHeld map r)
  | none => 1

/-- The level expected of physical row `r` in symbol `i` of a probe: the weight of column i alone, or the sum of all for symbol 64, modulo m; 0 for
a hold that is not valid (R65). -/
def probeLevel (h : Hold) (map : List (Nat × Nat)) (r i : Nat) : Nat :=
  if !h.valid then 0
  else
    let ws := h.weights.getD (rowHeld map r) []
    ((if i < 64 then ws.getD i 0 else ws.foldl (fun v w => v + w) 0) % (heldModulus h map r : Int)).toNat

/-- The physical rows of stall `g` with a decision that differs from the expected level (R65). -/
def probedRows (s : State) (o : List ProbeDev) (g : Nat) : List Nat :=
  (List.range 68).filter (fun r => o.any (fun d => decide (d.stall = g) && decide (d.row = r) && decide (d.symbol ≤ 64)
    && decide (d.level ≠ probeLevel (stallAt s g).front (stallAt s g).rowMap r d.symbol)))

/-- The logical rows of stall `g` whose physical row fails; those of rows out of the spare map serve nothing (R43, R66). -/
def failingRows (st : Stall) (rows : List Nat) : List Nat :=
  (List.range 64).filter (fun l =>
    match st.rowMap.find? (fun q => q.2 = l) with
    | some q => rows.contains q.1
    | none => rows.contains l)

/-- Spare stall preparation for `g` (R67 to R69): spares of the arcade in order; one that fails its own probe enters FAILED, and the
next is prepared while 4 us remain before the boundary. With no spare left in SPARE the stall is to retire. -/
def prepareSpare (o : List ProbeDev) (g : Nat) : List Nat → Nat → State → State
  | [], _, s => leaveLine g (modStall g (fun st => { st with outcome := 4 }) s)
  | h :: r, k, s =>
    if slotEnd s < s.seq.slotStart + 4000 * (k + 1) then s
    else
      let st := stallAt s g
      let s := { s with seq := { s.seq with prepared := arcadeOf g :: s.seq.prepared } }
      let s := modStall h (fun sp => { sp with front := st.front, shadow := st.shadow, loading := false, driveOff := st.driveOff }) s
      if !(probedRows s o h).isEmpty then
        prepareSpare o g r (k + 1) (modStall h (fun sp => { sp with state := .failed, front := {}, shadow := {} }) s)
      else
        let s := modStall h (fun sp => { sp with line := st.line, drop := .half }) s
        modStall g (fun st => { st with outcome := 3, outSpare := some h }) (leaveLine g s)

/-- A hold with the codes of its failing rows, read from its code store, loaded into spare rows as well (R40, R66): `map` is the spare map in
force, `rows` the spare rows with the logical rows they take. -/
def recode (map rows : List (Nat × Nat)) (h : Hold) : Hold :=
  { h with codes := rows.foldl (fun cs q =>
      let src := ((map.find? (fun m => m.2 = q.2)).map (fun m => m.1)).getD q.2
      cs.take q.1 ++ [cs.getD src []] ++ cs.drop (q.1 + 1)) h.codes }

/-- What the probe of a SUSPECT stall decides (R66): `o` are the decisions that differ. -/
def decideProbe (o : List ProbeDev) (g : Nat) (s : State) : State :=
  let st := stallAt s g
  -- a weak row counts as a failing row (R279)
  let rows := failingRows st (probedRows s o g ++ st.weak)
  let free := freeSpareRows st
  if st.mapOut ∨ (rows = [] ∧ 3 ≤ suspectCount s st) ∨ free.length < rows.length then
    let taken := (List.range 34).filterMap (fun p => (stallAt s (34 * arcadeOf g + p)).outSpare)
    prepareSpare o g ((sparesOf s (arcadeOf g)).filter (fun h => !taken.contains h)) 0 s
  else if rows = [] then
    pmaEvent 1 g [] (modStall g (fun st => { st with outcome := 1 }) s)
  else
    let new := free.zip rows
    let s := { s with seq := { s.seq with prepared := arcadeOf g :: s.seq.prepared } }
    modStall g (fun st => { st with outcome := 2, outRows := new, front := recode st.rowMap new st.front
                                    shadow := recode st.rowMap new st.shadow }) s

/-- The SUSPECT stalls in the order they are served: by the moment they entered it, then by logical stall; those SUSPECT at the host's request
last (R69, R72). -/
def suspectOrder (s : State) : List Nat :=
  sortBy (fun g h =>
    let a := stallAt s g
    let b := stallAt s h
    decide (bool a.asked < bool b.asked) || (a.asked == b.asked &&
      (decide (a.suspectAt < b.suspectAt) || (a.suspectAt == b.suspectAt && decide (a.logical.getD 1023 ≤ b.logical.getD 1023)))))
    ((List.range 816).filter (fun g => (stallAt s g).state = .suspect))

/-- Probes and preparations of a fallow slot (R65 to R69): `o` gives the decisions that differ from what the holds give. -/
def probeAll (o : List ProbeDev) (s : State) : State :=
  each (suspectOrder s) (fun g s => if (stallAt s g).outcome = 0 then decideProbe o g s else s) s

/-- A stall that returns to service is LOADED, or UNLOADED when its front hold is not valid (R66). -/
def backInService (st : Stall) : Stall :=
  { st with state := if st.front.valid then .loaded else .unloaded, outcome := 0, outRows := [], outSpare := none, asked := false }

/-- The tables of the tiles that stall `g` holds, for the logical stall `l` that it serves: the front tile of the epoch to come, and the other tile
if one is loaded or loading (R148, R149). -/
def substEntry (s : State) (g l : Nat) : Subst :=
  let st := stallAt s g
  let tab (h : Hold) : Option SubstTile := h.mset.map (fun m => buildTables s m h.tile)
  if st.preload then { logical := l, front := tab st.shadow }
  else { logical := l, front := if st.front.valid then tab st.front else none
         shadow := if st.shadow.valid || st.loading then tab st.shadow else none }

/-- The logical stall of `g` becomes substituted on the LGE, or on the replay unit beyond 16 stalls of its die (R71, R148, R160). -/
def substitute (g l : Nat) (s : State) : State :=
  let onLge := (s.lge.subst.filter (fun q => q.onLge && (dieOfLogical q.logical == dieOfLogical l))).length < 16
  if (substOf s l).isSome then s
  else
    let x := (s.lge.ready.find? (fun x => x.logical = l)).getD (substEntry s g l)
    let x := if onLge then x else { logical := l, onLge := false }
    raise .lge 0 { logical := l } { s with lge := { s.lge with subst := s.lge.subst ++ [x] } }

/-- In the fallow slot in which a stall's retirement is decided, the tables of its tiles of the new epoch are built (R149). -/
def buildSubsts (s : State) : State :=
  each ((List.range 816).filter (fun g => decide ((stallAt s g).outcome = 4) && !s.cls.dark.contains (arcadeOf g))) (fun g s =>
    match (stallAt s g).logical with
    | some l => { s with lge := { s.lge with ready := s.lge.ready ++ [substEntry s g l] } }
    | none => s) s

/-- Stall `g` enters RETIRED at the boundary (R69, R71); `needed` says that a spare was needed for it and none was in SPARE (R75). -/
def retireStall (needed : Bool) (g : Nat) (s : State) : State :=
  let l := (stallAt s g).logical
  let s := modStall g (fun st => { st with state := .retired }) s
  let s := pmaEvent 4 g [] (if needed then pmaEvent 5 g [] s else s)
  let s := match l with | some l => substitute g l s | none => s
  modStall g (fun st => { st with logical := none, outcome := 0, mapOut := false, asked := false }) s

/-- What a boundary does with the outcome decided for stall `g` (R66, R67, R69): a stall that the host has asked to map out since its probe was
decided stays in SUSPECT for the next fallow slot (R76; log 76). -/
def applyOutcome (g : Nat) (s : State) : State :=
  let st := stallAt s g
  if st.mapOut ∧ (st.outcome = 1 ∨ st.outcome = 2) then modStall g (fun st => { st with outcome := 0, outRows := [] }) s
  else
  match st.outcome with
  | 1 => modStall g backInService s
  | 2 => pmaEvent 2 g [] (modStall g (fun st => backInService { st with rowMap := mapWith st st.outRows }) s)
  | 3 =>
    match st.outSpare with
    | none => s
    | some h =>
      let s := modStall h (fun sp => { sp with logical := st.logical, state := if sp.front.valid then .loaded else .unloaded }) s
      let s := modStall g (fun st => { st with logical := none, state := .failed, outcome := 0, outSpare := none,
                                               mapOut := false, asked := false }) s
      let commissioned := (s.cal.stalls.getD g {}).commissioned
      let s := { s with cal := { s.cal with stalls := update s.cal.stalls h (fun c => { c with commissioned := commissioned }) } }
      pmaEvent 3 h (le 2 g) s
  | 4 => retireStall (!s.cls.dark.contains (arcadeOf g)) g s
  | _ => s

/-- Load aborts and preparations are those of one epoch (R46, R72). -/
def epochCounts (s : State) : State :=
  { s with stalls := s.stalls.map (fun st => { st with aborts := 0 }), seq := { s.seq with prepared := [] } }

/-- The tables built for the stalls that retire have found their place (R149). -/
def dropReady (s : State) : State := { s with lge := { s.lge with ready := [] } }

/-- The spare map changes of a boundary (R33); the replays that wait for a tile that leaves the front run on the replay units (R96). -/
def spareMapChange (s : State) : State := settleReplays (dropReady (each (List.range 816) applyOutcome (epochCounts s)))

/-- Logical stalls in service (R179). -/
def stallsInService (s : State) : Nat := (s.stalls.filter (fun st => st.logical.isSome)).length

end Sys2Proof.Machine
end

