-- ==== Sys2Proof/Machine/Runs.lean ====
section
/-! DEFINITION. What a task reads and writes, how a task and a run end, completion entries and ledger batches
(R165, R203 to R214, R340, R465). -/

namespace Sys2Proof.Machine

/-! ### Operand extents, in bytes (R165, R248, R462, R464) -/

/-- Bits of an XL element format (R462). -/
def xlBits (c : Nat) : Nat :=
  match c with
  | 0 => 32 | 1 => 16 | 2 => 8 | 4 => 4 | 5 => 4 | 6 => 2 | 7 => 8 | 8 => 4 | 9 => 4 | 10 => 2 | 11 => 2 | 12 => 4 | _ => 0

/-- Operator, vectors, row length and rows of an XL_OP (R462). -/
def xlOp (t : Task) : Nat := bits t.d0 7 0
def xlVectors (t : Task) : Nat := bits t.d0 31 16
def xlFmtA (t : Task) : Nat := bits t.fmt 19 16
def xlFmtB (t : Task) : Nat := bits t.fmt 23 20
/-- Parts of an element: 2 for the complex operators. -/
def xlParts (t : Task) : Nat := if xlOp t = 2 ∨ xlOp t = 3 then 2 else 1
/-- Rows of TD_A: the vectors of DOT and CDOT, else O. -/
def xlRowsA (t : Task) : Nat := if xlOp t = 1 ∨ xlOp t = 2 then xlVectors t else t.d2.toNat
/-- Bytes of a row of `n` elements. -/
def xlRow (t : Task) (fmt n : Nat) : Nat := rowBytes (xlBits fmt) (n * xlParts t)
/-- A code format of an XL operand. -/
def xlCodes (fmt : Nat) : Bool := 4 ≤ fmt

/-- Bytes per element of a collective's format (R248). -/
def collBytes (c : Nat) : Nat := match c with | 1 => 1 | 2 => 4 | 3 => 4 | 4 => 2 | _ => 1

/-- Rows and values per row of a task's result (R118, R165, R462). -/
def resultShape (t : Task) : Nat × Nat :=
  if t.kind = kPassGroup ∨ t.kind = kLutGemv then (t.d2.toNat, t.d1.toNat)
  else if t.kind = kHarvest then (t.d0.toNat, t.d1.toNat)
  else if xlOp t = 1 then (xlVectors t, t.d2.toNat)
  else if xlOp t = 2 then (xlVectors t, 2 * t.d2.toNat)
  else if xlOp t = 10 then (1, t.d2.toNat)
  else (t.d2.toNat, t.d1.toNat * xlParts t)

/-- Bytes of a result of `r` rows of `n` values at `dst` in the task's output format (R133, R462, R464). -/
def shapedBytes (t : Task) (dst r n : Nat) : Nat :=
  let tg := spTarget t
  if tg = 0 then (if t.kind = kXlOp ∧ bit t.fmt 0 then 2 else 4) * n * r
  else if (targetWeight tg).isSome then entriesAt dst (targetBits tg) n r - dst + 16 * r
  else r * rowBytes (targetBits tg) n

/-- Bytes of a lane's unit. -/
def laneUnitBytes (s : State) (l : Nat) : Nat := (s.tsl.lanes.getD l {}).unitBytes.toNat

/-- Bytes of TD_A that a task reads (R206). -/
def extentA (s : State) (t : Task) : Nat :=
  if t.kind = kPassGroup then t.d2.toNat * rowBytes (actBits (wfmtActBits (tdWfmt t))) t.d0.toNat
  else if t.kind = kLutGemv then t.d2.toNat * t.d0.toNat
  else if t.kind = kXlOp then
    let n := xlRowsA t * xlRow t (xlFmtA t) t.d1.toNat
    if xlCodes (xlFmtA t) then (t.a.toNat + n + 15) / 16 * 16 - t.a.toNat + 16 * (if bit t.fmt 24 then 1 else xlRowsA t) else n
  else if t.kind = kTransfer then (if tdList t then 32 * t.d0.toNat else t.d0.toNat)
  else if t.kind = kCollective then t.d1.toNat * collBytes t.d2.toNat
  else if t.kind = kHarvest then 4 * t.d0.toNat * t.d1.toNat
  else if t.kind = kLaneOut then t.d0.toNat * laneUnitBytes s t.lane.toNat
  else 0

/-- Bytes of TD_B that a task reads. -/
def extentB (t : Task) : Nat :=
  if t.kind = kPassGroup ∨ t.kind = kLutGemv then
    entriesAt t.b.toNat (wfmtBits (tdWfmt t)) t.d0.toNat t.d1.toNat - t.b.toNat + 16 * t.d1.toNat
  else if t.kind = kXlOp then
    match xlOp t with
    | 1 =>
      let n := t.d2.toNat * xlRow t (xlFmtB t) t.d1.toNat
      if xlCodes (xlFmtB t) then (t.b.toNat + n + 15) / 16 * 16 - t.b.toNat + 16 * t.d2.toNat else n
    | 7 => 8 * t.d1.toNat
    | 10 => 0 | 11 => 0 | 14 => 0 | 15 => 0
    | 12 => 4 * t.d1.toNat + 4
    | 13 => 8 * t.d1.toNat + 4
    | _ => t.d2.toNat * xlRow t (xlFmtB t) t.d1.toNat
  else 0

/-- Bytes of a task's result. -/
def extentRes (s : State) (t : Task) : Nat :=
  if t.kind = kTransfer then (if tdList t then 0 else t.d0.toNat)
  else if t.kind = kCollective then
    t.d1.toNat * collBytes t.d2.toNat * (if bits t.d0 7 0 = 4 then s.ole.size.toNat else 1)
  else if t.kind = kLaneIn then t.d0.toNat * laneUnitBytes s t.lane.toNat
  else if t.kind = kLaneOut then 0
  else
    let sh := resultShape t
    shapedBytes t t.res.toNat sh.1 sh.2

/-- The entries of a TRANSFER list's bytes: source, destination, length (R165). -/
def listEntries : Nat → List Byte → List (Nat × Nat × Nat)
  | 0, _ => []
  | n + 1, bs => (field bs 0 8, field bs 8 8, field bs 16 4) :: listEntries n (bs.drop 32)

/-! ### Completion entries (R340) -/

/-- The 64 bytes of a completion entry of a run's work or of a command. -/
def completionEntry (s : State) (type : Nat) (status : BitVec 16) (detail : Nat) (cookie : Nat) (task list run missing moved : Nat)
    (result : List Byte) : List Byte :=
  [BitVec.ofNat 8 type, 0] ++ le 2 status.toNat ++ le 4 detail ++ le 8 cookie ++ le 4 task ++ le 4 list ++ le 8 s.seq.epoch
    ++ le 8 (now s) ++ le 4 run ++ le 4 missing ++ le 8 moved ++ fit 8 result

/-- An entry of a run posted to the graph's completion ring, from its reservation (R171, R340). -/
def postRunEntry (slot type : Nat) (status : BitVec 16) (task list missing moved : Nat) (s : State) : State :=
  match graphAt s slot with
  | none => s
  | some g =>
    let number := match g.run with | some r => r.number | none => g.runs
    let e := completionEntry s type status 0 g.id.toNat task list number missing moved []
    match g.run with
    | some r =>
      if 0 < r.reserved then
        ringPushReserved g.compRing e (modGraph slot (fun g => { g with run := g.run.map (fun r => { r with reserved := r.reserved - 1 }) }) s)
      else ringPush g.compRing e s
    | none => ringPush g.compRing e s

/-- A run-completion entry of a run that never started (R190, R229, R322). -/
def postNoRun (slot : Nat) (status : BitVec 16) (s : State) : State := postRunEntry slot 0x42 status 0 0 0 0 s

/-! ### Ledger batches (R212, R213) -/

/-- The open batch of ring `i` closes, if it holds a record: it waits to be signed (R212). -/
def closeBatch (i : Nat) (s : State) : State :=
  let r := ringOf s i
  if r.batch.isEmpty then s
  else setRing i { r with closed := r.closed ++ [(r.batchFirst, r.batchGap, s.msc.ledgerSlot, r.batch)], batch := [], batchGap := false } s

/-- The completion of a run that tags into ring `i` closes its batch, behind the copies that still wait for the MSC (R212, R213). -/
def runCloses (i : Nat) (s : State) : State :=
  if s.msc.running then closeBatch i s
  else if ((s.msc.copies.filter (fun c => c.1 = i)).getLast?).any (fun c => c.2.isEmpty) then s
  else { s with msc := { s.msc with copies := s.msc.copies ++ [(i, [])] } }

/-! ### The tag (R203 to R211) -/

/-- The bytes of an operand's pieces that a weight region covers: offset in the operand and bytes. -/
def regionCover (ps : List (Nat × Nat × Nat)) (r : Region) : List (Nat × Nat) :=
  ps.flatMap (fun p => r.parts.filterMap (fun q =>
    let lo := max p.2.1 q.1
    let hi := min (p.2.1 + p.2.2) (q.1 + q.2)
    if lo < hi then some (p.1 + (lo - p.2.1), hi - lo) else none))

/-- The digest over the regions that a task's TD_B operand covers, in the order of the operand's addresses, and whether a stale one or a byte
outside every region is touched (R205). Regions that are not stale share no byte, so the operand is covered where the bytes add up to it. -/
def weightsDigest (s : State) (g : Graph) (t : Task) : List Byte × Bool :=
  if t.kind = kPassGroup ∨ t.kind = kLutGemv then
    let ps := pieces g t.b.toNat (extentB t)
    let rs := (s.regions.map (fun r => (r, regionCover ps r))).filter (fun x => !x.2.isEmpty)
    let from_ (x : Region × List (Nat × Nat)) : Nat := x.2.foldl (fun m c => min m c.1) (extentB t)
    let rs := sortBy (fun x y => decide (from_ x ≤ from_ y)) rs
    if rs.any (fun x => x.1.stale) ∨ (rs.map (fun x => (x.2.map (fun c => c.2)).sum)).sum < extentB t then (zeros 32, true)
    else (le 32 (Config.shake256 (rs.flatMap (fun x => x.1.digest))).toNat, false)
  else (zeros 32, false)

/-- Tasks upstream of task `t`, itself included (R208, R465): one pass over the order list from its end reaches every producer. -/
def upstream (g : Graph) (t : Nat) : List Nat :=
  g.order.reverse.foldl (fun acc u => if acc.contains u then acc ++ (g.edges.filterMap (fun e => if e.2 = u ∧ ¬ acc.contains e.1 then some e.1 else none)) else acc) [t]

/-- The task ID of R208. -/
def taskId (g : Graph) (run t : Nat) : DWord :=
  let running := (upstream g t).any (fun u => spTarget (taskAt g u) != 0 && spRunning (taskAt g u))
  BitVec.ofNat 64 ((if running then run else 0) * 2 ^ 32 + g.index * 2 ^ 16 + t)

/-- The list of a TRANSFER as the page in force holds it, read when that page was built (R466); none where it could not be read. -/
def listBytes (s : State) (g : Graph) (t : Nat) : Option (List Byte) :=
  (s.seq.page.lists.find? (fun l => l.1 = g.slot ∧ l.2.1 = t)).bind (fun l => l.2.2)

/-- The bytes of a task's result extent as written (R209): those of a list's destinations in list order. -/
def resultBytes (s : State) (g : Graph) (i : Nat) : List Byte :=
  let t := taskAt g i
  if t.kind = kTransfer ∧ tdList t then
    (listEntries t.d0.toNat ((listBytes s g i).getD [])).flatMap (fun e => taskBytes s g e.2.1 e.2.2)
  else taskBytes s g t.res.toNat (extentRes s t)

/-- The bytes that a task reads, TD_A then TD_B but for the weight operand (R206): a LANE_IN task's are the units as it has written them, and
a TRANSFER's are noted entry by entry as it moves them. -/
def inputBytes (s : State) (g : Graph) (i : Nat) : List Byte :=
  let t := taskAt g i
  if t.kind = kTransfer then []
  else if t.kind = kLaneIn then taskBytes s g t.res.toNat (extentRes s t)
  else
    taskBytes s g t.a.toNat (extentA s t)
      ++ (if t.kind = kPassGroup ∨ t.kind = kLutGemv then [] else taskBytes s g t.b.toNat (extentB t))

/-- Bytes that tagged task `t` reads, after those noted for it (R206). -/
def addInput (slot t : Nat) (bs : List Byte) (s : State) : State :=
  modGraph slot (fun g =>
    if tdTag (taskAt g t) then
      { g with run := g.run.map (fun r => { r with inputs := insertKey t ((assoc t r.inputs).getD [] ++ bs) r.inputs }) }
    else g) s

/-- The inputs of a task noted as its first entry acts, before it writes a result that may lie over them (R206). -/
def noteInputs (slot t : Nat) (s : State) : State :=
  match graphAt s slot with
  | none => s
  | some g =>
    match g.run.bind (fun r => assoc t r.inputs) with
    | some _ => s
    | none => addInput slot t (inputBytes s g t) s

/-- What the digest unit hashes of a task that completes (R203 to R210); `inputs` are the bytes of R206. The seeds are those of the image as
it was read at admission (R163, R207). -/
def tagPrep (s : State) (g : Graph) (run t : Nat) (inputs : List Byte) : TagPrep :=
  let w := weightsDigest s g (taskAt g t)
  let res := resultBytes s g t
  let id := taskId g run t
  let seeds := fit 32 (g.header.drop Config.seedOffset)
  let pre := fit 32 g.digest ++ w.1 ++ le 32 (Config.shake256 inputs).toNat ++ seeds
    ++ [BitVec.ofNat 8 g.edition, BitVec.ofNat 8 g.modules] ++ le 8 id.toNat
  { task := t, tag := le 32 (Config.shake256 pre).toNat, digest := le 32 (Config.shake256 res).toNat, len := res.length, id := id
    stale := w.2, compat := (upstream g t).any (fun u => spTarget (taskAt g u) != 0 && spRunning (taskAt g u)), time := now s }

/-! ### The end of a task and of a run -/

/-- The status of task `t` in the run in progress. -/
def endOf (g : Graph) (t : Nat) : Option (BitVec 16) := g.run.bind (fun r => (r.ends.getD t none))

/-- Task `t` of the graph in `slot` has its entries in the page in force (R175, R177). -/
def inPage (s : State) (slot t : Nat) : Bool := s.seq.page.tasks.contains (slot, t)

/-- The almanac executors issue entries: the module runs, no hold lasts, and the fallow slot has not begun (R5, R95, R176, R183). -/
def issues (s : State) : Bool := running s && !held s && !s.seq.fallow

/-- Task `t` may act: the almanac issues its entries, which the page in force has placed, a run is in progress, it has not ended, and every producer
completed with OK (R167, R177). -/
def taskReady (s : State) (slot t : Nat) : Bool :=
  match graphAt s slot with
  | none => false
  | some g =>
    issues s && inPage s slot t && g.run.isSome && decide (t < g.tasks.length) && (endOf g t).isNone
      && g.edges.all (fun e => e.2 != t || endOf g e.1 == some Status.ok)

/-- The end of a task recorded, with its completion entry (R340, R465): a TRANSFER with COMPLETION_EACH posts its list entries itself. -/
def recordEnd (slot t : Nat) (status : BitVec 16) (missing moved : Nat) (s : State) : State :=
  match graphAt s slot with
  | none => s
  | some g =>
    let x := taskAt g t
    let s := modGraph slot (fun g => { g with run := g.run.map (fun r => { r with ends := update r.ends t (fun _ => some status) }) }) s
    -- units of a LANE_OUT that did not complete are never written
    let s := if x.kind = kLaneOut ∧ status ≠ Status.ok then
        { s with tsl := { s.tsl with lanes := update s.tsl.lanes x.lane.toNat (fun l => { l with out := l.out.filter (fun u => u.data.isSome) }) } }
      else s
    if tdCompletion x && !(tdEach x && x.kind == kTransfer && tdList x) then postRunEntry slot 0x43 status t 0 missing moved s else s

/-- The end of a task that has run none of its list entries: a TRANSFER with COMPLETION_EACH posts one entry for each of them (R465, R466). -/
def recordNotRun (slot t : Nat) (status : BitVec 16) (missing moved : Nat) (s : State) : State :=
  match graphAt s slot with
  | none => s
  | some g =>
    let x := taskAt g t
    let s := recordEnd slot t status missing moved s
    if tdEach x && x.kind == kTransfer && tdList x then
      each (List.range x.d0.toNat) (fun i s => postRunEntry slot 0x44 status t i 0 0 s) s
    else s

/-- Tasks that do not run, because a task upstream ended with a status other than OK (R465), each as soon as all its producers ended. -/
def settle (slot : Nat) (s : State) : State :=
  match graphAt s slot with
  | none => s
  | some g =>
    each g.order (fun t s =>
      match graphAt s slot with
      | none => s
      | some g =>
        let ps := g.edges.filterMap (fun e => if e.2 = t then some e.1 else none)
        if (endOf g t).isNone && ps.all (fun p => (endOf g p).isSome) && ps.any (fun p => endOf g p != some Status.ok) then
          let up := upstream g t
          let bad := g.order.find? (fun u => up.contains u && u != t && (endOf g u).isSome && endOf g u != some Status.ok)
          recordNotRun slot t ((bad.bind (endOf g)).getD Status.ok) 0 0 s
        else s) s

/-- A graph leaves residence (R225, R391): its slot, units, registers and substitutions are free, and the last one leaves the module IDLE. -/
def leaveResidence (slot : Nat) (s : State) : State :=
  let s := { s with
    seq := { s.seq with graphs := s.seq.graphs.filter (fun g => g.slot ≠ slot) }
    squ := { s.squ with regs := s.squ.regs.map (fun r => if r.slot = slot then { r with used := false, hist := [] } else r) }
    lge := { s.lge with banks := s.lge.banks.map (fun b => if b.slot = slot then {} else b) } }
  if s.seq.graphs.isEmpty ∧ s.msc.mode = .active then
    raise .msc 0 {} { s with msc := { s.msc with prev := .active, mode := .idle, modeAt := now s } }
  else s

/-- A run whose tasks have all ended, with every tag record written, completes: its entry, its batch, and a release that waited for it
(R162, R212, R323, R340). -/
def finishRun (slot : Nat) (s : State) : State :=
  match graphAt s slot with
  | none => s
  | some g =>
    match g.run with
    | none => s
    | some r =>
      if r.ends.all Option.isSome && r.tagWait.isEmpty then
        let bad := g.order.find? (fun t => endOf g t != some Status.ok)
        let s := postRunEntry slot 0x42 ((bad.bind (endOf g)).getD Status.ok) 0 0 0 0 s
        let left := match graphAt s slot with | some g => (match g.run with | some r => r.reserved | none => 0) | none => 0
        let s := modRing g.compRing (fun q => { q with reserved := q.reserved - left }) s
        let s := if r.tags = 0 then s else modRing g.ledgerRing (fun q => { q with reserved := q.reserved - r.tags }) s
        let s := if g.tasks.any tdTag then runCloses g.ledgerRing s else s
        let s := modGraph slot (fun g => { g with run := none }) s
        let s := { s with psr := { s.psr with accs := s.psr.accs.filter (fun a => a.slot ≠ slot) }
                          xl := { s.xl with outlier := s.xl.outlier.filter (fun o => o.1 ≠ slot) } }
        if g.releasing then leaveResidence slot s else s
      else s

/-- What the engines hold of a task that has ended: its passes in flight, its replays, its accumulators and its outlier sums. -/
def dropWork (slot t : Nat) (s : State) : State :=
  let keep (f : Flight) : Bool := !(f.slot == slot && f.task == t)
  { s with
    psr := { s.psr with
      flights := s.psr.flights.filter keep, optWait := s.psr.optWait.filter keep
      queue0 := s.psr.queue0.filter keep, queue1 := s.psr.queue1.filter keep
      accs := s.psr.accs.filter (fun a => !(a.slot == slot && a.task == t)) }
    xl := { s.xl with outlier := s.xl.outlier.filter (fun o => !(o.1 == slot && o.2.1 == t)) } }

/-- Task `t` ends with a status (R340, R465): its end recorded by `record`, its digests taken if it is tagged and completed, its dependents
settled, and the run finished when nothing is left. A task that has ended does not end again. -/
def endWith (record : State → State) (slot t : Nat) (status : BitVec 16) (s : State) : State :=
  match graphAt s slot with
  | none => s
  | some g =>
    match g.run with
    | none => s
    | some _ =>
      if (endOf g t).isSome then s
      else
        let x := taskAt g t
        let s :=
          if status = Status.ok ∧ tdTag x then
            modGraph slot (fun g => { g with run := g.run.map (fun r =>
              { r with tagWait := r.tagWait ++ [tagPrep s g r.number t ((assoc t r.inputs).getD (inputBytes s g t))] }) }) s
          else s
        let s := dropWork slot t (record s)
        let s := { s with squ := { s.squ with regs := s.squ.regs.map (fun q => if q.slot = slot ∧ q.task = t ∧ q.hist = [] then { q with used := false } else q) } }
        finishRun slot (if status = Status.ok then s else settle slot s)

/-- The status of a task, or of a list entry, that wrote to reach `s`: HW_UNIT_FAULT where the egress buffer was full, which is reported
(R347). -/
def egressOutcome (status : BitVec 16) (s : State) : BitVec 16 × State :=
  if s.hif.egressFull then (Status.hwUnitFault, raise .hif 2 {} { s with hif := { s.hif with egressFull := false } }) else (status, s)

/-- Task `t` ends; a TRANSFER with LIST that ends so has run none of its entries. -/
def taskEnd (slot t : Nat) (status : BitVec 16) (missing moved : Nat) (s : State) : State :=
  let e := egressOutcome status s
  endWith (recordNotRun slot t e.1 missing moved) slot t e.1 e.2

/-- A TRANSFER with LIST ends after its entries, each of which has posted its own (R466). -/
def listEnd (slot t : Nat) (status : BitVec 16) (moved : Nat) (s : State) : State :=
  endWith (recordEnd slot t status 0 moved) slot t status s

/-- Every task of the run in progress that has not ended ends with `status` (R322, R402). -/
def endAllTasks (slot : Nat) (status : BitVec 16) (s : State) : State :=
  match graphAt s slot with
  | none => s
  | some g => each g.order (fun t s => taskEnd slot t status 0 0 s) s

end Sys2Proof.Machine
end

