-- ==== Sys2Proof/Machine/Passes.lean ====
section
/-! DEFINITION. Stall passes: drive, slicer words, reconstruction, replay and replay holds (R58 to R63, R82 to R96, R100, R148, R186). -/

namespace Sys2Proof.Machine

/-! ### Accumulators and die faults -/

/-- A die fault is counted for an electronic die, false E0 (R403). -/
def dieFault (die : Bool) (i : EvInfo) (s : State) : State :=
  raise .msc 6 { i with unit := some (bool die) } { s with msc := { s.msc with dieFaults := (bool die, s.seq.epoch) :: s.msc.dieFaults } }

/-- The accumulator of an output of a vector of a task (R87). -/
def accOf (s : State) (slot task vec out : Nat) : Option Acc :=
  s.psr.accs.find? (fun a => a.slot = slot ∧ a.task = task ∧ a.vec = vec ∧ a.out = out)

/-- The value lies in a signed 32-bit range (R22). -/
def inRange32 (v : Int) : Bool := decide (-2147483648 ≤ v) && decide (v ≤ 2147483647)

/-- Value `v` of `chunks` chunks added to an accumulator; an addition that would leave 32-bit range is not made (R87, R88). -/
def accAdd (slot task vec out : Nat) (v : Int) (chunks : Nat) (accs : List Acc) : Option (List Acc) :=
  match accs with
  | [] => if inRange32 v then some [{ slot := slot, task := task, vec := vec, out := out, value := v, chunks := chunks }] else none
  | a :: r =>
    if a.slot = slot ∧ a.task = task ∧ a.vec = vec ∧ a.out = out then
      if inRange32 (a.value + v) then some ({ a with value := a.value + v, chunks := a.chunks + chunks } :: r) else none
    else (accAdd slot task vec out v chunks r).map (fun r => a :: r)

/-- A chunk sum enters its accumulator; a fault ends the task with HW_ACCUM_FAULT and counts for the die (R88, R146). -/
def accept (src : Src) (bit : Nat) (die : Bool) (slot task vec out : Nat) (v : Int) (chunks : Nat) (s : State) : State :=
  let ended := match graphAt s slot with | some g => g.run.isNone || (endOf g task).isSome | none => true
  if ended then s else
  match accAdd slot task vec out v chunks s.psr.accs with
  | some accs => { s with psr := { s.psr with accs := accs } }
  | none =>
    let i : EvInfo := { graph := some slot, task := task, status := Status.hwAccumFault }
    taskEnd slot task Status.hwAccumFault 0 0 (dieFault die i (raise src bit i s))

/-! ### Driving a pass -/

/-- The stall passes counted for PSR_RATE (R100). -/
def countPasses (n : Nat) (s : State) : State :=
  { s with psr := { s.psr with cur := { s.psr.cur with passes := s.psr.cur.passes + n } } }

/-- The stall passes counted as replayed for PSR_RATE (R100): each once, optical or electronic. -/
def countReplayed (n : Nat) (s : State) : State :=
  { s with psr := { s.psr with cur := { s.psr.cur with replayed := s.psr.cur.replayed + n } } }

/-- The word a row's slicer sends for a plane: the ideal level, unless the entry names another word (R61, R63). -/
def slicerWord (dev : List SlicerDev) (l row plane m level : Nat) : Word :=
  match dev.find? (fun d => d.stall = l ∧ d.row = row ∧ d.plane = plane) with
  | some d => d.word
  | none => if level < m then thermo level else 0

/-- Per output of a pass: output, stall and place (32 l + place), its rows as (stall, row, channel), in channel order. A joined output stands at the
first stall listed with a row of it (log 77), and only where the stalls hold all of its rows. -/
def passOutputs (m : MSet) (stalls : List (Nat × Tile)) : List (Nat × Nat × List (Nat × Nat × Nat)) :=
  let rows := stalls.flatMap (fun q => (tileRows m q.2).map (fun r => (q.1, r)))
  let own := stalls.flatMap (fun q => (List.range q.2.outCount).map (fun j => (q.2.outBase + j, 32 * q.1 + j)))
  let joined := (stalls.flatMap (fun q => (joinedRows m q.2).map (fun r => (r.2.1, 32 * q.1 + 31)))).foldl
    (fun acc o => if acc.any (fun p => p.1 = o.1) then acc else acc ++ [o]) []
  ((own ++ joined).map (fun o =>
    (o.1, o.2, ((List.range (setChannels m)).filterMap (fun c =>
      (rows.find? (fun r => r.2.2.1 = o.1 ∧ r.2.2.2.1 = c)).map (fun r => (r.1, r.2.1, c))))))).filter
    (fun o => o.2.2.length = setChannels m)

/-- Replay work cycles k = ceil(b n / 16) of a pass (R91). -/
def replayCycles (b n : Nat) : Nat := (b * n + 15) / 16

/-- The words that the slicers of a flight's stalls send as its vector is driven, output by output, with the weight bounds of each (R58 to R62,
R80, R82): the activation codes are read from staging SRAM, the weights act from the front holds. -/
def driveWords (s : State) (g : Graph) (dev : List SlicerDev) (f : Flight) : Flight :=
  let t := taskAt g f.task
  let acts := chunkActs s g t f.vec ((f.stalls.head?.map (fun q => q.2.chunk)).getD 0)
  let hold (l : Nat) : Hold := match servedBy s l with | some ph => (stallAt s ph).front | none => {}
  let outs := (passOutputs f.mset f.stalls).map (fun o =>
    let words := o.2.2.map (fun r =>
      let md := (setModuli f.mset).getD r.2.2 1
      (List.range (wfmtActBits f.fmt)).map (fun pl =>
        slicerWord dev r.1 r.2.1 pl md (idealLevel md pl acts ((hold r.1).weights.getD r.2.1 []))))
    let bd := match o.2.2.head? with | some r => (hold r.1).bounds.getD r.2.1 (0, 0) | none => (0, 0)
    (o.1, o.2.1, bd, words))
  { f with outs := outs }

/-- A pass as the almanac schedules it (R58): its vector, its set and integration, and its replay deadline (R94). -/
def makeFlight (s : State) (g : Graph) (slot task vec : Nat) (pl : MSet × Nat) (stalls : List (Nat × Tile)) : Flight :=
  let fmt := tdWfmt (taskAt g task)
  { stalls := stalls, slot := slot, task := task, vec := vec, mset := pl.1, fmt := fmt, n := pl.2
    want := (passOutputs pl.1 stalls).map (fun o => o.1)
    deadline := s.seq.work + 64 * replayCycles (wfmtActBits fmt) pl.2 + 32 }

/-- A replay is asked for (R91, R96): optical where reserve work cycles of the epoch's span are left for it (`reserve`) and its tile stays in
front, or for a withheld pass may come to it, in the order of the original vectors; else electronic. -/
def requestReplay (reserve : Bool) (f : Flight) (s : State) : State :=
  if s.psr.optEn && reserve && !s.seq.fallow && (f.withheld || flightInFront s f) then
    { s with psr := { s.psr with optWait := insertBy (fun a b => decide (a.deadline < b.deadline)) f s.psr.optWait } }
  else queueReplay f s

/-- The sum that the tables of a substituted tile give for an output (R148). -/
def tableSum (x : SubstTile) (acts : List Nat) (o : Nat) : Int :=
  (((assoc o x.tables).getD []).zip acts).foldl (fun v q => v + q.1.getD q.2 0) 0

/-- The LGE has the tables of tile `t` for the logical stall `l` before a pass of it runs: where the store lacks them, they are built in a substitution
hold (R149). -/
def withTables (m : MSet) (l : Nat) (t : Tile) (s : State) : State :=
  match substOf s l with
  | none => s
  | some x =>
    if x.front.map (fun f => f.tile) = some t then s
    else beginSubstHold l (modSubst l (fun x => { x with front := some (buildTables s m t) }) s)

/-- The pass of one substituted stall, for the outputs `os` that no pass before it has taken (R71, R148): its sums on the LGE enter the accumulators,
or the pass goes to the replay unit. -/
def substitutedPass (f : Flight) (acts : List Nat) (short : Bool) (l : Nat) (t : Tile) (os : List Nat) (s : State) : State :=
  match substOf s l with
  | none => s
  | some x =>
    if x.onLge then
      let s := withTables f.mset l t (if short then beginSubstHold l s else s)
      let tab := ((substOf s l).bind (fun x => x.front)).getD {}
      let s := { s with lge := { s.lge with cur := { s.lge.cur with passes := s.lge.cur.passes + 1, lookups := s.lge.cur.lookups + 64 * os.length } } }
      each os (fun o s => accept .lge 2 (dieOfLogical l) f.slot f.task f.vec o (tableSum tab acts o) 1 s) s
    else queueOne (dieOfLogical l) { f with stalls := [(l, t)], want := os } s

/-- The passes of substituted stalls: every output with a row on them is computed in full, once (R148). -/
def substitutedPasses (f : Flight) (acts : List Nat) (short : Bool) : List (Nat × Tile) → List Nat → State → State
  | [], _, s => s
  | q :: r, done, s =>
    let os := (tileOutputs f.mset q.2).filter (fun o => !done.contains o)
    substitutedPasses f acts short r (done ++ os) (substitutedPass f acts short q.1 q.2 os s)

/-- One stall of a pass, alone or with its drive group: substituted, withheld (R46, R51), or driven. One stall that cannot be driven withholds the pass
of every member of its group (log 78). -/
def drivePass (g : Graph) (slot : Nat) (p : PassEntry) (s : State) : State :=
  let t0 := ((p.stalls.head?.map (fun q => q.2)).getD {})
  let pl := planOf s slot t0.task (tdWfmt (taskAt g t0.task))
  let subs := p.stalls.filter (fun q => (substOf s q.1).isSome)
  let rest := p.stalls.filter (fun q => (substOf s q.1).isNone)
  let s := { s with
    psr := { s.psr with soft := s.psr.soft ++ p.soft.map (fun q => (rowModulus pl.1 ((assoc q.stall p.stalls).getD {}) q.row, pl.2, q)) }
    seq := { s.seq with ran := if s.seq.ran.contains (slot, t0.task) then s.seq.ran else (slot, t0.task) :: s.seq.ran } }
  let f := makeFlight s g slot t0.task p.vec pl rest
  let s := substitutedPasses f (chunkActs s g (taskAt g t0.task) p.vec t0.chunk) p.short subs [] s
  if rest.isEmpty then s
  else
    let s := countPasses rest.length s
    if flightInFront s f then { s with psr := { s.psr with flights := s.psr.flights ++ [driveWords s g p.dev f] } }
    else requestReplay p.reserve { f with replay := true, withheld := true } (countReplayed rest.length s)

/-- PASS (R58): one vector driven through one stall or a drive group, for a pass group of a run in progress (R137). -/
def execPass (p : PassEntry) (s : State) : Out :=
  match p.stalls with
  | [] => .next s
  | (_, t) :: _ =>
    match graphAt s t.slot with
    | none => .next s
    | some g =>
      if taskReady s t.slot t.task && decide ((taskAt g t.task).kind = kPassGroup) then
        .next (drivePass g t.slot p (noteInputs t.slot t.task s))
      else .next s

/-- RAMP_FILL (R90, R186, R187): a fixed pattern is driven through the front holds of `l` for the length of its almanac entry; the slicer words are
discarded and nothing is replayed. In the fallow slot a work cycle of it is counted with the readings. -/
def execRampFill (l : Nat) (s : State) : Out :=
  if !running s ∨ held s ∨ (servedBy s l).isNone then .next s
  else
    let n := ((s.seq.page.entries.find? (fun e => decide (e.op = 4) && decide (e.unit = l)
      && decide (e.start ≤ epochWork s) && decide (epochWork s < e.start + e.len))).map (fun e => e.len)).getD 1
    .next { s with seq := { s.seq with fill := update s.seq.fill (l / 32) (fun k => k + 16 * n) } }

/-! ### Reconstruction -/

/-- qa of a flight's activations (R79). -/
def flightQa (f : Flight) : Nat := 2 ^ wfmtActBits f.fmt - 1

/-- Reconstruction of each output of a flight (R84): none where a word is a slice fault. -/
def flightRecon (f : Flight) : List (Nat × Nat × Option Recon) :=
  f.outs.map (fun o => (o.1, o.2.1, reconstructWords f.mset o.2.2.2 (flightQa f) o.2.2.1.1 o.2.2.1.2))

/-- An output's reconstruction is accepted (R85). -/
def reconOk : Option Recon → Bool
  | some r => !r.tally && !r.range
  | none => false

/-- The failures of one output. -/
def reconFail : Option Recon → PassFail
  | none => { slice := true }
  | some r => { tally := r.tally, range := r.range }

/-- The cause code PSR_LAST_FAIL shows: the highest of those that coincide (R103). -/
def failCause (f : PassFail) : Nat := if f.slice then 3 else if f.range then 2 else if f.tally then 1 else 0

/-- The failures of a stall pass counted and shown (R85, R103): each cause once for a stall pass, `was` being those counted for it before. -/
def countFail (f : Flight) (l place : Nat) (was now : PassFail) (s : State) : State :=
  let phys := (servedBy s l).getD 0x3FF
  let c := s.psr.cur
  let one (a b : Bool) : Nat := bool (a && !b)
  let c := { c with tally := c.tally + one now.tally was.tally, range := c.range + one now.range was.range
                    slice := c.slice + one now.slice was.slice }
  let s := { s with psr := { s.psr with cur := c, lastFail := { cause := failCause now, output := place, phys := phys, logical := l } } }
  let i : EvInfo := { graph := some f.slot, task := f.task, unit := some phys, logical := l }
  let s := if now.tally then raise .psr 0 i s else s
  let s := if now.range then raise .psr 1 i s else s
  if now.slice then raise .psr 2 i s else s

/-- The failures of the outputs of stall pass `l` among `bad`, together. -/
def stallFail (bad : List (Nat × Nat × Option Recon)) (l : Nat) : PassFail :=
  (bad.filter (fun r => r.2.1 / 32 = l)).foldl (fun (a : PassFail) r =>
    let b := reconFail r.2.2
    { slice := a.slice || b.slice, tally := a.tally || b.tally, range := a.range || b.range }) {}

/-- The output that PSR_LF_OUTPUT names for stall pass `l`: the first failing one with the highest cause (log 79). -/
def namedOutput (bad : List (Nat × Nat × Option Recon)) (l : Nat) : Nat :=
  let mine := bad.filter (fun r => r.2.1 / 32 = l)
  let top := failCause (stallFail bad l)
  ((mine.find? (fun r => failCause (reconFail r.2.2) = top)).map (fun r => r.2.1 % 32)).getD 0

/-- The stall passes with a failing output, each counted once (R85). -/
def countFails (f : Flight) (bad : List (Nat × Nat × Option Recon)) (s : State) : State :=
  each (f.stalls.filter (fun q => bad.any (fun r => r.2.1 / 32 = q.1))) (fun q s =>
    countFail f q.1 (namedOutput bad q.1) ((assoc q.1 f.counted).getD {}) (stallFail bad q.1) s) s

/-- The causes counted for a flight's stall passes, with those of `bad`. -/
def countedWith (f : Flight) (bad : List (Nat × Nat × Option Recon)) : List (Nat × PassFail) :=
  f.stalls.map (fun q =>
    let a := (assoc q.1 f.counted).getD {}
    let b := stallFail bad q.1
    (q.1, { slice := a.slice || b.slice, tally := a.tally || b.tally, range := a.range || b.range }))

/-- The chunk sums of outputs of a flight enter their accumulators (R87, R88). -/
def acceptAll (f : Flight) (rs : List (Nat × Nat × Option Recon)) (s : State) : State :=
  each rs (fun r s =>
    accept .psr 7 (dieOfLogical ((f.stalls.map (fun q => q.1)).headD 0)) f.slot f.task f.vec r.1 ((r.2.2.map (fun x => x.value)).getD 0) 1 s) s

/-- The replays of a stall pass that failed for outputs `bad` (R89): of the whole drive group where a joined output failed, else of each stall pass
with a failing output by itself. -/
def replaysOf (f : Flight) (bad : List (Nat × Nat × Option Recon)) : List Flight :=
  let g := { f with replay := true, outs := [], want := bad.map (fun r => r.1), counted := countedWith f bad }
  if bad.any (fun r => r.2.1 % 32 = 31) then [g]
  else (f.stalls.filter (fun q => bad.any (fun r => r.2.1 / 32 = q.1))).map (fun q =>
    { g with stalls := [q], want := (bad.filter (fun r => r.2.1 / 32 = q.1)).map (fun r => r.1) })

/-- An optical replay has failed a check of R85 on some output (R93): PSR_REPLAY_FAIL, SUSPECT for the stalls with a failing output, or for the whole
drive group where a joined output failed (log 80), and the stall pass goes to the replay unit. -/
def replayFailed (f : Flight) (bad : List (Nat × Nat × Option Recon)) (s : State) : State :=
  let joined := bad.any (fun r => r.2.1 % 32 = 31)
  let stalls := (f.stalls.map (fun q => q.1)).filter (fun l => joined || bad.any (fun r => r.2.1 / 32 = l))
  let l := stalls.headD 0
  let s := { s with psr := { s.psr with lastFail := { s.psr.lastFail with cause := 4 } } }
  let s := raise .psr 3 { graph := some f.slot, task := f.task, unit := some ((servedBy s l).getD 0x3FF), logical := l } s
  let s := each stalls (fun l s => match servedBy s l with | some g => enterSuspect g s | none => s) s
  queueReplay { f with outs := [], counted := countedWith f bad } s

/-- CHUNK_RECONSTRUCTION (R84, R85, R88 to R93) of the oldest pass in flight: accepted sums enter the accumulators; a stall pass with failing outputs
is replayed once, optically if the reserve allows (`reserve`, R91), else on the replay unit. -/
def execChunkReconstruction (reserve : Bool) (s : State) : Out :=
  match s.psr.flights with
  | [] => .next s
  | f :: rest =>
    let s := { s with psr := { s.psr with flights := rest } }
    let rs := flightRecon f
    let bad := rs.filter (fun r => !reconOk r.2.2)
    if bad.isEmpty then .next (acceptAll f (rs.filter (fun r => f.want.contains r.1)) s)
    else if f.replay then .next (replayFailed f bad (countFails f bad s))
    else
      let s := countFails f bad (acceptAll f (rs.filter (fun r => reconOk r.2.2)) s)
      .next (each (replaysOf f bad) (fun r s => requestReplay reserve r (countReplayed r.stalls.length s)) s)

/-- OPTICAL_REPLAY (R91): the first waiting replay is driven again in its reserve work cycles, if its tile is in front; else it runs on the replay
unit. -/
def execOpticalReplay (dev : List SlicerDev) (s : State) : Out :=
  if !running s ∨ held s ∨ s.seq.fallow then .next s else
  match s.psr.optWait with
  | [] => .next s
  | f :: rest =>
    let s := { s with psr := { s.psr with optWait := rest } }
    match graphAt s f.slot with
    | none => .next s
    | some g =>
      if flightInFront s f then
        .next { s with psr := { s.psr with flights := driveWords s g dev { f with withheld := false } :: s.psr.flights
                                           cur := { s.psr.cur with opt := s.psr.cur.opt + f.stalls.length } } }
      else .next (queueReplay f s)

/-- The chunk sums of a stall pass as the replay unit computes them from the codes in staging SRAM (R92). -/
def unitSums (s : State) (f : Flight) : List (Nat × Int) :=
  match graphAt s f.slot with
  | none => []
  | some g =>
    let t := taskAt g f.task
    let c := (f.stalls.head?.map (fun q => q.2.chunk)).getD 0
    f.want.map (fun o => (o, exactSum (chunkActs s g t f.vec c) (chunkWeights s g t o c)))

/-- ELECTRONIC_REPLAY (R92): the replay unit of a die serves its first stall pass; the sums enter 8 work cycles (4 ns) later. -/
def execElectronicReplay (die : Bool) (s : State) : Out :=
  match (if die then s.psr.queue1 else s.psr.queue0) with
  | [] => .next s
  | f :: rest =>
    let s := if die then { s with psr := { s.psr with queue1 := rest } } else { s with psr := { s.psr with queue0 := rest } }
    let s := elapse 4 s
    -- a pass of a substituted stall is no replay (R100, R148)
    let n := if f.replay then f.stalls.length else 0
    let s := { s with psr := { s.psr with cur := { s.psr.cur with elec := s.psr.cur.elec + n } } }
    .next (each (unitSums s f) (fun e s => accept .psr 7 die f.slot f.task f.vec e.1 e.2 1 s) s)

/-! ### Replay holds (R95) -/

/-- The replays whose sums have not entered: waiting, queued, or back in flight. -/
def replaysPending (s : State) : List Flight :=
  s.psr.optWait ++ s.psr.queue0 ++ s.psr.queue1 ++ s.psr.flights.filter (fun f => f.replay)

/-- REPLAY_DEADLINE (R95): the earliest deadline, in work cycles, passes with its sums missing, and a replay hold begins. No work cycle passes in a
hold. -/
def execReplayDeadline (s : State) : Out :=
  match sortBy (fun a b => decide (a.deadline ≤ b.deadline)) (replaysPending s) with
  | [] => .next s
  | f :: _ =>
    if !running s ∨ held s then .next s
    else
      let s := advanceTo (timeOfWork f.deadline s) s
      let l := (f.stalls.map (fun q => q.1)).headD 0
      let s := { s with seq := { s.seq with replayHold := some (now s) } }
      .next (raise .psr 4 { graph := some f.slot, task := f.task, unit := servedBy s l, logical := l } s)

/-- REPLAY_HOLD_END (R95): once no replay past its deadline is left, the almanac resumes and the hold's length is counted, in work-clock
periods of 0.5 ns. -/
def execReplayHoldEnd (s : State) : Out :=
  match s.seq.replayHold with
  | none => .next s
  | some t =>
    if (replaysPending s).any (fun f => decide (f.deadline ≤ s.seq.work)) then .next s
    else .next { s with seq := { s.seq with replayHold := none }
                        psr := { s.psr with cur := { s.psr.cur with hold := s.psr.cur.hold + 2 * (now s - t) } } }

/-- SUBSTITUTION_HOLD_END (R148): the substituted passes have caught up. -/
def execSubstitutionHoldEnd (s : State) : Out :=
  match s.seq.substHold with
  | none => .next s
  | some t =>
    .next { s with seq := { s.seq with substHold := none }
                   lge := { s.lge with cur := { s.lge.cur with cycles := s.lge.cur.cycles + 2 * (now s - t) } } }

end Sys2Proof.Machine
end

