-- ==== Sys2Proof/Machine/Squ.lean ====
section
/-! DEFINITION. The scale and quantisation unit: gathering, scale records, conversion, rescale, and the almanac entries LGE and SQU
(R104 to R136, R138 to R147). -/

namespace Sys2Proof.Machine

/-! ### Memory that an entry needs (R227, R232) -/

/-- The status with which a byte of a task's operand ends it: a stack or tier that does not serve, a package that has failed (R232), or a
host window that is no longer there (R352). -/
def byteStatus (s : State) (g : Graph) (a : Nat) (write : Bool) : BitVec 16 :=
  match physical g a with
  | none => Status.ok
  | some p =>
    match place s p write with
    | .failing => Status.hwStackFailed
    | .outOfService => if p < hbmEnd then Status.hwStackFailed else Status.hwLpddrFailed
    | .unmapped => if windowBase ≤ p then Status.hwUnitFault else Status.ok
    | .device k => if s.lms.failing ∧ lpddrBase ≤ k ∧ k < lpddrEnd then Status.hwLpddrFailed else Status.ok
    | _ => Status.ok

/-- The status of the first byte of a range that does not serve. -/
def rangeStatus (s : State) (g : Graph) (a : Nat) (write : Bool) : Nat → BitVec 16
  | 0 => Status.ok
  | n + 1 =>
    let st := byteStatus s g a write
    if st = Status.ok then rangeStatus s g (a + 1) write n else st

/-- The status of the first of a task's operands that does not serve. -/
def operandStatus (s : State) (g : Graph) (t : Task) : BitVec 16 :=
  let a := rangeStatus s g t.a.toNat false (extentA s t)
  if a ≠ Status.ok then a
  else
    let b := rangeStatus s g t.b.toNat false (extentB t)
    if b ≠ Status.ok then b else rangeStatus s g t.res.toNat true (extentRes s t)

/-! ### Events of the SQU (R135) -/

/-- What a conversion meets: saturations, underused steps, constant channels with c other than 0, non-finite values. -/
structure SquTally where
  sat : Nat := 0
  under : Nat := 0
  constCh : Nat := 0
  nonfin : Nat := 0
deriving DecidableEq, Repr

/-- The tally counted and shown: the highest cause of those that coincide (R135). -/
def squNote (slot task : Nat) (t : SquTally) (s : State) : State :=
  let cause := if 0 < t.nonfin then 4 else if 0 < t.constCh then 3 else if 0 < t.under then 2 else if 0 < t.sat then 1 else 0
  if cause = 0 then s
  else
    let c := s.squ.cur
    let c := { c with sat := c.sat + t.sat, under := c.under + t.under, constCh := c.constCh + t.constCh, nonfin := c.nonfin + t.nonfin }
    let s := { s with squ := { s.squ with cur := c, last := { cause := cause, graph := slot, task := task } } }
    let i : EvInfo := { graph := some slot, task := task }
    let s := if 0 < t.sat then raise .squ 0 i s else s
    let s := if 0 < t.under then raise .squ 1 i s else s
    let s := if 0 < t.constCh then raise .squ 2 i s else s
    if 0 < t.nonfin then raise .squ 3 i s else s

/-! ### Gathering and records (R122 to R126) -/

/-- The range of a channel's finite values, and how many values were not finite (R122). -/
structure Gathered where
  lo : Option Word := none
  hi : Option Word := none
  nonfin : Nat := 0
deriving DecidableEq, Repr

/-- One value gathered. -/
def gatherOne (r : Gathered) (x : Word) : Gathered :=
  if fpFinite x then
    { r with lo := some (match r.lo with | some l => fpMin l x | none => x), hi := some (match r.hi with | some h => fpMax h x | none => x) }
  else { r with nonfin := r.nonfin + 1 }

/-- The values of a row outside the outlier columns. -/
def inliers (cols : List Nat) (xs : List Word) : List Word :=
  ((List.range xs.length).zip xs).filterMap (fun p => if cols.contains p.1 then none else some p.2)

/-- The harvest gatherer over a channel's rows (R122). -/
def gather (cols : List Nat) (rows : List (List Word)) : Gathered := rows.foldl (fun r xs => (inliers cols xs).foldl gatherOne r) {}

/-- The zero point of CENTRED (R109). -/
def centredZp (t : Nat) : Nat := 2 ^ (targetWidth t - 1)

/-- qmax of a target and mode: 0 UNSIGNED, 1 CENTRED, 2 AFFINE (R109, R110). -/
def targetMax (t mode : Nat) : Nat := if targetIsAct t ∧ mode = 1 then centredZp t - 1 else targetQ t

/-- `m / q` bounded below by the least scale (R123). -/
def scaleFor (m : Word) (q : Nat) : Word := fpMax (fpDiv m (fpOfInt q)) fpMinNormal

/-- The gathered m of R123. -/
def gatheredM (t mode : Nat) (lo hi : Word) : Word :=
  if targetIsAct t ∧ mode = 0 then fpMax hi 0
  else if targetIsAct t ∧ mode = 2 then fpSub (fpMax hi 0) (fpMin lo 0)
  else fpMax (fpAbs lo) (fpAbs hi)

/-- A constant channel's constant: none for a channel that is not constant; +0 for one with no finite value (R124). -/
def constantOf (r : Gathered) : Option Word :=
  match r.lo, r.hi with
  | some l, some h => if fpKey l = fpKey h then some (if fpIsZero l then 0 else l) else none
  | _, _ => some 0

/-- The record of a constant channel (R124, R139). -/
def constantRecord (t : Nat) (c : Word) : ScaleRec :=
  if fpIsZero c then {}
  else
    let sc := scaleFor (fpAbs c) (targetQ t)
    { scale := sc, inv := fpDiv fpOne sc, konst := c, zp := if targetIsAct t && fpNeg c then targetQ t else 0, constCh := true }

/-- The record of a harvested channel (R123, R124). -/
def harvestRecord (t mode : Nat) (r : Gathered) : ScaleRec :=
  match constantOf r with
  | some c => constantRecord t c
  | none =>
    let lo := r.lo.getD 0
    let hi := r.hi.getD 0
    let sc := scaleFor (gatheredM t mode lo hi) (targetMax t mode)
    let inv := fpDiv fpOne sc
    let zp :=
      if !targetIsAct t then 0
      else if mode = 1 then centredZp t
      else if mode = 2 then (clamp 0 (targetQ t) (fpToInt (fpMul (fpNegate (fpMin lo 0)) inv))).1.toNat
      else 0
    { scale := sc, inv := inv, zp := zp }

/-- The record of a running-maximum step (R126). -/
def runningRecord (t mode : Nat) (hist : List Word) : ScaleRec :=
  let h := hist.foldl fpMax 0
  let sc := scaleFor h (targetMax t mode)
  { scale := sc, inv := fpDiv fpOne sc, zp := if targetIsAct t ∧ mode = 1 then centredZp t else 0, compat := true }

/-- Steps 4 and 5 of R126: whether the step was underused, and the history after it. -/
def runningAfter (t mode k : Nat) (hist : List Word) (scale m : Word) : Bool × List Word :=
  if fpLess m (fpMul (fpMul scale (fpOfInt (targetMax t mode))) 0x3D800000) then (true, [m])
  else (false, (hist ++ [m]).drop (hist.length + 1 - k))

/-- A value of a constant channel (R124): its code's value, whether it saturates, whether it is not finite. -/
def constantCode (t : Nat) (r : ScaleRec) (c x : Word) : Int × Bool × Bool :=
  let q : Int := targetQ t
  let low : Int := if targetIsAct t then 0 else -q
  if fpIsNaN x then ((if targetIsAct t then (r.zp : Int) else 0), true, true)
  else if fpIsInf x then ((if fpNeg x then low else q), true, true)
  else if fpIsZero c then (0, false, false)
  else ((if fpNeg c then low else q), false, false)

/-- A converted row: code values, outlier codes, saturations, non-finite values. -/
structure ConvRow where
  codes : List Int := []
  outl : List Nat := []
  sats : Nat := 0
  nonfin : Nat := 0
deriving DecidableEq, Repr

/-- An outlier value in the outlier format: 1 FP8 E4M3, 2 BF16 (R129). -/
def outlierCode (ofmt : Nat) (x : Word) : Nat × Bool × Bool :=
  if ofmt = 1 then fpToE4m3 x else (fpToBf16 x, false, !fpFinite x)

/-- One row converted under record `r`; `konst` is the constant of a constant channel (R115 to R117, R124, R129). -/
def convRow (t ofmt : Nat) (cols : List Nat) (r : ScaleRec) (konst : Option Word) (xs : List Word) : ConvRow :=
  ((List.range xs.length).zip xs).foldl (fun (a : ConvRow) p =>
    if cols.contains p.1 then
      let o := outlierCode ofmt p.2
      { codes := a.codes ++ [(r.zp : Int)], outl := a.outl ++ [o.1], sats := a.sats + bool o.2.1, nonfin := a.nonfin + bool o.2.2 }
    else
      let v := match konst with | some c => constantCode t r c p.2 | none => mapValue t r p.2
      { codes := a.codes ++ [v.1], outl := a.outl, sats := a.sats + bool v.2.1, nonfin := a.nonfin + bool v.2.2 }) {}

/-- A converted scale channel. -/
structure Chan where
  rows : List ConvRow := []
  record : ScaleRec := {}
  constCh : Bool := false
deriving DecidableEq, Repr

/-- The rows of a channel converted, and its record completed with what the conversion met (R119). -/
def convChan (t ofmt : Nat) (cols : List Nat) (r : ScaleRec) (konst : Option Word) (rows : List (List Word)) : Chan :=
  let cr := rows.map (convRow t ofmt cols r konst)
  let sats := (cr.map (fun c => c.sats)).sum
  let nonfin := (cr.map (fun c => c.nonfin)).sum
  { rows := cr
    record := { r with sat := decide (0 < sats), nonfinite := decide (0 < nonfin), satCount := sat 0xFFFF sats }
    constCh := r.constCh }

/-- A channel harvested and converted (R122 to R124). -/
def harvestChan (t mode ofmt : Nat) (cols : List Nat) (rows : List (List Word)) : Chan :=
  let r := gather cols rows
  convChan t ofmt cols (harvestRecord t mode r) (constantOf r) rows

/-! ### Scale registers (R120) -/

/-- The lowest register index not used, from `n` up. -/
def freeIndex (used : List Nat) : Nat → Nat → Nat
  | 0, n => n
  | f + 1, n => if used.contains n then freeIndex used f (n + 1) else n

/-- A scale register taken on a die (log 72: the lowest free one). -/
def takeReg (die slot task : Nat) (rec : List Byte) (hist : List Word) (regs : List ScaleReg) : List ScaleReg :=
  let used := (regs.filter (fun r => r.used && r.die == die)).map (fun r => r.index)
  let n := freeIndex used used.length 0
  regs.filter (fun r => r.die ≠ die ∨ r.index ≠ n) ++ [{ die := die, index := n, slot := slot, task := task, used := true, record := rec, hist := hist }]

/-- The registers of a conversion's channels: the first half, rounded up, on E0 (R120). -/
def takeRegs (slot task : Nat) (recs : List ScaleRec) (regs : List ScaleReg) : List ScaleReg :=
  ((List.range recs.length).zip recs).foldl (fun q p =>
    takeReg (bool (decide ((recs.length + 1) / 2 ≤ p.1))) slot task (scaleBytes p.2) [] q) regs

/-! ### The result of a task (R131, R133) -/

/-- The rescale entry of an output converted to a weight format; OFFSET stays as it stands (R131). -/
def writeEntry (g : Graph) (a qw : Nat) (r : ScaleRec) (codes : List Int) (s : State) : State :=
  let f := if r.constCh then fpAbs r.konst else r.scale
  let s := taskWrite g a (le 4 (twos 32 codes.sum) ++ le 4 f.toNat) s
  taskWrite g (a + 12) [BitVec.ofNat 8 (bool r.constCh), BitVec.ofNat 8 (if r.constCh then qw else 0), 0, 0] s

/-- Converted channels written: codes, outlier buffer, scale records and, for weights, rescale entries (R119, R129, R131). -/
def writeChans (g : Graph) (t : Task) (chans : List Chan) (s : State) : State :=
  let tg := spTarget t
  let b := targetBits tg
  let rows := chans.flatMap (fun c => c.rows)
  let n := (rows.head?.map (fun r => r.codes.length)).getD 0
  let s := each ((List.range rows.length).zip rows) (fun p s =>
    taskWrite g (t.res.toNat + p.1 * rowBytes b n) (packCodes b (p.2.codes.map (codeOfValue tg))) s) s
  let w := if spOutFmt t = 1 then 1 else 2
  let buf := outlierBuf s g t
  let s := each ((List.range rows.length).zip rows) (fun p s =>
    taskWrite g (buf + p.1 * p.2.outl.length * w) (p.2.outl.flatMap (le w)) s) s
  let s := each ((List.range chans.length).zip chans) (fun p s =>
    taskWrite g (commonAt (spRecords t) + 16 * p.1) (scaleBytes p.2.record) s) s
  match targetWeight tg with
  | none => s
  | some f =>
    let e := entriesAt t.res.toNat b n chans.length
    each ((List.range chans.length).zip chans) (fun p s =>
      writeEntry g (e + 16 * p.1) (wfmtQw f) p.2.record (p.2.rows.flatMap (fun r => r.codes)) s) s

/-- Values written as FP32, BF16 or E4M3 (R112, R113): the bytes, saturations and non-finite values. -/
def plainBytes (fmt : Nat) (xs : List Word) : List Byte × Nat × Nat :=
  let bad := (xs.filter (fun x => !fpFinite x)).length
  if fmt = 0x20 then
    let cs := xs.map fpToE4m3
    (cs.map (fun c => BitVec.ofNat 8 c.1), (cs.filter (fun c => c.2.1)).length, bad)
  else if fmt = 0x21 then (xs.flatMap (fun x => le 2 (fpToBf16 x)), 0, bad)
  else (xs.flatMap (fun x => le 4 x.toNat), 0, bad)

/-- The running-maximum register of a task (R120, R126). -/
def historyOf (s : State) (slot task : Nat) (init : Word) : List Word :=
  match s.squ.regs.find? (fun r => r.used && r.slot == slot && r.task == task) with
  | some r => r.hist
  | none => [init]

/-- The rows of a task's result put in its output format and written, with records and counts (R118 to R133). -/
def writeResult (slot task : Nat) (g : Graph) (rows : List (List Word)) (s : State) : State :=
  let t := taskAt g task
  let tg := spTarget t
  if !targetScaled tg then
    let fmt := if tg = 0 ∧ t.kind = kXlOp ∧ bit t.fmt 0 then 0x21 else if tg = 0 then 0x22 else tg
    let p := plainBytes fmt rows.flatten
    let s := taskWrite g t.res.toNat p.1 s
    if tg = 0 then s else squNote slot task { sat := p.2.1, nonfin := p.2.2 } s
  else
    let cols := outlierCols s g t
    let groups := if spPerTensor t && (targetWeight tg).isNone then [rows] else rows.map (fun r => [r])
    if spRunning t then
      let hist := historyOf s slot task (spInit t)
      let r := runningRecord tg (spMode t) hist
      let c := convChan tg (spOutFmt t) cols r none rows
      let gt := gather cols rows
      let m := match gt.lo, gt.hi with | some l, some h => gatheredM tg (spMode t) l h | _, _ => 0
      let after := runningAfter tg (spMode t) (spHistory t) hist r.scale m
      let c := { c with record := { c.record with underuse := after.1 } }
      let s := { s with squ := { s.squ with regs := s.squ.regs.map (fun q =>
        if q.used && q.slot == slot && q.task == task then { q with record := scaleBytes c.record, hist := after.2 } else q) } }
      squNote slot task { sat := (c.rows.map (fun r => r.sats)).sum, under := bool after.1, nonfin := (c.rows.map (fun r => r.nonfin)).sum }
        (writeChans g t [c] s)
    else
      let chans := groups.map (harvestChan tg (spMode t) (spOutFmt t) cols)
      let s := { s with squ := { s.squ with regs := takeRegs slot task (chans.map (fun c => c.record)) s.squ.regs } }
      squNote slot task
        { sat := (chans.map (fun c => (c.rows.map (fun r => r.sats)).sum)).sum
          constCh := (chans.filter (fun c => c.constCh)).length
          nonfin := (chans.map (fun c => (c.rows.map (fun r => r.nonfin)).sum)).sum }
        (writeChans g t chans s)

/-! ### Rescale (R131, R132) -/

/-- A rescale entry (R131). -/
structure RescaleEntry where
  rowsum : Int := 0
  factor : Word := 0
  offset : Word := 0
  constW : Bool := false
deriving DecidableEq, Repr

/-- The rescale entry in 16 bytes. -/
def entryOf (bs : List Byte) : RescaleEntry :=
  { rowsum := signed 32 (field bs 0 4), factor := BitVec.ofNat 32 (field bs 4 4), offset := BitVec.ofNat 32 (field bs 8 4)
    constW := (field bs 12 1).testBit 0 }

/-- The pseudocode of R132. -/
def rescale (qa qw : Nat) (acc : Int) (r : ScaleRec) (e : RescaleEntry) (p : Option Word) : Word :=
  let c0 := acc - r.zp * e.rowsum
  let sa := if r.constCh then fpAbs r.konst else r.scale
  let c0 := if r.constCh then c0.tdiv qa else c0
  let c0 := if e.constW then c0.tdiv qw else c0
  let v := fpMul (fpMul (fpOfInt c0) sa) e.factor
  let y := fpAdd v e.offset
  match p with
  | some p => fpAdd y (fpMul p e.factor)
  | none => y

/-- Address of the scale record of vector `v` of a matrix task's activations (R119, R166; log 18). -/
def recordAt (s : State) (g : Graph) (task v : Nat) : Nat :=
  let t := taskAt g task
  match producerOf g task with
  | some p => commonAt (spRecords p) + (if spPerTensor p then 0 else 16 * v)
  | none => (t.a.toNat + extentA s t + 15) / 16 * 16 + 16 * v

/-- The outlier columns of a pass group's activations, with the producer that converted them (R129, R130). -/
def activationOutliers (s : State) (g : Graph) (task : Nat) : List Nat :=
  match producerOf g task with
  | some p => if (taskAt g task).kind = kPassGroup then outlierCols s g p else []
  | none => []

/-- The outputs of a matrix task from its accumulators, vector by vector (R132); a LUT_GEMV's at ZP = 0 (R138). -/
def rescaledRows (s : State) (g : Graph) (slot task : Nat) : List (List Word) :=
  let t := taskAt g task
  let f := tdWfmt t
  let qa := if t.kind = kPassGroup then 2 ^ wfmtActBits f - 1 else 127
  let outl := !(activationOutliers s g task).isEmpty
  (List.range t.d2.toNat).map (fun v =>
    let r := scaleOf (taskBytes s g (recordAt s g task v) 16)
    let r := if t.kind = kLutGemv then { r with zp := 0 } else r
    (List.range t.d1.toNat).map (fun o =>
      let acc := ((accOf s slot task v o).map (fun a => a.value)).getD 0
      let p := (s.xl.outlier.find? (fun q => q.1 = slot ∧ q.2.1 = task ∧ q.2.2.1 = v ∧ q.2.2.2.1 = o)).map (fun q => q.2.2.2.2)
      rescale qa (wfmtQw f) acc r (entryOf (taskBytes s g (rescaleAt t o) 16)) (if outl then p else none)))

/-- Every output's last chunk has entered its accumulator, and every outlier sum is there (R132, R157). -/
def sumsReady (s : State) (g : Graph) (slot task : Nat) : Bool :=
  let t := taskAt g task
  let outl := !(activationOutliers s g task).isEmpty
  (List.range t.d2.toNat).all (fun v => (List.range t.d1.toNat).all (fun o =>
    (match accOf s slot task v o with | some a => a.chunks == chunkCount t | none => false)
      && (!outl || s.xl.outlier.any (fun q => q.1 == slot && q.2.1 == task && q.2.2.1 == v && q.2.2.2.1 == o))))

/-- The FP32 values of a HARVEST's tensor, channel by channel (R118, R165). -/
def harvestRows (s : State) (g : Graph) (t : Task) : List (List Word) :=
  (List.range t.d0.toNat).map (fun c => (List.range t.d1.toNat).map (fun i =>
    BitVec.ofNat 32 (taskNat s g (t.a.toNat + 4 * (c * t.d1.toNat + i)) 4)))

/-- A task's result written and the task ended, unless memory it needs does not serve. -/
def completeWith (slot task : Nat) (g : Graph) (rows : List (List Word)) (s : State) : State :=
  taskEnd slot task Status.ok 0 0 (writeResult slot task g rows s)

/-- SQU_ENTRY (R132, R133): the sums of a matrix task are rescaled, joined with their outlier sums and written; a HARVEST converts its
tensor. Sums that are not complete leave the state as it is. -/
def execSquEntry (slot task : Nat) (s : State) : Out :=
  if !taskReady s slot task then .next s else
  match graphAt s slot with
  | none => .next s
  | some g =>
    let t := taskAt g task
    let st := operandStatus s g t
    if t.kind = kPassGroup ∨ t.kind = kLutGemv then
      if st ≠ Status.ok then .next (taskEnd slot task st 0 0 s)
      else if sumsReady s g slot task then
        let s := completeWith slot task g (rescaledRows s g slot task) (noteInputs slot task s)
        .next { s with psr := { s.psr with accs := s.psr.accs.filter (fun a => a.slot ≠ slot ∨ a.task ≠ task) }
                       xl := { s.xl with outlier := s.xl.outlier.filter (fun o => o.1 ≠ slot ∨ o.2.1 ≠ task) } }
      else .next s
    else if t.kind = kHarvest then
      if st ≠ Status.ok then .next (taskEnd slot task st 0 0 s) else .next (completeWith slot task g (harvestRows s g t) (noteInputs slot task s))
    else .next s

/-! ### The LUT GEMV engine (R138 to R146) -/

/-- The signed activation at vector `v`, column `i` of a LUT_GEMV task (R110). -/
def int8At (s : State) (g : Graph) (t : Task) (v i : Nat) : Int := signed 8 (taskByte s g (t.a.toNat + v * t.d0.toNat + i)).toNat

/-- A product table: one entry for each weight code (R140). -/
def productTable (f : WFmt) (a : Int) : List Int := (List.range (2 ^ wfmtBits f)).map (fun c => a * weightValue f c)

/-- The weight code at output `o`, column `i` of a matrix task (R144). -/
def codeOf (s : State) (g : Graph) (t : Task) (o i : Nat) : Nat :=
  let b := wfmtBits (tdWfmt t)
  (taskByte s g (t.b.toNat + o * rowBytes b t.d0.toNat + i * b / 8)).toNat / 2 ^ (i * b % 8) % 2 ^ b

/-- Columns of a slice at `b` vectors (R143). -/
def sliceColumns (b : Nat) : Nat := 64 * (2048 / b)

/-- The part of an output's sum over the columns of a slice: a lookup in the column's product table for every code (R141). -/
def lookupSum (s : State) (g : Graph) (t : Task) (tables : List (List Int)) (first o : Nat) : Int :=
  (((List.range tables.length).zip tables).map (fun q => q.2.getD (codeOf s g t o (first + q.1)) 0)).sum

/-- A half builds the tables of a slice in the bank that serves no slice, and they serve from the next work cycle on (R143). -/
def serveBank (half : Nat) (b : LgeBank) (s : State) : State :=
  let k := 1 - s.lge.serving.getD half 0
  { s with lge := { s.lge with banks := update s.lge.banks (2 * half + k) (fun _ => b), serving := update s.lge.serving half (fun _ => k) } }

/-- A slice of a task from column `first`: each half builds the tables of every vector and column of it and looks up the codes of its outputs; the sums
enter the accumulators, which carry on from slice to slice (R140, R141, R143, R144). -/
def lgeSlice (slot task : Nat) (g : Graph) (t : Task) (first : Nat) (s : State) : State :=
  let k := min (sliceColumns (max 1 t.d2.toNat)) (t.d0.toNat - first)
  let tables := (List.range t.d2.toNat).map (fun v => (List.range k).map (fun i => productTable (tdWfmt t) (int8At s g t v (first + i))))
  let b : LgeBank := { slot := slot, task := task, first := first, tables := tables.flatten }
  let s := serveBank 1 b (serveBank 0 b s)
  let s := { s with lge := { s.lge with cur := { s.lge.cur with lookups := s.lge.cur.lookups + k * t.d1.toNat * t.d2.toNat } } }
  each ((List.range t.d2.toNat).zip tables) (fun p s =>
    each (List.range t.d1.toNat) (fun o s =>
      if taskReady s slot task then
        accept .lge 2 (decide (t.d1.toNat ≤ 2 * o)) slot task p.1 o (lookupSum s g t p.2 first o) ((k + 63) / 64) s
      else s) s) s

/-- LGE_ENTRY (R140, R141): slice by slice tables are built, every code is looked up, and the exact sums enter the accumulators; one that would leave
32-bit range ends the task (R146). -/
def execLgeEntry (slot task : Nat) (s : State) : Out :=
  if !taskReady s slot task then .next s else
  match graphAt s slot with
  | none => .next s
  | some g =>
    let t := taskAt g task
    if t.kind ≠ kLutGemv then .next s
    else
      let st := operandStatus s g t
      if st ≠ Status.ok then .next (taskEnd slot task st 0 0 s)
      else
        let n := sliceColumns (max 1 t.d2.toNat)
        .next (each (List.range ((t.d0.toNat + n - 1) / n)) (fun i s => lgeSlice slot task g t (i * n) s) (noteInputs slot task s))

end Sys2Proof.Machine
end

