-- ==== Sys2Proof/Machine/Xl.lean ====
section
/-! DEFINITION. The exact lane: operators, fixed-order sums, outlier sums, and the almanac entry XL (R150 to R158, R462). -/

namespace Sys2Proof.Machine

/-! ### Operands (R150, R462) -/

/-- A value as a multiplier takes it: BF16 (R150). -/
def toMul (x : Word) : Word := bf16ToFp (fpToBf16 x)

/-- Element `i` of a row of floating-point elements at `a`, in format 0 FP32, 1 BF16, 2 E4M3. -/
def floatAt (s : State) (g : Graph) (fmt a i : Nat) : Word :=
  match fmt with
  | 0 => BitVec.ofNat 32 (taskNat s g (a + 4 * i) 4)
  | 1 => bf16ToFp (taskNat s g (a + 2 * i) 2)
  | _ => e4m3ToFp (taskNat s g (a + i) 1)

/-- Code `i` of a row of codes at `a`. -/
def rawCode (s : State) (g : Graph) (b a i : Nat) : Nat := (taskByte s g (a + i * b / 8)).toNat / 2 ^ (i * b % 8) % 2 ^ b

/-- The value of a code of an XL code format: 4 to 7 activations, 8 to 12 weights (R107, R109, R110, R462). -/
def xlCodeValue (fmt c : Nat) : Int :=
  match fmt with
  | 4 => c % 16 | 5 => c % 8 | 6 => c % 4 | 7 => signed 8 c | 8 => weightValue .int4 c | 9 => weightValue .int3 c
  | 10 => weightValue .int2 c | 11 => weightValue .ternary c | _ => weightValue .nb4 c

/-- The largest code step of an XL code format: qa, 127 or qw. -/
def xlCodeMax (fmt : Nat) : Int :=
  match fmt with
  | 4 => 15 | 5 => 7 | 6 => 3 | 7 => 127 | 8 => 7 | 9 => 3 | 10 => 1 | 11 => 1 | _ => 9

/-- Row `r` of TD_A or TD_B: `n` elements, `parts` values each. -/
def floatRow (s : State) (g : Graph) (t : Task) (base fmt r : Nat) : List Word :=
  let n := t.d1.toNat * xlParts t
  (List.range n).map (floatAt s g fmt (base + r * xlRow t fmt t.d1.toNat))

/-- A row of codes expanded under its record: the zero point taken off, a constant channel as its sign (R150). -/
def codeRow (s : State) (g : Graph) (t : Task) (base fmt r zp : Nat) (const : Bool) : List Word :=
  (List.range t.d1.toNat).map (fun i =>
    let d := xlCodeValue fmt (rawCode s g (xlBits fmt) (base + r * xlRow t fmt t.d1.toNat) i) - zp
    fpOfInt (if const then d.tdiv (xlCodeMax fmt) else d))

/-- FP32 parameter `i` of the vector parameters at TD_B. -/
def param (s : State) (g : Graph) (t : Task) (i : Nat) : Word := BitVec.ofNat 32 (taskNat s g (t.b.toNat + 4 * i) 4)

/-! ### Fixed-order sums (R152) -/

/-- One level of the pairwise tree. -/
def pairUp : List Word → List Word
  | a :: b :: r => fpAdd a b :: pairUp r
  | l => l

/-- `n` levels of the tree. -/
def pairUps : Nat → List Word → List Word
  | 0, l => l
  | n + 1, l => pairUps n (pairUp l)

/-- The sum of one block of 64 terms, missing terms +0 (R152). -/
def blockSum (xs : List Word) : Word := (pairUps 6 ((xs ++ List.replicate 64 0).take 64)).headD 0

/-- Blocks in ascending order, after the first. -/
def blocksFrom : Nat → Word → List Word → Word
  | 0, acc, _ => acc
  | n + 1, acc, xs => if xs.isEmpty then acc else blocksFrom n (fpAdd acc (blockSum (xs.take 64))) (xs.drop 64)

/-- tree_sum (R152). -/
def treeSum (xs : List Word) : Word := blocksFrom (xs.length / 64 + 1) (blockSum (xs.take 64)) (xs.drop 64)

/-! ### Named functions (R155) -/

def fpExp (w : Word) : Word := if fpIsNaN w then fpNaN else if fpIsInf w then (if fpNeg w then 0 else w) else expFinite w
def fpRsqrt (w : Word) : Word :=
  if fpIsNaN w then fpNaN else if fpIsZero w then fpInf (fpNeg w) else if fpNeg w then fpNaN else if fpIsInf w then 0 else rsqrtFinite w

/-- 1 / (1 + exp_ne1(-x)). -/
def fpSigmoid (x : Word) : Word := fpDiv fpOne (fpAdd fpOne (fpExp (fpNegate x)))
/-- c1 and c2 of GELU (R154). -/
def geluC1 : Word := 0x3FCC4229
def geluC2 : Word := 0x3D922277

/-! ### Operators (R154) -/

/-- One result value and whether every operand it was formed from is finite. -/
abbrev XlVal := Word × Bool

/-- All of a list's values are finite. -/
def allFinite (xs : List Word) : Bool := xs.all fpFinite

/-- Elementwise operators 0x04 ADD, 0x05 SUB, 0x06 MUL, 0x08 MAX, 0x09 MIN. -/
def pairOp (op : Nat) (x y : Word) : Word :=
  match op with
  | 4 => fpAdd x y
  | 5 => fpSub x y
  | 6 => fpMul x y
  | 8 => if fpIsNaN x || fpIsNaN y then fpNaN else fpMax x y
  | _ => if fpIsNaN x || fpIsNaN y then fpNaN else fpMin x y

/-- The greatest value of a row; a NaN propagates. -/
def rowMax (xs : List Word) : Word :=
  if xs.any fpIsNaN then fpNaN else xs.tail.foldl fpMax (xs.headD 0)

/-- ARGMAX: the first NaN, else the lowest index among the greatest (R154). -/
def argMax (xs : List Word) : Nat :=
  match xs.findIdx? fpIsNaN with
  | some i => i
  | none =>
    let m := xs.tail.foldl fpMax (xs.headD 0)
    xs.findIdx (fun x => !fpLess x m && !fpLess m x)

/-- SOFTMAX of a row. -/
def softmax (xs : List Word) : List Word :=
  let mx := rowMax xs
  let e := xs.map (fun x => fpExp (fpSub x mx))
  let inv := fpDiv fpOne (treeSum e)
  e.map (fun v => fpMul v inv)

/-- RMSNORM of a row with g and eps. -/
def rmsnorm (xs g : List Word) (eps : Word) : List Word :=
  let ms := fpDiv (treeSum (xs.map (fun x => fpMul x x))) (fpOfInt xs.length)
  let r := fpRsqrt (fpAdd ms eps)
  (xs.zip g).map (fun p => fpMul (fpMul p.1 r) p.2)

/-- LAYERNORM of a row with g, b and eps. -/
def layernorm (xs g b : List Word) (eps : Word) : List Word :=
  let n := fpOfInt xs.length
  let mu := fpDiv (treeSum xs) n
  let d := xs.map (fun x => fpSub x mu)
  let var := fpDiv (treeSum (d.map (fun x => fpMul x x))) n
  let r := fpRsqrt (fpAdd var eps)
  ((d.zip g).zip b).map (fun p => fpAdd (fpMul (fpMul p.1.1 r) p.1.2) p.2)

/-- SILU and GELU of a value. -/
def silu (x : Word) : Word := fpMul x (fpSigmoid x)
def gelu (x : Word) : Word :=
  let z := fpAdd (fpMul geluC1 x) (fpMul geluC2 (fpMul (fpMul x x) x))
  fpMul x (fpSigmoid z)

/-- The terms of the real and imaginary parts of a complex product sum; `conj` negates yi first (R154). -/
def cdotTerms (conj : Bool) : List Word → List Word → List Word × List Word
  | xr :: xi :: xs, yr :: yi :: ys =>
    let yi := if conj then fpNegate yi else yi
    let r := cdotTerms conj xs ys
    (fpMul xr yr :: fpNegate (fpMul xi yi) :: r.1, fpMul xr yi :: fpMul xi yr :: r.2)
  | _, _ => ([], [])

/-- CMUL of two rows of complex elements. -/
def cmulRow : List Word → List Word → List Word
  | xr :: xi :: xs, yr :: yi :: ys =>
    fpAdd (fpMul xr yr) (fpNegate (fpMul xi yi)) :: fpAdd (fpMul xr yi) (fpMul xi yr) :: cmulRow xs ys
  | _, _ => []

/-- The complex operand finiteness of CMUL's results: each pair of values shares its element's operands. -/
def cmulFinite : List Word → List Word → List Bool
  | xr :: xi :: xs, yr :: yi :: ys => let f := allFinite [xr, xi, yr, yi]; f :: f :: cmulFinite xs ys
  | _, _ => []

/-- The scale record of row `v` of TD_A when it holds codes (R462). -/
def xlRecord (s : State) (g : Graph) (t : Task) (v : Nat) : ScaleRec :=
  let a := (t.a.toNat + xlVectors t * xlRow t (xlFmtA t) t.d1.toNat + 15) / 16 * 16
  scaleOf (taskBytes s g (a + if bit t.fmt 24 then 0 else 16 * v) 16)

/-- The rescale entry of row `o` of TD_B when it holds weight codes (R462, R464). -/
def xlEntryOf (s : State) (g : Graph) (t : Task) (o : Nat) : RescaleEntry :=
  entryOf (taskBytes s g ((t.b.toNat + t.d2.toNat * xlRow t (xlFmtB t) t.d1.toNat + 15) / 16 * 16 + 16 * o) 16)

/-- DOT of row `v` of TD_A and row `o` of TD_B, with the scales of code operands (R154, R156); with activation codes in TD_B, for which the manual
names no record, its value is free (log 19). -/
def xlDot (s : State) (g : Graph) (t : Task) (v o : Nat) : XlVal :=
  let fa := xlFmtA t
  let fb := xlFmtB t
  let r := xlRecord s g t v
  let e := xlEntryOf s g t o
  let xs := if xlCodes fa then codeRow s g t t.a.toNat fa v r.zp r.constCh else floatRow s g t t.a.toNat fa v
  let ws := if xlCodes fb then codeRow s g t t.b.toNat fb o 0 e.constW else floatRow s g t t.b.toNat fb o
  if 4 ≤ fb ∧ fb ≤ 7 then (Config.activationDot fa fb xs ws (if xlCodes fa then scaleBytes r else []), allFinite xs)
  else
    let acc := treeSum ((xs.zip ws).map (fun p => fpMul (toMul p.1) (toMul p.2)))
    let sc := if r.constCh then fpAbs r.konst else r.scale
    let u := if xlCodes fa then fpMul acc sc else acc
    let y := if xlCodes fb then fpAdd (fpMul u e.factor) e.offset else u
    (y, allFinite xs && allFinite ws && (!xlCodes fa || fpFinite sc) && (!xlCodes fb || allFinite [e.factor, e.offset]))

/-- The rows of results of an XL_OP other than ARGMAX (R154, R462). -/
def xlRows (s : State) (g : Graph) (t : Task) : List (List XlVal) :=
  let n := t.d1.toNat
  let a := floatRow s g t t.a.toNat (xlFmtA t)
  let b := floatRow s g t t.b.toNat (xlFmtB t)
  let gs := (List.range n).map (param s g t)
  let bs := (List.range n).map (fun i => param s g t (n + i))
  let rows := List.range t.d2.toNat
  let whole (f : List Word → List Word) (extra : List Word) (r : Nat) : List XlVal :=
    let fin := allFinite (a r) && allFinite extra
    (f (a r)).map (fun v => (v, fin))
  match xlOp t with
  | 1 => (List.range (xlVectors t)).map (fun v => rows.map (fun o => xlDot s g t v o))
  | 2 => (List.range (xlVectors t)).map (fun v => rows.flatMap (fun o =>
      let x := (a v).map toMul
      let y := (b o).map toMul
      let p := cdotTerms (bit t.fmt 8) x y
      let f := allFinite (a v) && allFinite (b o)
      [(treeSum p.1, f), (treeSum p.2, f)]))
  | 3 => rows.map (fun r => (cmulRow ((a r).map toMul) ((b r).map toMul)).zip (cmulFinite (a r) (b r)))
  | 7 => rows.map (fun r => ((a r).zip (gs.zip bs)).map (fun p =>
      (fpAdd (fpMul p.1 p.2.1) p.2.2, allFinite [p.1, p.2.1, p.2.2])))
  | 11 => rows.map (whole softmax [])
  | 12 => rows.map (whole (fun x => rmsnorm x gs (param s g t n)) (param s g t n :: gs))
  | 13 => rows.map (whole (fun x => layernorm x gs bs (param s g t (2 * n))) (param s g t (2 * n) :: gs ++ bs))
  | 14 => rows.map (fun r => (a r).map (fun x => (silu x, fpFinite x)))
  | 15 => rows.map (fun r => (a r).map (fun x => (gelu x, fpFinite x)))
  | op => rows.map (fun r => ((a r).zip (b r)).map (fun p => (pairOp op p.1 p.2, fpFinite p.1 && fpFinite p.2)))

/-- The scales and offsets that a DOT reads with operands that are codes (R156, R158). -/
def xlScales (s : State) (g : Graph) (t : Task) : List Word :=
  if xlOp t ≠ 1 then []
  else
    (if xlCodes (xlFmtA t) then (List.range (if bit t.fmt 24 then 1 else xlVectors t)).map (fun v =>
      let r := xlRecord s g t v
      if r.constCh then r.konst else r.scale) else [])
    ++ (if 8 ≤ xlFmtB t then (List.range t.d2.toNat).flatMap (fun o => let e := xlEntryOf s g t o; [e.factor, e.offset]) else [])

/-- The floating-point operands an XL_OP reads, each once. -/
def xlOperands (s : State) (g : Graph) (t : Task) : List Word :=
  let a := if xlCodes (xlFmtA t) then [] else (List.range (xlRowsA t)).flatMap (floatRow s g t t.a.toNat (xlFmtA t))
  let op := xlOp t
  let b :=
    if op = 10 ∨ op = 11 ∨ op = 14 ∨ op = 15 then []
    else if op = 7 then (List.range (2 * t.d1.toNat)).map (param s g t)
    else if op = 12 then (List.range (t.d1.toNat + 1)).map (param s g t)
    else if op = 13 then (List.range (2 * t.d1.toNat + 1)).map (param s g t)
    else if xlCodes (xlFmtB t) then [] else (List.range t.d2.toNat).flatMap (floatRow s g t t.b.toNat (xlFmtB t))
  a ++ b ++ xlScales s g t

/-- What the XL reports of a task: non-finite operands read, results that overflowed, NaN results (R158, R161). -/
def xlNote (slot task nonfin inf nan : Nat) (s : State) : State :=
  let cause := if 0 < inf then 3 else if 0 < nan then 2 else if 0 < nonfin then 1 else 0
  if cause = 0 then s
  else
    let c := { s.xl.cur with nonfin := s.xl.cur.nonfin + nonfin, overflow := s.xl.cur.overflow + inf }
    let s := { s with xl := { s.xl with cur := c, last := { cause := cause, graph := slot, task := task } } }
    let i : EvInfo := { graph := some slot, task := task }
    let s := if 0 < nonfin then raise .xl 0 i s else s
    let s := if 0 < nan then raise .xl 1 i s else s
    if 0 < inf then raise .xl 2 i s else s

/-- Results reported against their operands. -/
def xlReport (slot task : Nat) (operands : List Word) (vs : List XlVal) (s : State) : State :=
  xlNote slot task (operands.filter (fun x => !fpFinite x)).length
    (vs.filter (fun v => v.2 && fpIsInf v.1)).length (vs.filter (fun v => fpIsNaN v.1)).length s

/-- A result as the task puts it out, in BF16 or in FP32 (R154, R158): one that overflows there is an infinity. -/
def xlResult (t : Task) (x : Word) : Word := if spTarget t = 0 ∧ bit t.fmt 0 then bf16ToFp (fpToBf16 x) else x

/-- The operator of an XL_OP task (R154). -/
def xlOperator (slot task : Nat) (g : Graph) (s : State) : State :=
  let t := taskAt g task
  if xlOp t = 10 then
    let rows := (List.range t.d2.toNat).map (floatRow s g t t.a.toNat (xlFmtA t))
    let bytes := rows.flatMap (fun r => le 4 (argMax r))
    let s := xlReport slot task (xlOperands s g t) [] (taskWrite g t.res.toNat bytes s)
    taskEnd slot task Status.ok 0 0 s
  else
    let vs := xlRows s g t
    let s := xlReport slot task (xlOperands s g t) (vs.flatten.map (fun v => (xlResult t v.1, v.2))) s
    completeWith slot task g (vs.map (fun r => r.map (fun v => v.1))) s

/-! ### Outlier sums (R130, R157) -/

/-- The sum of products from the first, in ascending order. -/
def seqSum : List Word → Word
  | [] => 0
  | a :: r => r.foldl fpAdd a

/-- The outlier values of vector `v` and their columns, from the outlier buffer of the converting task (R129, R130). -/
def outlierValues (s : State) (g : Graph) (p : Task) (cols : List Nat) (v : Nat) : List (Nat × Word) :=
  let w := if spOutFmt p = 1 then 1 else 2
  let a := outlierBuf s g p + v * cols.length * w
  ((List.range cols.length).zip cols).map (fun q =>
    (q.2, if spOutFmt p = 1 then e4m3ToFp (taskNat s g (a + q.1) 1) else bf16ToFp (taskNat s g (a + 2 * q.1) 2)))

/-- p[o] of R130 for vector `v` and output `o`. -/
def outlierSum (s : State) (g : Graph) (task : Nat) (xs : List (Nat × Word)) (o : Nat) : Word :=
  let t := taskAt g task
  let e := entryOf (taskBytes s g (rescaleAt t o) 16)
  seqSum (xs.map (fun q =>
    let w := weightAt s g t o q.1
    fpMul q.2 (fpOfInt (if e.constW then w.tdiv (wfmtQw (tdWfmt t)) else w))))

/-- The OUTLIER entries of a pass group (R157): every p[o] of every vector. -/
def outlierEntries (slot task : Nat) (g : Graph) (p : Task) (cols : List Nat) (s : State) : State :=
  let t := taskAt g task
  let s := { s with xl := { s.xl with outlier := s.xl.outlier.filter (fun o => o.1 ≠ slot ∨ o.2.1 ≠ task) } }
  let rows := (List.range t.d2.toNat).map (fun v => (v, outlierValues s g p cols v))
  let all := rows.flatMap (fun r => (List.range t.d1.toNat).map (fun o =>
    (r.1, o, outlierSum s g task r.2 o, allFinite (r.2.map (fun q => q.2)))))
  let s := { s with xl := { s.xl with outlier := s.xl.outlier ++ all.map (fun q => (slot, task, q.1, q.2.1, q.2.2.1)) } }
  xlReport slot task (rows.flatMap (fun r => r.2.map (fun q => q.2))) (all.map (fun q => (q.2.2.1, q.2.2.2))) s

/-- XL_ENTRY (R154, R157): the operator of an XL_OP task, or the outlier sums of a pass group. -/
def execXlEntry (slot task : Nat) (s : State) : Out :=
  if !taskReady s slot task then .next s else
  match graphAt s slot with
  | none => .next s
  | some g =>
    let t := taskAt g task
    if t.kind = kXlOp then
      let st := operandStatus s g t
      if st ≠ Status.ok then .next (taskEnd slot task st 0 0 s) else .next (xlOperator slot task g (noteInputs slot task s))
    else
      match producerOf g task with
      | some p =>
        let cols := activationOutliers s g task
        if cols.isEmpty then .next s else .next (outlierEntries slot task g p cols s)
      | none => .next s

end Sys2Proof.Machine
end

