-- ==== Sys2Proof/Machine/Transfers.lean ====
section
/-! DEFINITION. Weight loads, the almanac entry TRANSFER and the stream-lane entries (R108, R184, R185, R205, R464, R466). -/

namespace Sys2Proof.Machine

/-! ### Weight loads (R108, R205, R464) -/

/-- Bytes of a weight load's destination range (R464). -/
def weightLen (f : WFmt) (k o dst : Nat) : Nat := entriesAt dst (wfmtBits f) k o - dst + 16 * o

/-- The codes of row `o` in a weight load's bytes. -/
def loadRow (f : WFmt) (k o : Nat) (bs : List Byte) : List Nat :=
  let b := wfmtBits f
  (List.range k).map (codeAt b (bs.drop (o * rowBytes b k)))

/-- The load holds a ternary code 0b10 (R108). -/
def loadRefused (f : WFmt) (k o : Nat) (bs : List Byte) : Bool :=
  f = .ternary && (List.range o).any (fun r => (loadRow f k r bs).any (fun c => c == 2))

/-- The bytes stored for a load to `dst`: the row sums in their rescale entries (R108). -/
def loadStored (f : WFmt) (k o dst : Nat) (bs : List Byte) : List Byte :=
  let e := entriesAt dst (wfmtBits f) k o - dst
  (List.range o).foldl (fun (m : List Byte) r =>
    let sum := ((loadRow f k r bs).map (weightValue f)).sum
    let a := e + 16 * r
    m.take a ++ le 4 (twos 32 sum) ++ m.drop (a + 4)) bs

/-- Bytes of the `n` at `a` that these ranges, which share no byte, cover. -/
def coveredOf (parts : List (Nat × Nat)) (a n : Nat) : Nat := (parts.map (fun p => min (a + n) (p.1 + p.2) - max a p.1)).sum

/-- The region of a finished load (R205): regions inside it give up their slots, those it partly overlaps become stale, and with every
slot held no digest is recorded. -/
def addRegion (parts : List (Nat × Nat)) (bs : List Byte) (s : State) : State :=
  let inside (r : Region) : Bool := r.parts.all (fun p => (coveredOf parts p.1 p.2) == p.2)
  let left := s.regions.filter (fun r => !inside r)
  let left := left.map (fun r => if parts.any (fun p => regionTouches p.1 p.2 r) then { r with stale := true } else r)
  if left.length < 16384 then
    { s with regions := left ++ [{ parts := parts, digest := le 32 (Config.shake256 bs).toNat, stale := false }] }
  else { s with regions := left }

/-- Bytes stored by a graph's weight load, without making regions stale. -/
def loadWrite (g : Graph) (a : Nat) (bs : List Byte) (s : State) : State :=
  match bs with
  | [] => s
  | b :: r => loadWrite g (a + 1) r (match physical g a with | some p => taskByteOut p b s | none => s)

/-! ### TRANSFER (R165, R466) -/

/-- One move of TRANSFER `task`: its status, the bytes moved, and the state after it. A move of length 0 moves nothing (R170); a weight load
whose destination range has another length than its layout takes is TASK_PARAM (R464). -/
def moveOne (g : Graph) (task src dst len : Nat) (s : State) : BitVec 16 × Nat × State :=
  let t := taskAt g task
  let rd := rangeStatus s g src false len
  let wr := rangeStatus s g dst true len
  let f := tdWfmt t
  let k := bits t.fmt 31 8
  if len = 0 then (Status.ok, 0, s)
  else if tdWeightLoad t ∧ len ≠ weightLen f k t.d2.toNat dst then (Status.taskParam, 0, s)
  else if rd ≠ Status.ok then (rd, 0, s)
  else if wr ≠ Status.ok then (wr, 0, s)
  else
    let bs := taskBytes s g src len
    let s := addInput g.slot task bs s
    if tdWeightLoad t then
      if loadRefused f k t.d2.toNat bs then (Status.qpolicyInvalid, 0, s)
      else
        let st := loadStored f k t.d2.toNat dst bs
        let ps := (pieces g dst len).map (fun p => p.2)
        let u := loadWrite g dst st s
        if u.hif.egressFull then
          let e := egressOutcome Status.ok u
          (e.1, u.hif.egress.length - s.hif.egress.length, each ps (fun p => staleRegions p.1 p.2) e.2)
        else (Status.ok, len, addRegion ps st u)
    else
      let u := taskWrite g dst bs s
      let e := egressOutcome Status.ok u
      (e.1, if u.hif.egressFull then u.hif.egress.length - s.hif.egress.length else len, e.2)

/-- A byte of a list entry, as read at page build, that lies outside memory in service or outside the allotment (R466). -/
def entryStatus (s : State) (g : Graph) (e : Nat × Nat × Nat) : BitVec 16 :=
  let bad (a : Nat) (w : Bool) : Option (BitVec 16) :=
    match physical g a with
    | none => some Status.stagingSpace
    | some p =>
      match place s p w with
      | .device _ => none
      | .host _ => none
      | .failing => none
      | _ => some Status.memorySpace
  match (List.range e.2.2).findSome? (fun i => bad (e.1 + i) false) with
  | some st => st
  | none => ((List.range e.2.2).findSome? (fun i => bad (e.2.1 + i) true)).getD Status.ok

/-- Offset in a task's range of the address `bad` of a persistent error, where it lies there. -/
def hitAt (g : Graph) (bad : Option Nat) (a len : Nat) : Option Nat := (List.range len).find? (fun i => bad.isSome && physical g (a + i) == bad)

/-- Bytes that a move of `len` has written when it meets the persistent error at offset `off` (R466): the spec does not say how many
(log 21). -/
def movedBefore (len off : Nat) : Nat := min (Config.movedBefore len off) off

/-- A list entry that meets the persistent error (R222, R466): what it has written stays, and it ends with HW_READ_PARITY. -/
def moveFailed (g : Graph) (t : Task) (src dst len off : Nat) (s : State) : BitVec 16 × Nat × State :=
  let n := if tdWeightLoad t && decide (tdWfmt t = .ternary) then 0 else movedBefore len off
  let u := taskWrite g dst (taskBytes s g src n) s
  let e := egressOutcome Status.hwReadParity u
  (e.1, if u.hif.egressFull then u.hif.egress.length - s.hif.egress.length else n, e.2)

/-- A status that ends every later list entry: all but the refusal of a weight load, whose codes are checked for each entry on its own
(R464, R466). -/
def endsList (st : BitVec 16) : Bool := st != Status.ok && st != Status.qpolicyInvalid

/-- The list entries in order from entry `i` (R464, R466). `first` is the first status other than OK so far, `halt` the one that ends the
rest. -/
def moveList (slot task : Nat) (g : Graph) (t : Task) (bad : Option Nat) : List (Nat × Nat × Nat) → Nat → Nat → BitVec 16 → BitVec 16 → State →
    BitVec 16 × Nat × State
  | [], _, moved, first, _, s => (first, moved, s)
  | e :: r, i, moved, first, halt, s =>
    let m :=
      if halt ≠ Status.ok then (halt, 0, s)
      else
        match hitAt g bad e.1 e.2.2 with
        | some off => moveFailed g t e.1 e.2.1 e.2.2 off s
        | none => moveOne g task e.1 e.2.1 e.2.2 s
    let s := if tdEach t then postRunEntry slot 0x44 m.1 task i 0 m.2.1 m.2.2 else m.2.2
    moveList slot task g t bad r (i + 1) (moved + m.2.1) (if first = Status.ok then m.1 else first) (if endsList m.1 then m.1 else Status.ok) s

/-- A TRANSFER with LIST (R466); `bad` is the address of a persistent error that it meets. -/
def transferList (slot task : Nat) (g : Graph) (t : Task) (bad : Option Nat) (s : State) : State :=
  let n := t.d0.toNat
  match (if (hitAt g bad t.a.toNat (32 * n)).isSome then none else listBytes s g task) with
  | none =>
    let st := rangeStatus s g t.a.toNat false (32 * n)
    taskEnd slot task (if st = Status.ok then Status.hwReadParity else st) 0 0 s
  | some bs =>
    let es := listEntries n bs
    let st := (es.findSome? (fun e => let x := entryStatus s g e; if x = Status.ok then none else some x)).getD Status.ok
    if st ≠ Status.ok then taskEnd slot task st 0 0 s
    else
      let m := moveList slot task g t bad es 0 0 Status.ok Status.ok s
      listEnd slot task m.1 m.2.1 m.2.2

/-- TRANSFER_ENTRY (R165, R466). -/
def execTransferEntry (slot task : Nat) (s : State) : Out :=
  if !taskReady s slot task then .next s else
  match graphAt s slot with
  | none => .next s
  | some g =>
    let t := taskAt g task
    if t.kind ≠ kTransfer then .next s
    else if tdList t then .next (transferList slot task g t none s)
    else
      let m := moveOne g task t.a.toNat t.res.toNat t.d0.toNat s
      .next (taskEnd slot task m.1 0 m.2.1 m.2.2)

/-! ### Stream lanes (R184, R185) -/

/-- Lane `n`. -/
def laneAt (s : State) (n : Nat) : Lane := s.tsl.lanes.getD n {}

/-- Lane `n` changed by `f`. -/
def modLane (n : Nat) (f : Lane → Lane) (s : State) : State := { s with tsl := { s.tsl with lanes := update s.tsl.lanes n f } }

/-- `k` input units discarded (R184). -/
def laneDiscard (n k : Nat) (s : State) : State :=
  if k = 0 then s
  else raise .tsl 2 {} (modLane n (fun l => { l with discarded := sat 0xFFFF (l.discarded + k) }) s)

/-- The capture window of a run due at `e` (R184), in signed hall time. -/
def captureWindow (s : State) (g : Graph) (l : Lane) (e : Nat) : Int × Int :=
  let w := (if g.period = 0 then 1 else g.period) * epochNs s
  ((e : Int) - w - l.delay.toNat, (e : Int) - l.delay.toNat)

/-- The boundary at which the next run of a graph to start is due, at the earliest (R162, R171). -/
def nextDue (s : State) (g : Graph) : Nat :=
  match g.waitDue with
  | e :: _ => e
  | [] =>
    if g.period = 0 then s.seq.boundary
    else s.seq.boundary + (g.phase + g.period - (s.seq.epoch + 1) % g.period) % g.period * epochNs s

/-- A LANE_IN task on lane `n` other than task `task` of slot `slot` has a window still to read that does not lie wholly after hall time `c`
(R184; log 88). -/
def windowAhead (s : State) (n slot task c : Nat) : Bool :=
  s.seq.graphs.any (fun g => ((List.range g.tasks.length).zip g.tasks).any (fun p =>
    p.2.kind == kLaneIn && p.2.lane.toNat == n && !(g.slot == slot && p.1 == task)
      && (let e := match g.run with
            | some r => if (r.ends.getD p.1 none).isNone then r.due else nextDue s g
            | none => nextDue s g
          decide ((captureWindow s g (laneAt s n) e).1 ≤ (c : Int)))))

/-- An input unit filed by capture time; one too late for every window that could read it, or one that finds the buffer full, is discarded
(R184). -/
def fileUnit (n capture : Nat) (data : List Byte) (s : State) : State :=
  let l := laneAt s n
  if (capture < l.readTo ∧ ¬ windowAhead s n 256 0 capture) ∨ l.units.toNat ≤ l.buf.length then laneDiscard n 1 s
  else modLane n (fun l => { l with buf := insertBy (fun x y => decide (x.1 < y.1)) (capture, false, data) l.buf }) s

/-- LANE_IN (R184): the first units of the window, missing ones as zeros. A unit that no other task's window can still read leaves the buffer,
and one that none has read is discarded. -/
def laneIn (slot task : Nat) (g : Graph) (s : State) : State :=
  let t := taskAt g task
  let n := t.lane.toNat
  let l := laneAt s n
  let w := captureWindow s g l ((g.run.map (fun r => r.due)).getD 0)
  let within (u : Nat × Bool × List Byte) : Bool := decide (w.1 ≤ (u.1 : Int)) && decide ((u.1 : Int) < w.2)
  let k := t.d0.toNat
  let size := l.unitBytes.toNat
  let inside := l.buf.filter within
  let marked := ((inside.take k).map (fun u => (u.1, true, u.2.2))) ++ inside.drop k
  let wanted (u : Nat × Bool × List Byte) : Bool := windowAhead s n slot task u.1
  let buf := l.buf.filter (fun u => decide ((u.1 : Int) < w.1)) ++ marked.filter wanted ++ l.buf.filter (fun u => decide (w.2 ≤ (u.1 : Int)))
  let lost := (marked.filter (fun u => !wanted u && !u.2.1)).length
  let units := ((inside.take k).map (fun u => fit size u.2.2)) ++ List.replicate (k - inside.length) (zeros size)
  let s := modLane n (fun l => { l with buf := buf, readTo := max l.readTo w.2.toNat }) s
  let s := taskWrite g t.res.toNat units.flatten s
  taskEnd slot task Status.ok (k - inside.length) 0 (laneDiscard n lost s)

/-- The output units that are due are presented in order, each behind the one before; a late one is counted (R185). -/
def presentUnits (n : Nat) : List OutUnit → State → List OutUnit × State
  | [], s => ([], s)
  | u :: r, s =>
    if u.done then
      let p := presentUnits n r s
      (u :: p.1, p.2)
    else if now s < u.time then (u :: r, s)
    else
      match u.data with
      | some d =>
        let p := presentUnits n r (emit (.lane n u.index (some d)) s)
        ({ u with done := true } :: p.1, p.2)
      | none => (u :: r, s)

/-- Units presented and done leave the list. -/
def presentLane (n : Nat) (s : State) : State :=
  let p := presentUnits n (laneAt s n).out s
  modLane n (fun l => { l with out := p.1.filter (fun u => !u.done) }) p.2

/-- LANE_OUT (R185): its units are written and take their places; a unit already replaced by silence stays unpresented. -/
def laneOut (slot task : Nat) (g : Graph) (s : State) : State :=
  let t := taskAt g task
  let n := t.lane.toNat
  let l := laneAt s n
  let e := ((g.run.map (fun r => r.due)).getD 0) + l.delay.toNat
  let size := l.unitBytes.toNat
  let s := each (List.range t.d0.toNat) (fun k s =>
    let d := taskBytes s g (t.a.toNat + k * size) size
    modLane n (fun l => { l with out := l.out.map (fun u =>
      if u.time = e + k * l.period.toNat ∧ u.index = k ∧ u.data.isNone then { u with data := some d } else u) }) s) s
  taskEnd slot task Status.ok 0 0 (presentLane n s)

/-- LANE_ENTRY (R184, R185). -/
def execLaneEntry (slot task : Nat) (s : State) : Out :=
  if !taskReady s slot task then .next s else
  match graphAt s slot with
  | none => .next s
  | some g =>
    let t := taskAt g task
    if t.kind = kLaneIn then
      let st := rangeStatus s g t.res.toNat true (extentRes s t)
      if st ≠ Status.ok then .next (taskEnd slot task st 0 0 s) else .next (laneIn slot task g s)
    else if t.kind = kLaneOut then
      let st := rangeStatus s g t.a.toNat false (extentA s t)
      if st ≠ Status.ok then .next (taskEnd slot task st 0 0 s) else .next (laneOut slot task g (noteInputs slot task s))
    else .next s

/-- An output unit is late: counted, with the event (R185). -/
def laneLate (n : Nat) (s : State) : State :=
  raise .tsl 3 {} (modLane n (fun l => { l with late := sat 0xFFFF (l.late + 1) }) s)

/-- LANE_UNIT_PRESENT (R185): at the next unit's presentation time it is presented; one not yet written is late, and either waits or,
with TSL_LANE_DROP_LATE, is replaced by silence. -/
def execLaneUnitPresent (n : Nat) (s : State) : Out :=
  match (laneAt s n).out.find? (fun u => !u.done && !u.late) with
  | none => .next s
  | some u =>
    let s := advanceTo u.time s
    match u.data with
    | some _ => .next (presentLane n s)
    | none =>
      let s := laneLate n (modLane n (fun l => { l with out := l.out.map (fun v => if v = u then { v with late := true } else v) }) s)
      if (laneAt s n).dropLate then
        let s := modLane n (fun l => { l with out := l.out.map (fun v => if v.time = u.time ∧ v.index = u.index then { v with done := true } else v) }) s
        .next (presentLane n (emit (.lane n u.index none) s))
      else .next s

end Sys2Proof.Machine
end

