-- ==== Sys2Proof/Machine/Colls.lean ====
section
/-! DEFINITION. Collective descriptors: the table in the image header, phase entries, the trace of admission and the timing
(R245, R247, R249 to R251, R253). -/

namespace Sys2Proof.Machine

/-! ### The collective table (R249) -/

/-- Offset in an image header of its collective descriptor `c`, each as long as its phases; where the table begins is the free
Config.collectiveOffset (log 9). -/
def collAt (header : List Byte) (size : Nat) : Nat → Nat
  | 0 => Config.collectiveOffset
  | c + 1 => let a := collAt header size c; a + 64 + 32 * (field header (a + 2) 1 * size)

/-- The collective descriptor of task `t`, as the image was read at admission: the one whose CD_TASK names it, of one for each COLLECTIVE task. One
that is not there reads as zeros (log 89). -/
def collOf (s : State) (g : Graph) (t : Nat) : List Byte :=
  let at_ (c : Nat) : Nat := collAt g.header s.ole.size.toNat c
  match (List.range (g.tasks.filter (fun x => x.kind = kCollective)).length).find? (fun c => field g.header (at_ c) 2 = t) with
  | some c => g.header.drop (at_ c)
  | none => []

/-- CD_PHASES, CD_RENDEZVOUS and CD_RECV. -/
def cdPhases (cd : List Byte) : Nat := field cd 2 1
def cdRendezvous (cd : List Byte) : Nat := field cd 4 4
def cdRecv (cd : List Byte) : Nat := field cd 8 4

/-- The phase entry of phase `h` and module `i`. -/
def phaseEntry (s : State) (cd : List Byte) (h i : Nat) : List Byte := fit 32 (cd.drop (64 + 32 * (h * s.ole.size.toNat + i)))

/-- Port setting of a phase entry: none terminates, else the port it is crossed to (R249). -/
def phasePort (pe : List Byte) (p : Nat) : Option Nat :=
  let v := field pe 0 2 / 2 ^ (3 * p) % 8
  if v < 4 then none else some (v % 4)

/-- Lane steering of a phase entry: 0 to 3 the port, 15 idle. -/
def phaseLane (pe : List Byte) (l : Nat) : Nat := (field pe 2 16) / 2 ^ (4 * l) % 16

/-- Lanes steered to port `p`, ascending. -/
def phaseLanes (pe : List Byte) (p : Nat) : List Nat := (List.range 32).filter (fun l => phaseLane pe l = p)

/-- Contribution sent on port `p`; 0xFF none. -/
def phaseSend (pe : List Byte) (p : Nat) : Nat := field pe (18 + p) 1

/-- The setting of a phase entry: where each port goes, and each lane. -/
def phaseSetting (pe : List Byte) : List (Option Nat) × List Nat := ((List.range 4).map (phasePort pe), (List.range 32).map (phaseLane pe))

/-- Setting of port `p` under a switch setting: none terminates, else the port it is crossed to (R245). -/
def switchPort (sw : BitVec 12) (p : Nat) : Option Nat :=
  let v := sw.toNat / 2 ^ (3 * p) % 8
  if v < 4 then none else some (v % 4)

/-- Steering of lane `l` in a lane map of four words: 0 to 3 the port, 15 idle (R249, R263). -/
def mapLane (map : List Word) (l : Nat) : Nat := bits (map.getD (l / 8) 0) (4 * (l % 8) + 3) (4 * (l % 8))

/-- The rest setting of this module (R246). -/
def restSetting (s : State) : List (Option Nat) × List Nat :=
  ((List.range 4).map (switchPort s.ole.restSwitch), (List.range 32).map (mapLane s.ole.restLanes))

/-! ### The trace of check 9 (R250) -/

/-- Where the fibre of (module, port) leads: this module's own ports as training found them, the others from the free port table. -/
def fibreOf (s : State) (i p : Nat) : Option (Nat × Nat) :=
  if i = s.ole.index.toNat then
    let q := s.ole.ports.getD p {}
    if q.state = .up then some (q.peer.toNat, q.peerPort.toNat) else Config.fibre i p
  else Config.fibre i p

/-- The far end of a path from (module, port), through at most `f` switches on the way. -/
def pathEnd (s : State) (cd : List Byte) (h : Nat) : Nat → Nat → Nat → Option (Nat × Nat)
  | f, i, p =>
    match fibreOf s i p with
    | none => none
    | some (j, q) =>
      match phasePort (phaseEntry s cd h j) q with
      | none => some (j, q)
      | some x => match f with | 0 => none | f + 1 => pathEnd s cd h f j x

/-- A phase entry is well formed: a port is crossed to one other port and back, lane codes are listed, no lane is steered to a crossed port
(R245, R249, R250). -/
def phaseShape (pe : List Byte) : Bool :=
  field pe 0 2 < 4096
    && (List.range 4).all (fun p => match phasePort pe p with | some q => q != p && phasePort pe q == some p | none => true)
    && (List.range 32).all (fun l =>
        let v := phaseLane pe l
        v == 15 || (v < 4 && (phasePort pe v).isNone))

/-- One phase traced (R250): what every module holds after it, none where a condition fails. A contribution is delivered over a terminated port with
a lane. -/
def tracePhase (s : State) (cd : List Byte) (h : Nat) (have_ : List (List Nat)) : Option (List (List Nat)) :=
  let n := s.ole.size.toNat
  let all := (List.range n).flatMap (fun i => (List.range 4).map (fun p => (i, p)))
  let ends := all.filter (fun e => !(phaseLanes (phaseEntry s cd h e.1) e.2).isEmpty)
  let send (e : Nat × Nat) : Nat := phaseSend (phaseEntry s cd h e.1) e.2
  let ok := (List.range n).all (fun i => phaseShape (phaseEntry s cd h i))
    && all.all (fun e => send e == 0xFF || (have_.getD e.1 []).contains (send e))
    && ends.all (fun e =>
        match pathEnd s cd h 2 e.1 e.2 with
        | none => false
        | some (j, q) => phaseLanes (phaseEntry s cd h j) q == phaseLanes (phaseEntry s cd h e.1) e.2)
  if !ok then none
  else some (ends.foldl (fun (m : List (List Nat)) e =>
    match pathEnd s cd h 2 e.1 e.2 with
    | some (j, _) => if send e = 0xFF then m else update m j (fun l => if l.contains (send e) then l else l ++ [send e])
    | none => m) have_)

/-- All phases traced from phase `h`. -/
def tracePhases (s : State) (cd : List Byte) : Nat → Nat → List (List Nat) → Option (List (List Nat))
  | 0, _, m => some m
  | f + 1, h, m => (tracePhase s cd h m).bind (tracePhases s cd f (h + 1))

/-! ### Timing (R251, R253) -/

/-- Frames of one contribution: ceil(bytes / 472) (R251). -/
def framesOf (size : Nat) : Nat := (size + 471) / 472

/-- Work cycles of a phase's window (R251): the transfer on the busiest port of the group, and 6,192 more. -/
def windowCycles (s : State) (cd : List Byte) (h size : Nat) : Nat :=
  let per (i p : Nat) : Nat :=
    let pe := phaseEntry s cd h i
    let n := (phaseLanes pe p).length
    if phaseSend pe p = 0xFF ∨ n = 0 then 0 else (framesOf size + n - 1) / n
  let k := ((List.range s.ole.size.toNat).flatMap (fun i => (List.range 4).map (per i))).foldl max 0
  (k * 495 + 1) / 2 + 6192

/-- The setting of phase `h` differs from the one before it: for the first, from the rest setting (R251). -/
def settingChanges (s : State) (cd : List Byte) (h : Nat) : Bool :=
  if h = 0 then decide (phaseSetting (phaseEntry s cd h s.ole.index.toNat) ≠ restSetting s)
  else (List.range s.ole.size.toNat).any (fun i => decide (phaseSetting (phaseEntry s cd h i) ≠ phaseSetting (phaseEntry s cd (h - 1) i)))

/-- The last phase's setting differs from the rest setting, so a reconfiguration back to it follows (R251). -/
def settingReturns (s : State) (cd : List Byte) : Bool :=
  decide (phaseSetting (phaseEntry s cd (cdPhases cd - 1) s.ole.index.toNat) ≠ restSetting s)

/-- Work cycles from the rendezvous to the end of the last window: the windows, and 6,000 for each reconfiguration before a phase (R251). -/
def phasesCycles (s : State) (cd : List Byte) (size : Nat) : Nat :=
  ((List.range (cdPhases cd)).map (fun h => (if settingChanges s cd h then 6000 else 0) + windowCycles s cd h size)).sum

/-- Work cycles of the combination of contributions of `size` bytes (R253). -/
def combineCycles (s : State) (size : Nat) : Nat := (s.ole.size.toNat * size + 8127) / 8128

/-- Bytes of one contribution of a COLLECTIVE task. -/
def contribution (t : Task) : Nat := t.d1.toNat * collBytes t.d2.toNat

/-- The conditions of R250 on a collective, in a page whose scheduled span is `span` work cycles: its phases, their trace, and its end, from the
rendezvous cycle, inside the span. -/
def collectiveTraced (s : State) (g : Graph) (t span : Nat) : Bool :=
  let n := s.ole.size.toNat
  let cd := collOf s g t
  let x := taskAt g t
  let size := contribution x
  1 ≤ cdPhases cd && cdPhases cd ≤ 16
    && (match tracePhases s cd (cdPhases cd) 0 ((List.range n).map (fun i => [i])) with
        | some m => m.all (fun l => (List.range n).all (fun c => l.contains c))
        | none => false)
    && (x.d1 == 0 || decide (cdRendezvous cd + phasesCycles s cd size + max (combineCycles s size) (if settingReturns s cd then 6000 else 0) ≤ span))

end Sys2Proof.Machine
end

