-- ==== Sys2Proof/Machine/Footprint.lean ====
section
/-! DEFINITION. What a task's almanac entries occupy and for how long, and the earliest work cycle that takes them (R23, R25, R90, R142, R143,
R147, R153, R154, R165, R176, R177, R211, R218, R220, R230, R251, R463; log 9). -/

namespace Sys2Proof.Machine

/-! ### Ranges (R165, R166, R462, R464) -/

/-- The list entries of a TRANSFER as read at admission. -/
def admittedList (s : State) (g : Graph) (t : Task) : List (Nat × Nat × Nat) :=
  listEntries t.d0.toNat (taskBytes s g t.a.toNat (32 * t.d0.toNat))

/-- The outlier list as it lies in the common allotment, whatever the outlier format. -/
def rawOutliers (s : State) (g : Graph) (t : Task) : List Nat :=
  let a := commonAt (spOutliers t)
  (List.range (taskNat s g a 4)).map (fun i => taskNat s g (a + 4 + 4 * i) 4)

/-- The ranges a task names: address, bytes, written (R165, R166, R462, R464). Lists as read at admission. -/
def taskRanges (s : State) (g : Graph) (i : Nat) (t : Task) : List (Nat × Nat × Bool) :=
  let lists := if t.kind = kTransfer ∧ tdList t then
      (admittedList s g t).flatMap (fun e => [(e.1, e.2.2, false), (e.2.1, e.2.2, true)]) else []
  let pol := if spTarget t = 0 then [] else
      (if targetScaled (spTarget t) then
        [(commonAt (spRecords t), 16 * (if spPerTensor t then 1 else (resultShape t).1), true)] else [])
      ++ (if spOutliers t = 0xFFFFFFFF then [] else
          let l := rawOutliers s g t
          [(commonAt (spOutliers t), 4 + 4 * l.length, false)]
            ++ (if l.isEmpty then [] else
                [(outlierBuf s g t, l.length * (resultShape t).1 * (if spOutFmt t = 1 then 1 else 2), true)]))
  let recv := if t.kind = kCollective ∧ t.d1 ≠ 0 then
      [(commonAt (cdRecv (collOf s g i)), s.ole.size.toNat * contribution t, true)] else []
  ((t.a.toNat, extentA s t, false) :: (t.b.toNat, extentB t, false) :: (t.res.toNat, extentRes s t, true) :: lists ++ pol ++ recv).filter
    (fun r => r.2.1 ≠ 0)

/-! ### Units and memory shares (R17, R180, R218, R230) -/

/-- AE_UNIT codes of R180; units that R180 gives no code have one of the model's from 0x0800 up, and no page entry: staging bank k at 0x0800 + k, the
halves of the common bank at 0x0818, and host windows at 0x0820. -/
def uLge (half : Nat) : Nat := 0x0400 + half
def uXl (half : Nat) : Nat := 0x0410 + half
def uSqu (half : Nat) : Nat := 0x0420 + half
def uHbm (stack : Nat) : Nat := 0x0430 + stack
def uLpddr : Nat := 0x0440
def uOle (engine : Nat) : Nat := 0x0450 + engine
def uLane (lane : Nat) : Nat := 0x0460 + lane
def uBank (bank : Nat) : Nat := 0x0800 + bank
def uWindow : Nat := 0x0820

/-- AE_OP codes of R180. -/
def opLoad : Nat := 1
def opSwap : Nat := 2
def opPass : Nat := 3
def opRampFill : Nat := 4
def opLge : Nat := 5
def opXl : Nat := 6
def opSqu : Nat := 7
def opTransfer : Nat := 8
def opLink : Nat := 9
def opLane : Nat := 10
def opHbmRefresh : Nat := 11
def opLpddrRefresh : Nat := 12
def opHoldRefresh : Nat := 13

/-- `n` divided by `d`, rounded up. -/
def ceilDiv (n d : Nat) : Nat := (n + d - 1) / d

/-- Bytes below address `x` on HBM3E stack `n` (R218). -/
def stackBelow (n x : Nat) : Nat := x / 10240 * 1024 + min 1024 (x % 10240 - n * 1024)

/-- Bytes of the `len` at `a` on HBM3E stack `n`. -/
def stackPart (n a len : Nat) : Nat := stackBelow n (a + len) - stackBelow n a

/-- The range has a byte on HBM3E stack `n`. -/
def onStack (n a len : Nat) : Bool := decide (a < hbmEnd) && decide (0 < stackPart n a (min len (hbmEnd - a)))

/-- The units through which a range of a task operand moves, each with its bytes (R218): the spilled granules of a failed stack move through
LPDDR5X (R228, R230). -/
def memoryParts (s : State) (g : Graph) (a n : Nat) : List (Nat × Nat) :=
  if n = 0 then []
  else if a < hbmEnd then
    (List.range 10).filterMap (fun k =>
      if onStack k a n then some (if s.hms.spill = some k then uLpddr else uHbm k, stackPart k a (min n (hbmEnd - a))) else none)
  else if lpddrBase ≤ a ∧ a < lpddrEnd then [(uLpddr, n)]
  else if stagingBase ≤ a ∧ a < stagingEnd then
    (pieces g a n).map (fun p =>
      (if p.2.1 < commonBase then uBank ((p.2.1 - stagingBase) / 0x1000000) else uBank (24 + (p.2.1 - commonBase) / 0x2000000), p.2.2))
  else if windowBase ≤ a then [(uWindow, n)]
  else []

/-- Work cycles in which the parts of a range move at their tiers' task shares (R25, R218, R230, R347). -/
def partCycles (s : State) (ps : List (Nat × Nat)) : Nat :=
  let of (p : Nat → Bool) : Nat := ((ps.filter (fun q => p q.1)).map (fun q => q.2)).sum
  let hbm := ps.filter (fun q => decide (0x0430 ≤ q.1) && decide (q.1 < uLpddr))
  let perStack := (hbm.map (fun q =>
    let n := of (fun u => u == q.1)
    if s.hms.spill.isSome then ceilDiv (10 * n) 6112 else 5 * (ceilDiv n 3056 - 1) + 1)).foldl max 0
  let banks := (ps.map (fun q =>
    if 0x0800 ≤ q.1 ∧ q.1 < uWindow then ceilDiv (of (fun u => u == q.1)) (if q.1 < uBank 24 then 992 else 4064) else 0)).foldl max 0
  max (max perStack (if hbm.isEmpty then 0 else ceilDiv (of (fun u => decide (0x0430 ≤ u) && decide (u < uLpddr))) 6112))
    (max banks (max (ceilDiv (of (fun u => u == uLpddr)) 376) (ceilDiv (of (fun u => u == uWindow)) 12)))

/-- Work cycles in which a range moves. -/
def moveCycles (s : State) (g : Graph) (a n : Nat) : Nat := partCycles s (memoryParts s g a n)

/-- The units of a range. -/
def rangeUnitsOf (s : State) (g : Graph) (a n : Nat) : List Nat := ((memoryParts s g a n).map (fun p => p.1)).eraseDups

/-! ### The frame's reserve (R90) -/

/-- Work cycle of the `i`-th work cycle of a page that is no reserve work cycle, and how many such come before work cycle `w`. -/
def freeAt (i : Nat) : Nat := i + i / 63
def freeBefore (w : Nat) : Nat := w - w / 64

/-- The `n` work cycles from the `i`-th outside the reserve on, in pieces between reserve work cycles: start and length. -/
def freePieces (i n : Nat) : List (Nat × Nat) :=
  if n = 0 then []
  else (List.range ((i + n - 1) / 63 - i / 63 + 1)).map (fun j =>
    let lo := max i (63 * (i / 63 + j))
    (freeAt lo, min (i + n) (63 * (i / 63 + j + 1)) - lo))

/-! ### Footprints (R177; log 9) -/

/-- Entries of one operation on several units. -/
def entriesOn (us : List Nat) (op : Nat) (mset : Option MSet) (task : Nat × Nat) (start len : Nat) : List AlmanacEntry :=
  if len = 0 then []
  else us.map (fun u => { start := start, unit := u, op := op, mset := mset, task := some task, len := len })

/-- Work cycles of an XL_OP's cost on `k` halves (R153, R154, R403). -/
def xlCycles (k : Nat) (t : Task) : Nat :=
  let rows := t.d2.toNat * t.d1.toNat
  let both (rate : Nat) : Nat := ceilDiv rows (k * rate)
  match xlOp t with
  | 1 => ceilDiv (xlVectors t * t.d2.toNat) (125 * k) * ceilDiv t.d1.toNat 64
  | 2 => ceilDiv (xlVectors t * t.d2.toNat) (125 * k) * (2 * ceilDiv (2 * t.d1.toNat) 64)
  | 3 => both 4000
  | 11 => both 2000
  | 12 => both 2000
  | 13 => both 1600
  | 14 => both 4000
  | 15 => both 2000
  | _ => both 8000

/-- Work cycles of an LGE task's tables and stream on `h` halves (R142, R143, R403): the tables of the first slice, then slice by slice the stream
beside the tables of the next one. -/
def lgeCycles (s : State) (h : Nat) (g : Graph) (t : Task) : Nat :=
  let k := t.d0.toNat
  let b := max 1 t.d2.toNat
  let n := 64 * (2048 / b)
  let slices := ceilDiv k n
  let wide (i : Nat) : Nat := min n (k - i * n)
  let build (i : Nat) : Nat := ceilDiv (wide i * b) (64 * h)
  let all := moveCycles s g t.b.toNat (extentB t)
  let stream (i : Nat) : Nat := max (ceilDiv (all * wide i) (max 1 k)) (ceilDiv (wide i * t.d1.toNat * b) (50000 * h))
  build 0 + ((List.range slices).map (fun i => max (stream i) (if i + 1 < slices then build (i + 1) else 0))).sum

/-- Both halves of an engine. -/
def bothHalves (u : Nat → Nat) : List Nat := [u 0, u 1]

/-- The halves of block `b` that take entries: those not FAULTED, or both where neither serves (R403). -/
def halvesUp (s : State) (b : Nat) : List Nat :=
  let up := [0, 1].filter (fun h => !s.msc.units.contains (b, h))
  if up.isEmpty then [0, 1] else up

/-- The moves of a TRANSFER: source, destination, length; `list` is the list as read. -/
def transferMoves (t : Task) (list : List Byte) : List (Nat × Nat × Nat) :=
  if tdList t then listEntries t.d0.toNat list else [(t.a.toNat, t.res.toNat, t.d0.toNat)]

/-- Work cycles that the digest units add to a tagged task (R211): its operands and its result at 256 bytes per work cycle. -/
def hashCycles (s : State) (t : Task) : Nat :=
  if tdTag t then ceilDiv (extentA s t + (if t.kind = kPassGroup ∨ t.kind = kLutGemv then 0 else extentB t) + extentRes s t) 256 else 0

/-- Logical stalls in service, ascending (R179). -/
def servedLogical (s : State) : List Nat := (List.range 768).filter (fun l => (servedBy s l).isSome)

/-- The plan of a page for one task: set, integration and logical stalls in service. -/
structure TaskPlan where
  mset : MSet := .a
  n : Nat := 16
  served : List Nat := List.range 768
deriving DecidableEq, Repr

/-- Hold-refresh work cycles of the frame (R54, R176; log 90): the first 128 of every 50,000. -/
def refreshCycles : Nat := 128
def refreshPeriod : Nat := 50000

/-- The first work cycle from `x` at which a shadow load of `n` work cycles keeps off the hold refresh. -/
def offRefresh (x n : Nat) : Nat :=
  let r := x % refreshPeriod
  if r < refreshCycles then x - r + refreshCycles
  else if refreshPeriod < r + n then x - r + refreshPeriod + refreshCycles
  else x

/-- The stall entries of a pass group that starts at work cycle `w` (R42, R54, R90, R165), as its kernel descriptor, whose layout the manual does not
give, tiles it over the stalls in service (log 9). Passes and swaps keep off the reserve; a shadow load runs through it and keeps off the hold refresh,
and what comes after a load waits as long as the load does. -/
def kernelEntries (g : Graph) (i : Nat) (t : Task) (p : TaskPlan) (w : Nat) : List AlmanacEntry :=
  let ks := Config.kernelEntries g.header (bits t.fmt 31 16) [t.d0.toNat, t.d1.toNat, t.d2.toNat, bits t.fmt 3 0, setCode (some p.mset), p.n, p.served.length]
  let ks := sortBy (fun x y => decide (x.2.2.1 ≤ y.2.2.1))
    (ks.filter (fun k => decide (k.1 < p.served.length) && decide (1 ≤ k.2.1) && decide (k.2.1 ≤ 3) && decide (0 < k.2.2.2)))
  (ks.foldl (fun (m : Nat × List AlmanacEntry) k =>
    let e : AlmanacEntry := { unit := p.served.getD k.1 0, op := k.2.1, mset := some p.mset, task := some (g.slot, i) }
    let at_ := freeBefore w + k.2.2.1 + m.1
    if k.2.1 = opLoad then
      let x := offRefresh (freeAt at_) k.2.2.2
      (m.1 + (freeBefore x - at_), m.2 ++ [{ e with start := x, len := k.2.2.2 }])
    else (m.1, m.2 ++ (freePieces at_ k.2.2.2).map (fun q => { e with start := q.1, len := q.2 }))) (0, [])).2

/-- Work cycle after the last of these entries. -/
def lastEnd (w : Nat) (es : List AlmanacEntry) : Nat := es.foldl (fun m e => max m (e.start + e.len)) w

/-- The entries of task `i` placed at work cycle `w`, and the work cycle from which its result is visible (R21, R23, R147, R220, R251, R463). A task
takes a memory share or an engine as a whole while it uses it (log 9). -/
def footprint (s : State) (g : Graph) (i : Nat) (p : TaskPlan) (list : List Byte) (w : Nat) : List AlmanacEntry × Nat :=
  let t := taskAt g i
  let k := (g.slot, i)
  let out := t.res.toNat
  let outN := extentRes s t
  let hash := hashCycles s t
  let outC := moveCycles s g out outN
  -- the result of an engine whose last work cycle comes before `x`: it is written until `tail` work cycles later, and visible then
  let result (es : List AlmanacEntry) (x tail : Nat) : List AlmanacEntry × Nat :=
    (es ++ entriesOn (rangeUnitsOf s g out outN) opTransfer none k (x + tail - outC) outC, x + tail + hash)
  if t.kind = kPassGroup then
    let es := kernelEntries g i t p w
    let x := lastEnd w es
    let cols := (g.edges.filterMap (fun e => if e.2 = i then some (taskAt g e.1) else none)).any (fun q => decide (q.res = t.a) && decide (spOutFmt q ≠ 0))
    result (es ++ entriesOn (bothHalves uSqu) opSqu none k (x + 11) (if cols then 41 else 25)) x 68
  else if t.kind = kLutGemv then
    let hs := halvesUp s 5
    let c := max (lgeCycles s hs.length g t) outC
    let es := entriesOn (hs.map uLge) opLge none k (w + 48) c
      ++ entriesOn (rangeUnitsOf s g t.b.toNat (extentB t)) opTransfer none k w c
      ++ entriesOn (bothHalves uSqu) opSqu none k (w + 48 + c + 2) 24
    result es (w + 48 + c) 50
  else if t.kind = kXlOp then
    let a := max (moveCycles s g t.a.toNat (extentA s t)) (moveCycles s g t.b.toNat (extentB t))
    let hs := halvesUp s 6
    let c := max (xlCycles hs.length t) (max a outC)
    let code := spTarget t != 0
    let es := entriesOn (hs.map uXl) opXl none k (w + 48) c
      ++ entriesOn ((rangeUnitsOf s g t.a.toNat (extentA s t) ++ rangeUnitsOf s g t.b.toNat (extentB t)).eraseDups) opTransfer none k w a
      ++ (if code then entriesOn (bothHalves uSqu) opSqu none k (w + 48 + 8) c else [])
    result es (w + 48 + c) (if code then 48 else 32)
  else if t.kind = kTransfer then
    let ms := transferMoves t list
    let c := (ms.map (fun m => max (moveCycles s g m.1 m.2.2) (moveCycles s g m.2.1 m.2.2))).sum
    let src := (ms.flatMap (fun m => rangeUnitsOf s g m.1 m.2.2)).eraseDups
    let dst := (ms.flatMap (fun m => rangeUnitsOf s g m.2.1 m.2.2)).eraseDups
    if c = 0 then ([], w + 1)
    else (entriesOn (src.filter (fun u => !dst.contains u)) opTransfer none k w c
            ++ entriesOn (dst.filter (fun u => !src.contains u)) opTransfer none k (w + 48) (max c hash)
            ++ entriesOn (dst.filter src.contains) opTransfer none k w (48 + max c hash), w + 48 + max c hash)
  else if t.kind = kCollective then
    let cd := collOf s g i
    let size := contribution t
    if t.d1 = 0 then ([], w + 1)
    else
      let c := phasesCycles s cd size
      let m := combineCycles s size
      let es := entriesOn ((List.range 4).map uOle) opLink none k w (c + (if settingReturns s cd then 6000 else 0))
      (es ++ entriesOn (bothHalves uSqu) opLink none k (w + c) (max m hash), w + c + max m hash)
  else if t.kind = kHarvest then
    let c := max (Config.harvestCycles t.d0.toNat t.d1.toNat) (max outC (moveCycles s g t.a.toNat (extentA s t)))
    result (entriesOn (bothHalves uSqu) opSqu none k (w + 48) c ++ entriesOn (rangeUnitsOf s g t.a.toNat (extentA s t)) opTransfer none k w c) (w + 48 + c) 24
  else
    let c := max 1 (max (moveCycles s g t.a.toNat (extentA s t)) (moveCycles s g out outN))
    (entriesOn [uLane t.lane.toNat] opLane none k w (48 + max c hash)
      ++ entriesOn ((rangeUnitsOf s g t.a.toNat (extentA s t) ++ rangeUnitsOf s g out outN).eraseDups) opTransfer none k w (48 + max c hash),
      w + 48 + max c hash)

/-! ### Placement (R176, R177, R186) -/

/-- Two entries want the same unit in the same work cycle; loads and refreshes of a stall run beside what its columns do (R54, R90). -/
def entriesClash (x y : AlmanacEntry) : Bool :=
  let loads (e : AlmanacEntry) : Bool := e.unit < 768 && (e.op == opLoad || e.op == opHoldRefresh)
  x.unit == y.unit && loads x == loads y && overlaps x.start x.len y.start y.len

/-- The stalls of the arcade of a logical stall (R32, R34): 32 to an arcade. -/
def arcadeOfLogical (l : Nat) : Nat := l / 32

/-- The entry drives planes or ramp fill through a stall's rows. -/
def drives (e : AlmanacEntry) : Bool := decide (e.unit < 768) && (e.op == opPass || e.op == opRampFill)

/-- Work cycles of `n` from `a` that lie in window `k` of 20,000. -/
def inWindow20k (k a n : Nat) : Nat := min (a + n) (20000 * (k + 1)) - max a (20000 * k)

/-- Windows of 20,000 work cycles of a page with this scheduled span (R186). -/
def rampWindows (span : Nat) : Nat := ceilDiv span 20000

/-- The activity of arcade `a` in window `k` under these entries, in stall work cycles of a whole window of 640,000 (R186; log 90): a window
that the span cuts short is scaled to a whole one. -/
def activityOf (span a k : Nat) (es : List AlmanacEntry) : Nat :=
  let used := ((es.filter (fun e => drives e && arcadeOfLogical e.unit == a)).map (fun e => inWindow20k k e.start e.len)).sum
  let len := inWindow20k k 0 span
  if len = 0 then 0 else used * 20000 / len

/-- The limit of R186 in stall work cycles: 0.01 of a window of an arcade. -/
def rampStep : Nat := 6400

/-- The entries leave every window of their arcades within reach of the activity before the page (R186): more than it by 0.01 for each window at most. -/
def rampAllows (span : Nat) (before : List Nat) (es : List AlmanacEntry) (new : List AlmanacEntry) : Bool :=
  ((new.filter drives).flatMap (fun e => (List.range ((e.start + e.len - 1) / 20000 - e.start / 20000 + 1)).map (fun j =>
    (arcadeOfLogical e.unit, e.start / 20000 + j)))).eraseDups.all (fun q =>
      decide (activityOf span q.1 q.2 (new ++ es) ≤ before.getD q.1 0 + rampStep * (q.2 + 1)))

/-- The first of the `f` numbers from `w` with property `p`. -/
def firstFrom (p : Nat → Bool) : Nat → Nat → Option Nat
  | 0, _ => none
  | f + 1, w => if p w then some w else firstFrom p f (w + 1)

/-- A task's placement in a page. -/
structure Placement where
  slot : Nat
  task : Nat
  start : Nat
  visible : Nat
  entries : List AlmanacEntry
  ranges : List (Nat × Nat × Bool)
deriving DecidableEq, Repr

/-- Two tasks have a byte that one of them writes and the other reads or writes (R21). -/
def rangesClash (xs ys : List (Nat × Nat × Bool)) : Bool :=
  xs.any (fun x => ys.any (fun y => (x.2.2 || y.2.2) && overlaps x.1 x.2.1 y.1 y.2.1))

/-- The ranges of a task as device addresses. -/
def deviceRanges (s : State) (g : Graph) (i : Nat) : List (Nat × Nat × Bool) :=
  (taskRanges s g i (taskAt g i)).flatMap (fun r => (pieces g r.1 r.2.1).map (fun p => (p.2.1, p.2.2, r.2.2)))

/-- Task `i` placed at the earliest work cycle from `lo` at which its whole footprint is free (R177), none where it would end after the span. -/
def placeTask (s : State) (span : Nat) (before : Option (List Nat)) (page : List Placement) (g : Graph) (i : Nat) (p : TaskPlan) (list : List Byte)
    (lo : Nat) : Option Placement :=
  let busy := page.flatMap (fun q => q.entries)
  let rs := deviceRanges s g i
  let at_ (w : Nat) : Placement :=
    let f := footprint s g i p list w
    { slot := g.slot, task := i, start := w, visible := f.2, entries := f.1, ranges := rs }
  let fits (w : Nat) : Bool :=
    let q := at_ w
    decide (max q.visible (lastEnd w q.entries) ≤ span)
      && q.entries.all (fun e => busy.all (fun b => !entriesClash e b))
      && page.all (fun b => !(overlaps w (q.visible - w) b.start (b.visible - b.start) && rangesClash rs b.ranges))
      && (match before with | some l => rampAllows span l busy q.entries | none => true)
  (firstFrom fits (span - lo) lo).map at_

/-- The work cycle from which every producer of task `i` is visible: 0 for those that have ended, none where one is not placed (R177). -/
def producersVisible (g : Graph) (page : List Placement) (done : Nat → Bool) (i : Nat) : Option Nat :=
  (g.edges.filter (fun e => e.2 = i)).foldl (fun (m : Option Nat) e =>
    if done e.1 then m
    else match m, page.find? (fun q => q.slot = g.slot ∧ q.task = e.1) with
      | some w, some q => some (max w q.visible)
      | _, _ => none) (some 0)

/-- Work cycles of the scheduled span of an epoch of `units` x 50 us: 0.98 of its nominal work cycles (R29, R183). -/
def spanOf (units : Nat) : Nat := units * 98000

/-- The slowest eligible plan of a pass group (check 12 of R169): the warm set at n = 16. -/
def slowestPlan (s : State) (t : Task) : TaskPlan := { mset := warmSet (tdWfmt t), n := 16, served := servedLogical s }

/-- Task `i` fits one scheduled span on its own (check 12 of R169). -/
def fitsSpan (s : State) (g : Graph) (i : Nat) : Bool :=
  let t := taskAt g i
  let list := if t.kind = kTransfer ∧ tdList t then taskBytes s g t.a.toNat (32 * t.d0.toNat) else []
  let f := footprint s g i (slowestPlan s t) list 0
  decide (max f.2 (lastEnd 0 f.1) ≤ spanOf s.tsl.len.toNat)

/-- Tasks upstream of some collective among `ts`, in the order of `ts` (R252). -/
def beforeCollectives (g : Graph) (ts : List Nat) : List Nat :=
  let cs := ts.filter (fun t => (taskAt g t).kind == kCollective)
  ts.filter (fun t => cs.any (fun c => c != t && (upstream g c).contains t))

/-- Every task upstream of a collective of the graph is visible by its rendezvous cycle when they are placed, in list order, before all others (R252). -/
def rendezvousKept (s : State) (g : Graph) : Bool :=
  let span := spanOf s.tsl.len.toNat
  let ups := beforeCollectives g g.order
  let page := ups.foldl (fun (m : Option (List Placement)) i =>
    m.bind (fun page =>
      let t := taskAt g i
      let list := if t.kind = kTransfer ∧ tdList t then taskBytes s g t.a.toNat (32 * t.d0.toNat) else []
      let lo := (producersVisible g page (fun _ => false) i).map (fun w => if t.kind = kCollective then max w (cdRendezvous (collOf s g i)) else w)
      (lo.bind (placeTask s span none page g i (slowestPlan s t) list)).map (fun q => page ++ [q]))) (some [])
  match page with
  | none => false
  | some page =>
    (g.order.filter (fun c => (taskAt g c).kind == kCollective && (taskAt g c).d1 != 0)).all (fun c =>
      page.all (fun q => q.task == c || !(upstream g c).contains q.task || decide (q.visible ≤ cdRendezvous (collOf s g c))))

end Sys2Proof.Machine
end

