-- ==== Sys2Proof/Machine/Slots.lean ====
section
/-! DEFINITION. The module's keys, and firmware slots: switch, trial, commit and revert, and the measured-boot chain (R409 to R411, R415, R416,
R422 to R425). -/

namespace Sys2Proof.Machine

/-! ### Keys (R409 to R411) -/

/-- The bytes of a label. -/
def ascii (t : String) : List Byte := t.toList.map (fun c => BitVec.ofNat 8 c.toNat)

/-- The derivation seed of a key: the digest of the device seed with the key's label and what follows it (R409). -/
def keySeed (label : String) (rest : List Byte) : BitVec 256 := Config.shake256 (le 32 Config.deviceSeed.toNat ++ ascii label ++ rest)

/-- The identity key, the record key and the ledger key of slot `k` (R409; log 92). -/
def identitySeed : BitVec 256 := keySeed "MX512 IDENTITY" []
def recordSeed : BitVec 256 := keySeed "MX512 RECORD" []
def ledgerSeed (k : Nat) : BitVec 256 := keySeed "MX512 LEDGER" [BitVec.ofNat 8 k]

/-- The reconstructed identity public key matches the certificate (R411). -/
def identityMatches : Bool := Config.falconPublic identitySeed == Config.certifiedKey

/-- The device ID: the first 16 bytes of the digest of the identity public key (R410). -/
def deviceBytes : List Byte := (le 32 (Config.shake256 (le 1793 Config.certifiedKey.toNat)).toNat).take 16

/-- The identity certificate (R410). -/
def certificate : List Byte :=
  deviceBytes ++ le 4 1 ++ le 8 Config.caKeyId.toNat ++ zeros 36 ++ le 1793 Config.certifiedKey.toNat ++ zeros 7 ++ le 1280 Config.caSignature.toNat

/-- A Woryomel key is used only after its digest matches the one in mask ROM (R411). -/
def keyTrusted (signer : Nat) : Bool := Config.shake256 (le 1793 (Config.publicKey signer).toNat) == Config.romDigest signer

/-! ### Components (R415) -/

/-- Firmware component `c`. -/
def fwOf (s : State) (c : Nat) : FwSlot := s.msc.fw.getD c {}

/-- Component `c` changed by `f`. -/
def modFw (c : Nat) (f : FwSlot → FwSlot) (s : State) : State := { s with msc := { s.msc with fw := update s.msc.fw c f } }

/-- Index of a slot in the lists of a component: 0 A, 1 B. -/
def fwIndex (b : Bool) : Nat := if b then 1 else 0

/-- The numerics edition in force: that of the active sequencer microcode (R3, R423). -/
def edition (s : State) : Nat := ((fwOf s 1).edition.getD (fwIndex (fwOf s 1).active) 1).toNat

/-- The chain extended by a component, a slot and a digest (R416). -/
def extendChain (c slot : Nat) (digest chain : List Byte) : List Byte :=
  le 32 (Config.shake256 (chain ++ [BitVec.ofNat 8 c, BitVec.ofNat 8 slot] ++ fit 32 digest)).toNat

/-- The digest of the signed records in force, concatenated in flash order: factory, configuration and counter records (R414, R416). -/
def recordsDigest (s : State) : List Byte :=
  let r := s.msc.records
  let z := r.filter (fun q => q.1 = 6) ++ r.filter (fun q => decide (q.1 ≠ 6) && decide (q.1 ≠ 4)) ++ r.filter (fun q => q.1 = 4)
  le 32 (Config.shake256 (z.flatMap (fun q => q.2.2))).toNat

/-- The chain that a measured boot ends with: component 0, the records in force, then components 1 to 4 (R416). -/
def bootChain (s : State) : List Byte :=
  let slot (c : Nat) (b : List Byte) : List Byte :=
    let f := fwOf s c
    extendChain c (fwIndex f.active) (f.digest.getD (fwIndex f.active) []) b
  [1, 2, 3, 4].foldl (fun b c => slot c b) (extendChain 5 0xFF (recordsDigest s) (slot 0 (zeros 32)))

/-! ### Signed records (R412 to R414, R425) -/

/-- Highest SR_SEQUENCE in force of a kind. -/
def recordSequence (s : State) (kind : Nat) : Nat := (assoc kind s.msc.configSeqs).getD 0

/-- A record put in force in the place of the one of its kind and key. -/
def putRecord (kind key seq : Nat) (bytes : List Byte) (s : State) : State :=
  { s with msc := { s.msc with
      records := s.msc.records.filter (fun r => !(decide (r.1 = kind) && decide (r.2.1 = key))) ++ [(kind, key, bytes)]
      configSeqs := insertKey kind (max seq (recordSequence s kind)) s.msc.configSeqs } }

/-- A record that the module signs with its record key: kinds 0x0004 and 0x0005 (R412 to R414). -/
def moduleRecord (kind : Nat) (body : List Byte) (s : State) : State :=
  let seq := recordSequence s kind + 1
  let b := le 2 kind ++ le 2 4 ++ le 4 (32 + body.length + 1280) ++ le 8 seq ++ deviceBytes ++ body
  putRecord kind 0 seq (b ++ le 1280 (Config.falconSign recordSeed b).toNat) s

/-- The counter of component `c` raised to `sec`, if that is above it, with a counter record and MSC_COMMITTED (R413, R425). -/
def commitCounter (c : Nat) (sec : Word) (s : State) : State :=
  let s := modFw c (fun f => { f with counter := if f.counter.toNat < sec.toNat then sec else f.counter }) s
  raise .msc 19 {} (moduleRecord 4 ((List.range 6).flatMap (fun k => le 4 (fwOf s k).counter.toNat)) s)

/-- A firmware journal record: action, component, slot, version, security version and digest (R427). -/
def journalFirmware (action c slot version security : Nat) (digest : List Byte) (s : State) : State :=
  journalOne ([0x73, BitVec.ofNat 8 action, BitVec.ofNat 8 c, BitVec.ofNat 8 slot] ++ le 4 version)
    (le 4 security ++ fit 16 digest) s

/-- A firmware journal record of a component's slot. -/
def journalSlot (action c : Nat) (slot : Bool) (s : State) : State :=
  let f := fwOf s c
  let i := fwIndex slot
  journalFirmware action c i (f.version.getD i 0).toNat (f.security.getD i 0).toNat (f.digest.getD i []) s

/-- The MSC core begins a restart (R404, R415). -/
def mscRestart (s : State) : State := { s with msc := { s.msc with running := false, restartAt := now s } }

/-- The switch of component `c` to its verified slot, and the start of its trial of 60 s (R424). -/
def switchComponent (c : Nat) (s : State) : State :=
  let f := fwOf s c
  let other := !f.active
  let s := modFw c (fun f => { f with active := other, pending := none, editionWait := false, trial := some (now s + 60000000000) }) s
  let s := { s with msc := { s.msc with chain := extendChain c (fwIndex other) (f.digest.getD (fwIndex other) []) s.msc.chain } }
  let s := journalSlot 1 c other (raise .msc 18 {} s)
  if c = 0 then mscRestart s else s

/-- A trial failure of component `c` (R424): the previous slot is active again. -/
def trialRevert (c : Nat) (s : State) : State :=
  let f := fwOf s c
  if f.trial.isNone then s
  else
    let s := modFw c (fun f => { f with active := !f.active, trial := none }) s
    let s := journalSlot 3 c (!f.active) (raise .msc 20 {} s)
    if c = 0 then mscRestart s else s

/-- TRIAL_END (R425): the trial of `c` ends without a failure and its counter commits. -/
def execTrialEnd (c : Nat) (s : State) : Out :=
  match (fwOf s c).trial with
  | none => .next s
  | some t =>
    let s := advanceTo t s
    let f := fwOf s c
    let sec := f.security.getD (fwIndex f.active) 0
    let s := modFw c (fun f => { f with trial := none }) s
    .next (journalSlot 2 c f.active (commitCounter c sec s))

/-- The edition of the image in a component's inactive slot, and whether that slot is verified. -/
def waitingEdition (s : State) (c : Nat) : Nat := ((fwOf s c).edition.getD (fwIndex (!(fwOf s c).active)) 1).toNat
def waitingVerified (s : State) (c : Nat) : Bool := if (fwOf s c).active then (fwOf s c).aValid else (fwOf s c).bValid

/-- The three conditions of R423: components 0 and 1 both have a verified inactive slot of the new edition, and no graph is resident. -/
def editionReady (s : State) : Bool :=
  waitingVerified s 0 && waitingVerified s 1 && waitingEdition s 0 == waitingEdition s 1 && waitingEdition s 0 != edition s
    && s.seq.graphs.isEmpty

/-- A component whose switch is due at a boundary: pending, and its earliest time has come (R422); an image of another edition only under
R423. -/
def switchDue (s : State) (c : Nat) : Bool :=
  match (fwOf s c).pending with
  | some t => decide (t ≤ now s) && decide (c ≤ 3) && (waitingEdition s c == edition s || (decide (c ≤ 1) && editionReady s))
  | none => false

/-- Components that waited under R423 and need not any more are scheduled: 0 and 1 together, and 2 and 3 of the same edition with them. -/
def editionSchedule (earliest : Nat) (s : State) : State :=
  let ready := editionReady s && ((fwOf s 0).editionWait || (fwOf s 1).editionWait)
  let s := if ready then each [0, 1] (fun c s => modFw c (fun f => { f with editionWait := false, pending := some (f.pending.getD earliest) }) s) s
    else s
  each [2, 3] (fun c s =>
    if (fwOf s c).editionWait && (waitingEdition s c == edition s || (editionReady s && waitingEdition s c == waitingEdition s 1)) then
      modFw c (fun f => { f with editionWait := false, pending := some earliest }) s
    else s) s

/-- The switches of a boundary (R422 to R424, R431): component 3 waits while a collective phase runs. -/
def firmwareBoundary (s : State) : State :=
  let s := editionSchedule 0 s
  each [1, 2, 3, 0] (fun c s =>
    if switchDue s c && !(c == 3 && s.ole.coll.isSome) then switchComponent c s else s) s

/-- The switch of the memory-training firmware, at a training (R415). -/
def firmwareTraining (s : State) : State :=
  match (fwOf s 4).pending with
  | some t => if t ≤ now s then switchComponent 4 s else s
  | none => s

end Sys2Proof.Machine
end

