-- ==== Sys2Proof/Machine/Graphs.lean ====
section
/-! DEFINITION. Admission of graphs: the checks of R169 in their order, the order list, the unit table and residence
(R87, R120, R145, R146, R163 to R173, R204, R214, R225, R229, R248 to R250). -/

namespace Sys2Proof.Machine

/-- What an admission check answers: nothing, or a status with the detail word of R168. -/
abbrev Refuse := Option (BitVec 16 × Nat)

/-- A refusal by check `n` with the low 24 bits of its detail word, saturating (R168). -/
def refuse (st : BitVec 16) (n d : Nat) : Refuse := some (st, n * 2 ^ 24 + (if d ≤ 0xFFFFFF then d else 0xFFFFFF))

/-- `refuse` where the condition fails. -/
def demand (ok : Bool) (st : BitVec 16) (n d : Nat) : Refuse := if ok then none else refuse st n d

/-- The first refusal of a list of checks. -/
def firstRefusal (cs : List Refuse) : Refuse := cs.findSome? id

/-! ### The descriptor and its tables -/

/-- The fields of a graph descriptor that admission reads beside `graphOf` (R163). -/
structure Desc where
  addr : Nat
  bytes : List Byte
  version : Nat
  tasks : Nat
  edges : Nat
  taskTable : Nat
  edgeTable : Nat
  epochUs : Nat
deriving DecidableEq, Repr

/-- The graph descriptor at an address. -/
def descAt (s : State) (a : Nat) : Desc :=
  let b := readBytes s a 64
  { addr := a, bytes := b, version := field b 0 1, tasks := field b 8 4, edges := field b 12 4, taskTable := field b 16 8
    edgeTable := field b 24 8, epochUs := field b 56 4 }

/-- The places that `n` bytes from `a` meet, one for each 64-byte block they touch: places change only between blocks. -/
def blockPlaces (s : State) (a n : Nat) (write : Bool) : List Place :=
  if n = 0 then []
  else (List.range ((a + n - 1) / 64 - a / 64 + 1)).map (fun i => place s (max a (64 * (a / 64 + i))) write)

/-- A range lies in memory in service, in the direction named (R217). -/
def inService (s : State) (a n : Nat) (write : Bool) : Bool := (blockPlaces s a n write).all placeServes

/-- The 64 bytes of task descriptor `t`. -/
def taskDesc (s : State) (d : Desc) (t : Nat) : List Byte := readBytes s (d.taskTable + 64 * t) 64

/-- The tasks of the task table. -/
def readTasks (s : State) (d : Desc) : List Task := (List.range d.tasks).map (fun t => taskOf (taskDesc s d t))

/-- The edges of the edge table: producer, consumer; a repeated edge counts once (R167). -/
def readEdges (s : State) (d : Desc) : List (Nat × Nat) :=
  ((List.range d.edges).map (fun i =>
    let b := readBytes s (d.edgeTable + 4 * i) 4
    (field b 0 2, field b 2 2))).eraseDups

/-- Bytes of the image header block: its first 4-byte word (R204). -/
def imageBytes (s : State) (image : Nat) : Nat := readNat s image 4

/-! ### Order (R172, R173) -/

/-- The own priority of a task (R172). -/
def ownPriority (s : State) (g : Graph) (t : Task) : Nat :=
  if t.lane ≠ 0xFF then (laneAt s t.lane.toNat).priority.toNat else if t.prio ≠ 0xFF then t.prio.toNat else g.priority

/-- The own deadline of a task; 2^64 stands for infinity. -/
def ownDeadline (t : Task) : Nat := if t.deadline = 0 then 2 ^ 64 else t.deadline.toNat

/-- `x` goes before `y`: the lesser key (P, D, index). -/
def keyBefore (x y : Nat × Nat × Nat) : Bool :=
  decide (x.1 < y.1) || (x.1 == y.1 && (decide (x.2.1 < y.2.1) || (x.2.1 == y.2.1 && decide (x.2.2 ≤ y.2.2))))

/-- Kahn's algorithm: `keys` gives each task's key, `left` the tasks not yet taken (R173). -/
def kahn (edges : List (Nat × Nat)) (keys : List (Nat × Nat × Nat)) : Nat → List Nat → List Nat
  | 0, _ => []
  | f + 1, left =>
    let ready := left.filter (fun t => edges.all (fun e => e.2 != t || !left.contains e.1))
    match sortBy keyBefore (ready.map (fun t => keys.getD t (0, 0, t))) with
    | [] => []
    | k :: _ => k.2.2 :: kahn edges keys f (left.filter (fun t => t ≠ k.2.2))

/-- The effective priority and deadline of every task (R172), successors before producers. -/
def effectiveKeys (s : State) (g : Graph) (tasks : List Task) (edges : List (Nat × Nat)) (topo : List Nat) : List (Nat × Nat × Nat) :=
  let own := (List.range tasks.length).map (fun t =>
    let x := tasks.getD t {}
    (ownPriority s g x, ownDeadline x, t))
  topo.reverse.foldl (fun (ks : List (Nat × Nat × Nat)) t =>
    let k := ks.getD t (0, 0, t)
    let succ := edges.filterMap (fun e => if e.1 = t then some (ks.getD e.2 (0, 0, 0)) else none)
    update ks t (fun _ => (succ.foldl (fun m c => min m c.1) k.1, succ.foldl (fun m c => min m c.2.1) k.2.1, t))) own

/-- Some order in which producers come before consumers; shorter than the tasks where there is a cycle. -/
def anyOrder (n : Nat) (edges : List (Nat × Nat)) : List Nat :=
  kahn edges ((List.range n).map (fun t => (0, 0, t))) n (List.range n)

/-! ### Check 9: kinds, dimensions, formats and lanes (R146, R165, R170, R248, R462, R464) -/

/-- Operator codes whose TD_B is not read (R462). -/
def xlNoB (op : Nat) : Bool := op == 10 || op == 11 || op == 14 || op == 15

/-- An XL element format code that is listed. -/
def xlFmtListed (f : Nat) : Bool := f ≤ 2 || (4 ≤ f && f ≤ 12)

/-- An XL_OP is well formed (R170, R462). -/
def xlValid (t : Task) : Bool :=
  let op := xlOp t
  let dot := op == 1 || op == 2
  1 ≤ op && op ≤ 15
    && bits t.d0 15 8 == 0 && (if dot then xlVectors t != 0 else bits t.d0 31 16 == 0)
    && t.d1 != 0 && t.d2 != 0
    && bits t.fmt 7 1 == 0 && bits t.fmt 15 9 == 0 && bits t.fmt 31 25 == 0
    && xlFmtListed (xlFmtA t) && xlFmtListed (xlFmtB t)
    && (op == 1 || (!xlCodes (xlFmtA t) && !xlCodes (xlFmtB t)))
    && (!xlNoB op || t.b == 0)
    && !(op == 10 && bit t.fmt 0)

/-- The moves of a TRANSFER that move something (R170), by destination and length. -/
def transferDests (s : State) (g : Graph) (t : Task) : List (Nat × Nat) :=
  if tdList t then (admittedList s g t).map (fun e => (e.2.1, e.2.2)) else [(t.res.toNat, t.d0.toNat)]

/-- A TRANSFER is well formed (R165, R464). -/
def transferValid (s : State) (g : Graph) (t : Task) : Bool :=
  bits t.d1 31 2 == 0
    && (if tdWeightLoad t then
          let k := bits t.fmt 31 8
          bits t.fmt 7 4 == 0 && (wfmtOf (bits t.fmt 3 0)).isSome && k != 0 && t.d2 != 0
            && (transferDests s g t).all (fun d => d.2 == 0 || d.2 == weightLen (tdWfmt t) k t.d2.toNat d.1)
        else t.fmt == 0)

/-- A COLLECTIVE's fields are listed values (R248). -/
def collectiveValid (s : State) (t : Task) : Bool :=
  let op := bits t.d0 7 0
  let root := bits t.d0 11 8
  let f := t.d2.toNat
  bits t.d0 31 12 == 0 && 1 ≤ op && op ≤ 5
    && (if op == 5 then decide (root < s.ole.size.toNat) else root == 0)
    && 1 ≤ f && f ≤ 5 && (f != 5 || op == 4 || op == 5)

/-- The address lies in a host window (R347). -/
def inWindow (a : DWord) : Bool := decide (windowBase ≤ a.toNat)

/-- The activations of LUT_GEMV task `i` are INT8 as far as the graph says (R146): a task of it that converts them names the INT8 target. -/
def activationsInt8 (g : Graph) (i : Nat) : Bool :=
  match producerOf g i with
  | some p =>
    !(p.kind == kPassGroup || p.kind == kLutGemv || p.kind == kXlOp || p.kind == kHarvest) || spTarget p == 4
  | none => true

/-- A task's kind, dimensions, formats and lane are valid (check 9 of R169). -/
def taskValid (s : State) (g : Graph) (i : Nat) (t : Task) : Bool :=
  bits (t.flags.setWidth 32) 7 3 == 0
    && (t.prio.toNat ≤ 7 || t.prio == 0xFF) && (t.lane.toNat < 48 || t.lane == 0xFF)
    && !inWindow t.a && !inWindow t.b
    && (if t.kind = kPassGroup then
          t.d0 != 0 && t.d1 != 0 && t.d2 != 0 && bits t.fmt 15 8 == 0
            && (match wfmtOf (bits t.fmt 3 0) with | some f => bits t.fmt 7 4 == wfmtActBits f | none => false)
        else if t.kind = kLutGemv then
          t.d0 != 0 && t.d1 != 0 && t.d2 != 0 && t.d2.toNat ≤ 8 && (wfmtOf t.fmt.toNat).isSome && activationsInt8 g i
        else if t.kind = kXlOp then xlValid t
        else if t.kind = kTransfer then transferValid s g t
        else if t.kind = kCollective then collectiveValid s t
        else if t.kind = kHarvest then t.d0 != 0 && t.d1 != 0
        else if t.kind = kLaneIn ∨ t.kind = kLaneOut then t.d0 != 0 && t.lane != 0xFF
        else false)

/-! ### Check 10: scale policies (R108, R121, R146, R165, R166) -/

/-- SP_TARGET is a listed value. -/
def targetListed (t : Nat) : Bool := [0x01, 0x02, 0x03, 0x04, 0x10, 0x11, 0x12, 0x13, 0x14, 0x20, 0x21, 0x22].contains t

/-- A list of columns is ascending, below `n`, with at most one in each chunk of 64. -/
def outliersAscend (n : Nat) : List Nat → Bool
  | [] => true
  | [a] => decide (a < n)
  | a :: b :: r => decide (a < b) && decide (a / 64 < b / 64) && outliersAscend n (b :: r)

/-- A task's scale policy is valid (check 10). -/
def policyValid (s : State) (g : Graph) (t : Task) : Bool :=
  let tg := spTarget t
  let byte1 := field t.policy 1 1
  if tg = 0 then t.policy.all (fun b => b == 0) && t.kind != kHarvest
  else
    targetListed tg && field t.policy 3 1 == 0 && spOutFmt t ≤ 2 && spRecords t % 16 == 0
      && (t.kind == kPassGroup || t.kind == kLutGemv || t.kind == kXlOp || t.kind == kHarvest)
      && !(t.kind == kXlOp && xlOp t == 10) && (t.kind != kHarvest || targetScaled tg)
      && spMode t != 3 && (targetIsAct tg || spMode t == 0)
      && (!spPerTensor t || targetIsAct tg || tg == 4)
      && (targetScaled tg || byte1 == 0)
      && (if spRunning t then
            spPerTensor t && spMode t != 2 && (targetIsAct tg || tg == 4) && fpFinite (spInit t)
              && (!fpNeg (spInit t) || fpIsZero (spInit t))
          else spInit t == 0)
      && (if spOutliers t == 0xFFFFFFFF then true
          else if t.kind == kLutGemv then false
          else
            let l := rawOutliers s g t
            l.isEmpty || (targetIsAct tg && spOutFmt t != 0 && outliersAscend (resultShape t).2 l))

/-! ### Check 11: accumulation ranges (R87, R145) -/

/-- Largest weight magnitude of a format (R145). -/
def wfmtMaxMag : WFmt → Nat
  | .nb4 => 12 | .int4 => 8 | .int3 => 4 | .int2 => 2 | .ternary => 1

/-- A matrix task's sums stay in 32-bit range. -/
def accumFits (t : Task) : Bool :=
  if t.kind = kPassGroup then decide (chunkCount t * wfmtChunkMax (tdWfmt t) ≤ 2147483647)
  else if t.kind = kLutGemv then decide (t.d0.toNat * 128 * wfmtMaxMag (tdWfmt t) ≤ 2147483647)
  else true

/-! ### Checks 14 and 15: memory and staging -/

/-- A range that starts in staging, and so is held against the allotment; a TRANSFER list that runs on past the common bank is still
held against its common allotment (the example of R171). -/
def stagingRange (r : Nat × Nat × Bool) : Bool := decide (stagingBase ≤ r.1) && decide (r.1 < stagingEnd)

/-- Units of 64 KiB a range needs in its bank: bank and units from the bank's start. -/
def rangeUnits (r : Nat × Nat × Bool) : Nat × Nat :=
  let p := stagingBank r.1
  (p.1, (p.2 + r.2.1 + 65535) / 65536)

/-- Units of bank `k` held by resident graphs. -/
def unitsTaken (s : State) (k : Nat) : List Nat := s.seq.graphs.flatMap (fun g => g.units.getD k [])

/-- Units of a bank in the order admission takes them: E0's half of the common bank first (R225). -/
def bankUnits (k : Nat) : List Nat := List.range (if k < 24 then 256 else 1024)

/-- The staging units that the bytes cover, as (bank, unit). -/
def coveredUnits (a n : Nat) : List (Nat × Nat) :=
  if n = 0 ∨ a < stagingBase ∨ stagingEnd < a + n then []
  else (List.range ((a + n - 1) / 65536 - a / 65536 + 1)).map (fun i =>
    let p := stagingBank (max a ((a / 65536 + i) * 65536))
    (p.1, p.2 / 65536))

/-- Units claimed by rings that lie in staging, held as graph units are (R330), each in the bank it lies in. -/
def ringUnits (s : State) (k : Nat) : List Nat :=
  s.hif.rings.flatMap (fun q =>
    if q.2.state = .disabled then []
    else ((coveredUnits q.2.base (64 * q.2.capacity)).filter (fun u => u.1 = k)).map (fun u => u.2))

/-- Free units of a bank. -/
def freeUnits (s : State) (k : Nat) : List Nat :=
  (bankUnits k).filter (fun u => !(unitsTaken s k).contains u && !(ringUnits s k).contains u)

/-- The allotment of a graph in bank `k`. -/
def allotOf (g : Graph) (k : Nat) : Nat := if k < 24 then g.arcadeAllot else g.commonAllot

/-- The unit table of a graph being admitted (R225). -/
def unitTableOf (s : State) (g : Graph) : List (List Nat) :=
  (List.range 25).map (fun k =>
    if k < 24 then (freeUnits s k).take (allotOf g k)
    else
      let n := allotOf g k
      let e0 := ((freeUnits s k).filter (fun u => u < 512)).take ((n + 1) / 2)
      e0 ++ ((freeUnits s k).filter (fun u => 512 ≤ u)).take (n / 2))

/-- Units short of a graph's allotments. -/
def unitsShort (s : State) (g : Graph) : Nat :=
  ((List.range 25).map (fun k => allotOf g k - ((unitTableOf s g).getD k []).length)).sum

/-! ### Check 16: scale registers (R120) -/

/-- Channels of a conversion task. -/
def channelsOf (t : Task) : Nat := if spPerTensor t then 1 else (resultShape t).1

/-- Running-maximum and harvest registers a task needs on a die: the first half of its channels, rounded up, on E0. -/
def regNeed (die : Nat) (t : Task) : Nat × Nat :=
  if !targetScaled (spTarget t) then (0, 0)
  else
    let c := channelsOf t
    let n := if die = 0 then (c + 1) / 2 else c / 2
    if spRunning t then (n, 0) else (0, n)

/-- Registers short on a die for these tasks. -/
def regsShort (die : Nat) (ts : List Task) : Nat :=
  (ts.map (fun t => (regNeed die t).1)).sum + (ts.map (fun t => (regNeed die t).2)).foldl max 0 - 8192

/-! ### Check 17: rings (R171, R214, R335) -/

/-- Completion entries of one run. -/
def runEntries (g : Graph) : Nat :=
  1 + (g.tasks.map (fun t =>
    if t.kind == kTransfer && tdList t && tdEach t then t.d0.toNat else bool (tdCompletion t))).sum

/-- Tagged tasks. -/
def taggedTasks (g : Graph) : Nat := (g.tasks.filter tdTag).length

/-- Ledger entries one run can cause (R214). -/
def ledgerEntries (s : State) (g : Graph) : Nat :=
  let t := taggedTasks g
  let b := (ringOf s g.ledgerRing).batchB
  if t = 0 then 0 else 2 * t + 22 * ((t + b - 1) / b + 1)

/-- The size check 17 counts for a ring (R335). -/
def ringSize (s : State) (i : Nat) (ty : RingType) : Nat :=
  let r := ringOf s i
  if i < 16384 ∧ r.state = .enabled ∧ r.type = ty then r.capacity else 0

/-! ### Check 18: lanes -/

/-- A graph has a LANE_OUT task on a lane. -/
def bindsOut (g : Graph) (n : Nat) : Bool := g.tasks.any (fun t => t.kind == kLaneOut && t.lane.toNat == n)

/-- A task's lane is as check 18 demands. -/
def laneFits (s : State) (t : Task) : Bool :=
  if t.lane = 0xFF then true
  else
    let l := laneAt s t.lane.toNat
    l.en && (if t.kind = kLaneIn then !l.dir && decide (2 * t.d0.toNat ≤ l.units.toNat)
             else if t.kind = kLaneOut then
               l.dir && decide (2 * t.d0.toNat ≤ l.units.toNat) && !s.seq.graphs.any (fun g => bindsOut g t.lane.toNat)
             else true)

/-! ### The checks -/

/-- The group is LINKED (R244): a group of one always is. -/
def linked (s : State) : Bool :=
  s.ole.size = 1 || (List.range s.ole.size.toNat).all (fun i => i == s.ole.index.toNat || s.ole.reached.toNat.testBit i)

/-- A per-task check: the first task that fails gives its index. -/
def eachTask (g : Graph) (ok : Nat → Task → Bool) (st : BitVec 16) (n : Nat) : Refuse :=
  match ((List.range g.tasks.length).zip g.tasks).find? (fun p => !ok p.1 p.2) with
  | some p => refuse st n p.1
  | none => none

/-- The tables of a descriptor lie in memory in service and are read without a persistent error (check 2). -/
def tablesServe (s : State) (d : Desc) : Bool :=
  let image := field d.bytes 32 8
  let reads (a n : Nat) : Bool := inService s a n false && !s.seq.admitBad.any (fun b => decide (a ≤ b) && decide (b < a + n))
  reads d.taskTable (64 * d.tasks)
    && (d.edges == 0 || reads d.edgeTable (4 * d.edges))
    && reads image 4 && reads image (imageBytes s image)

/-- Check 2 of R169; the graph being admitted again is not resident for its own ID. -/
def descValid (s : State) (d : Desc) : Bool :=
  let b := d.bytes
  d.version == 1 && d.addr % 64 == 0 && d.taskTable % 64 == 0 && (d.edges == 0 || d.edgeTable % 4 == 0)
    && field b 51 1 == 0 && field b 60 4 == 0
    && !s.seq.graphs.any (fun g => g.id == BitVec.ofNat 32 (field b 4 4))
    && field b 50 1 ≤ 7 && field b 40 2 ≤ 256 && field b 42 2 ≤ 1024
    && inService s d.addr 64 false && tablesServe s d

/-- The graph of a descriptor, with its tasks, edges, order and unit table as admission would fix them. -/
def candidate (s : State) (d : Desc) : Graph :=
  let g := graphOf d.addr d.bytes
  let tasks := readTasks s d
  let edges := readEdges s d
  let g := { g with tasks := tasks, edges := edges, header := readBytes s g.image.toNat (imageBytes s g.image.toNat) }
  let keys := effectiveKeys s g tasks edges (anyOrder tasks.length edges)
  let order := kahn edges keys tasks.length (List.range tasks.length)
  let tasks := ((List.range tasks.length).zip tasks).map (fun p =>
    let k := keys.getD p.1 (0, 0, 0)
    { p.2 with effP := k.1, effD := k.2.1 })
  let g := { g with tasks := tasks, order := order }
  { g with units := unitTableOf s g }

/-- Checks 1 to 6 of R169. -/
def checksShape (s : State) (d : Desc) : Refuse :=
  let b := d.bytes
  firstRefusal [
    demand (running s) Status.notReady 1 0,
    demand (descValid s d) Status.graphMalformed 2 0,
    demand (field b 1 1 == edition s) Status.editionMismatch 3 0,
    demand (linked s && field b 2 1 == s.ole.size.toNat && field b 3 1 == s.ole.index.toNat) Status.moduleCount 4 0,
    demand (d.tasks != 0) Status.graphEmpty 5 0,
    demand (d.tasks ≤ 65536 && d.edges ≤ 1048576
      && (readEdges s d).all (fun e => decide (e.1 < d.tasks) && decide (e.2 < d.tasks) && e.1 != e.2)) Status.graphMalformed 6 0]

/-- Checks 1 to 8 of R169. -/
def checksFirst (s : State) (d : Desc) : Refuse :=
  match checksShape s d with
  | some r => some r
  | none =>
    firstRefusal [
      demand ((anyOrder d.tasks (readEdges s d)).length == d.tasks) Status.graphCycle 7 0,
      demand (d.epochUs == s.tsl.len.toNat * 50) Status.epochInvalid 8 0]

/-- What the image digest is taken of (R204): the descriptor with the fields outside it as zeros, the tables and the image. -/
def graphBytes (s : State) (d : Desc) : List Byte :=
  let z (i n : Nat) (b : List Byte) : List Byte := b.take i ++ zeros n ++ b.drop (i + n)
  let image := field d.bytes 32 8
  let g := z 48 2 (z 46 2 (z 44 2 (z 4 4 (z 3 1 d.bytes))))
  g ++ readBytes s d.taskTable (64 * d.tasks) ++ readBytes s d.edgeTable (4 * d.edges) ++ readBytes s image (imageBytes s image)

/-- The image digest (R204). -/
def imageDigest (s : State) (d : Desc) : List Byte := le 32 (Config.shake256 (graphBytes s d)).toNat

/-- Checks 9 to 13 of R169, on the tasks. -/
def checksTasks (s : State) (g : Graph) : Refuse :=
  firstRefusal [
    demand (if g.period = 0 then g.phase == 0 else decide (g.phase < g.period)) Status.taskParam 9 0,
    eachTask g (fun i t => taskValid s g i t && (t.kind != kCollective || collectiveTraced s g i (spanOf s.tsl.len.toNat))) Status.taskParam 9,
    eachTask g (fun _ t => policyValid s g t) Status.qpolicyInvalid 10,
    eachTask g (fun _ t => accumFits t) Status.accumRange 11,
    eachTask g (fun i t => fitsSpan s g i && !(t.kind == kPassGroup && stallsInService s == 0)) Status.epochSpan 12,
    demand (rendezvousKept s g) Status.epochSpan 12 0,
    demand (s.seq.graphs.length < 256) Status.graphSlots 13 1]

/-- Checks 14 to 18 of R169, on resources. -/
def checksResources (s : State) (g : Graph) : Refuse :=
  let ranges := ((List.range g.tasks.length).zip g.tasks).flatMap (fun p => taskRanges s g p.1 p.2)
  let staging := ranges.filter stagingRange
  let beyond := ((List.range 25).map (fun k =>
    ((staging.map rangeUnits).foldl (fun m u => if u.1 = k then max m u.2 else m) 0) - allotOf g k)).sum
  let kernels := (g.tasks.map (fun t =>
    if t.kind = kPassGroup then Config.stagingShort g.header (bits t.fmt 31 16) g.arcadeAllot g.commonAllot else 0)).foldl max 0
  let ts := g.tasks ++ s.seq.graphs.flatMap (fun q => q.tasks)
  let entries := runEntries g
  let ledger := ledgerEntries s g
  firstRefusal [
    eachTask g (fun i t => (taskRanges s g i t).all (fun r => stagingRange r || inService s r.1 r.2.1 r.2.2)) Status.memorySpace 14,
    demand (unitsShort s g == 0) Status.stagingSpace 15 (unitsShort s g),
    demand (beyond == 0) Status.stagingSpace 15 beyond,
    demand (kernels == 0) Status.stagingSpace 15 kernels,
    demand (max (regsShort 0 ts) (regsShort 1 ts) == 0) Status.scaleSpace 16 (max (regsShort 0 ts) (regsShort 1 ts)),
    demand (entries ≤ ringSize s g.compRing .completion) Status.ringSpace 17 (entries - ringSize s g.compRing .completion),
    demand (ledger ≤ ringSize s g.ledgerRing .ledger) Status.ringSpace 17 (ledger - ringSize s g.ledgerRing .ledger),
    (match g.tasks.find? (fun t => !laneFits s t) with | some t => refuse Status.laneBusy 18 t.lane.toNat | none => none)]

/-- The first check of R169 that fails. -/
def admissionCheck (s : State) (d : Desc) : Refuse :=
  match checksFirst s d with
  | some r => some r
  | none =>
    let g := candidate s d
    match checksTasks s g with
    | some r => some r
    | none => checksResources s g

/-- The lowest free graph slot. -/
def freeSlot (s : State) : Nat := freeIndex (s.seq.graphs.map (fun g => g.slot)) s.seq.graphs.length 0

/-- A mode change completed (R392): MSC_STATE_CHANGE with its event record. -/
def enterMode (m : Mode) (s : State) : State :=
  raise .msc 0 {} { s with msc := { s.msc with prev := s.msc.mode, mode := m, modeAt := now s } }

/-- What the steps ZERO and FULL have measured is discarded (R284), and a step under way with it. -/
def dropSyscal (s : State) : State :=
  { s with cal := { s.cal with stage := 0, draft := {}, sysRun := none, phase := if s.cal.phase = 9 ∨ s.cal.phase = 10 then 0 else s.cal.phase } }

/-- A graph enters residence: its running-maximum registers start from m_init (R126, R127), system calibration not committed is
discarded (R284), and the module becomes ACTIVE (R391). -/
def becomeResident (slot : Nat) (g : Graph) (digest : List Byte) (s : State) : State :=
  let g := { g with slot := slot, digest := digest, admitted := s.seq.epoch }
  let s := dropSyscal { s with seq := { s.seq with graphs := s.seq.graphs ++ [g] } }
  let s := each ((List.range g.tasks.length).zip g.tasks) (fun p s =>
    if targetScaled (spTarget p.2) && spRunning p.2 then
      { s with squ := { s.squ with regs := takeReg 0 slot p.1 (zeros 16) [spInit p.2] s.squ.regs } }
    else s) s
  if s.msc.mode = .idle then enterMode .active s else s

/-- The result of an admission recorded in SEQ_ADMIT_STATUS and SEQ_ADMIT_DETAIL; a refusal sets SEQ_ADMIT_REFUSED (R192). -/
def recordAdmission (st : BitVec 16) (d : Nat) (s : State) : State :=
  let s := { s with seq := { s.seq with admitStatus := st, admitDetail := BitVec.ofNat 32 d, admitBad := [] } }
  if st = Status.ok then s else raise .seq 2 { status := st } s

/-- Admission of the graph descriptor at `a` (R168): status, detail word, slot. -/
def admitGraph (a : Nat) (s : State) : BitVec 16 × Nat × Nat × State :=
  let d := descAt s a
  match admissionCheck s d with
  | some r => (r.1, r.2, 0, recordAdmission r.1 r.2 s)
  | none =>
    let slot := freeSlot s
    (Status.ok, 0, slot, becomeResident slot (candidate s d) (imageDigest s d) (recordAdmission Status.ok 0 s))

/-- Admission again of a held graph (R229): the checks as if it were not resident; refused, it stays HELD; admitted, its runs count on
from its new admission, and the entries still owed for runs due while it was held stay owed. -/
def readmit (slot : Nat) (g : Graph) (s : State) : BitVec 16 × Nat × Nat × State :=
  let without := { s with seq := { s.seq with graphs := s.seq.graphs.filter (fun q => q.slot ≠ slot) } }
  let d := descAt s g.addr.toNat
  match admissionCheck without d with
  | some r => (r.1, r.2, slot, recordAdmission r.1 r.2 s)
  | none =>
    let freed := { without with squ := { without.squ with
      regs := without.squ.regs.map (fun r => if r.slot = slot then { r with used := false, hist := [] } else r) } }
    (Status.ok, 0, slot, becomeResident slot { candidate without d with owed := g.owed } (imageDigest s d) (recordAdmission Status.ok 0 freed))

end Sys2Proof.Machine
end

