-- ==== Sys2Proof/Machine/Links.lean ====
section
/-! DEFINITION. Link frames, retries, lanes, ports, collectives and link holds (R236 to R263, R202, R301). -/

namespace Sys2Proof.Machine

/-! ### Lanes and settings (R237, R245, R246) -/

/-- Lane `l` (R263). -/
def linkLane (s : State) (l : Nat) : LinkLane := s.ole.lanes.getD l {}

/-- Lane `l` changed by `f`. -/
def modLinkLane (l : Nat) (f : LinkLane → LinkLane) (s : State) : State := { s with ole := { s.ole with lanes := update s.ole.lanes l f } }

/-- Port `p`. -/
def portOf (s : State) (p : Nat) : Port := s.ole.ports.getD p {}

/-- Port `p` changed by `f`. -/
def modPort (p : Nat) (f : Port → Port) (s : State) : State := { s with ole := { s.ole with ports := update s.ole.ports p f } }

/-- The lane map and the switch setting of a phase entry. -/
def entryMap (pe : List Byte) : List Word := (List.range 4).map (fun j => BitVec.ofNat 32 (field pe (2 + 4 * j) 4))
def entrySwitch (pe : List Byte) : BitVec 12 := BitVec.ofNat 12 (field pe 0 2)

/-- The lane that replaces lane `l` (R259). -/
def replacement (s : State) (l : Nat) : Option Nat := (List.range 32).find? (fun k => decide ((linkLane s k).replaces = some l))

/-- The lane that serves the position of lane `l`: itself, or the lane that replaces it, or the one that replaces that (R259). -/
def servingFrom (s : State) : Nat → Nat → Option Nat
  | 0, _ => none
  | f + 1, l => if (linkLane s l).state = .active then some l else (replacement s l).bind (servingFrom s f)
def laneServing (s : State) (l : Nat) : Option Nat := servingFrom s 32 l

/-- The position that lane `l` serves: its own, or that of the lane it replaces. -/
def positionOf (s : State) : Nat → Nat → Nat
  | 0, l => l
  | f + 1, l => match (linkLane s l).replaces with | some d => positionOf s f d | none => l

/-- Port the position of a lane is steered to. -/
def steeredBy (map : List Word) (s : State) (l : Nat) : Nat := mapLane map (positionOf s 32 l)

/-- The switch and the steering rings take a setting (R244, R247): lanes that can serve become ACTIVE on their port or IDLE, a port that is crossed is
EXPRESS, and one that terminates again is UP. -/
def applySetting (sw : BitVec 12) (map : List Word) (up : Nat → Bool) (s : State) : State :=
  let s := { s with ole := { s.ole with switch := sw } }
  let s := each (List.range 4) (fun p s =>
    modPort p (fun q =>
      if (switchPort sw p).isSome ∧ q.state = .up then { q with state := .express }
      else if (switchPort sw p).isNone ∧ q.state = .express then { q with state := .up }
      else q) s) s
  each (List.range 32) (fun l s =>
    let v := steeredBy map s l
    modLinkLane l (fun x =>
      if x.state = .dropped ∨ x.state = .dark then x
      else if v < 4 && up v && !x.barred then { x with state := .active, port := BitVec.ofNat 2 v }
      else { x with state := .idle }) s) s

/-- The lanes that a new setting has steered: ACTIVE now on a port, or through a switch, where they were not before (R247). -/
def steeredLanes (old s : State) : List Nat :=
  (List.range 32).filter (fun l =>
    decide ((linkLane s l).state = .active)
      && (decide ((linkLane old l).state ≠ .active) || decide ((linkLane old l).port ≠ (linkLane s l).port)
          || decide (switchPort old.ole.switch (linkLane s l).port.toNat ≠ switchPort s.ole.switch (linkLane s l).port.toNat)))

/-- A reconfiguration (R247): the setting is taken, and each newly steered lane is to be verified. -/
def reconfigure (sw : BitVec 12) (map : List Word) (up : Nat → Bool) (s : State) : State :=
  let n := applySetting sw map up s
  { n with ole := { n.ole with reconf := (steeredLanes s n).map (fun l => (l, 0)), steering := some (now s) } }

/-- A port serves at rest: trained, and terminated under the rest setting. -/
def upAtRest (s : State) (p : Nat) : Bool :=
  (switchPort s.ole.restSwitch p).isNone && (decide ((portOf s p).state = .up) || decide ((portOf s p).state = .express))

/-- The rest setting is taken at once (R246): its lanes serve where their port is UP. -/
def applyRest (s : State) : State :=
  let s := applySetting s.ole.restSwitch s.ole.restLanes (upAtRest s) s
  { s with ole := { s.ole with reconf := [], steering := none } }

/-- Lanes ACTIVE on port `p`, ascending. -/
def activeOn (s : State) (p : Nat) : List Nat :=
  (List.range 32).filter (fun l => decide ((linkLane s l).state = .active) && decide ((linkLane s l).port.toNat = p))

/-! ### The collective in progress -/

/-- The collective whose task is still in progress. -/
def liveColl (s : State) : Option (Coll × Graph) :=
  match s.ole.coll with
  | none => none
  | some c =>
    match graphAt s c.slot with
    | none => none
    | some g => if g.run.isSome && (endOf g c.task).isNone then some (c, g) else none

/-- The collective changed by `f`. -/
def modColl (f : Coll → Coll) (s : State) : State := { s with ole := { s.ole with coll := s.ole.coll.map f } }

/-- The collective's descriptor. -/
def collDescOf (s : State) (c : Coll) (g : Graph) : List Byte := collOf s g c.task

/-- This module's phase entry in the phase that runs. -/
def myEntry (s : State) (c : Coll) (g : Graph) : List Byte := phaseEntry s (collDescOf s c g) c.phase s.ole.index.toNat

/-- The contribution that arrives on port `p` in a phase, and the module it comes from: what the far end of the path sends (R249). -/
def arriving (s : State) (c : Coll) (g : Graph) (p : Nat) : Option (Nat × Nat) :=
  let cd := collDescOf s c g
  if (switchPort s.ole.switch p).isSome then none
  else match pathEnd s cd c.phase 2 s.ole.index.toNat p with
    | none => none
    | some (j, q) =>
      let v := phaseSend (phaseEntry s cd c.phase j) q
      if v = 0xFF then none else some (j, v)

/-- Frames of the phase not yet accepted: port and frame number. -/
def missingFrames (s : State) (c : Coll) (g : Graph) : List (Nat × Nat) :=
  (List.range 4).flatMap (fun p =>
    match arriving s c g p with
    | none => []
    | some _ => ((List.range (framesOf c.size)).filter (fun f => !c.got.contains (p, f))).map (fun f => (p, f)))

/-- Every frame of the phase is accepted. -/
def phaseComplete (s : State) (c : Coll) (g : Graph) : Bool := (missingFrames s c g).isEmpty

/-- The full number of a frame whose low 14 bits are `v`: the one within 8,192 of `low` (R238, R254). -/
def frameNumber (low v : Nat) : Nat :=
  let up := low + (v + 16384 - low % 16384) % 16384
  if up < low + 8192 then up else up - 16384

/-- The lowest frame of port `p` not yet received. -/
def lowestMissing (c : Coll) (p : Nat) : Nat :=
  ((List.range (framesOf c.size + 1)).find? (fun f => !c.got.contains (p, f))).getD (framesOf c.size)

/-- The lowest frame of port `p` that the peer has not acknowledged. -/
def acked (c : Coll) (p : Nat) : Nat := (assoc p c.acked).getD 0

/-- The lane that carries frame `f` on port `p`: position f mod n of the lanes steered there, else the lowest lane in service (R251,
R254, R259). -/
def laneForFrame (s : State) (pe : List Byte) (p f : Nat) : Option Nat :=
  let ls := phaseLanes pe p
  match laneServing s (ls.getD (f % ls.length) 0) with
  | some l => if ls.isEmpty then none else some l
  | none => (activeOn s p).head?

/-! ### Sending (R238, R251, R254, R258) -/

/-- A check block (R238): FTYPE, FSEQ, FACK and the CRC over the payload and bits [63:32]. -/
def checkBlock (ty fseq fack : Nat) (payload : List Byte) : DWord :=
  let high := ty * 2 ^ 28 + fseq % 2 ^ 14 * 2 ^ 14 + fack % 2 ^ 14
  BitVec.ofNat 64 (high * 2 ^ 32 + crc32c (payload ++ le 4 high))

/-- DATA frame `n` of the contribution sent on port `p`, from the receive area (R238, R249): FACK is the lowest frame not yet received from the peer. -/
def dataFrame (s : State) (c : Coll) (g : Graph) (p l n : Nat) : Output :=
  let v := phaseSend (myEntry s c g) p
  let bs := fit 472 (taskBytes s g (c.recv + v * c.size + 472 * n) (min 472 (c.size - 472 * n)))
  .link l bs (checkBlock 1 n (lowestMissing c p) bs) [] false

/-- A RESEND_REQ frame (R238, R254): FACK names the frame. -/
def requestFrame (l n : Nat) : Output :=
  let bs := fit 472 (Config.linkPayload 3 [] false)
  .link l bs (checkBlock 3 (Config.linkField 3 0).toNat n bs) [] false

/-- A SERVICE frame that names lanes (R238, R258, R301). -/
def serviceFrame (l : Nat) (names : List Nat) (pausing : Bool) : Output :=
  let bs := fit 472 (Config.linkPayload 4 names pausing)
  .link l bs (checkBlock 4 (Config.linkField 4 0).toNat (Config.linkField 4 1).toNat bs) names pausing

/-- SERVICE frames that name lanes, on every other lane of each of their pairs (R258, R301). -/
def announce (names : List Nat) (pausing : Bool) (s : State) : State :=
  each (List.range 4) (fun p s =>
    let mine := names.filter (fun l => decide ((linkLane s l).port.toNat = p))
    if mine.isEmpty then s
    else each ((activeOn s p).filter (fun k => !names.contains k)) (fun k s => emit (serviceFrame k mine pausing) s) s) s

/-- Frames of port `p` sent up to 8,192 beyond the lowest unacknowledged one (R254). -/
def sendPort (c : Coll) (g : Graph) (p : Nat) (s : State) : State :=
  let pe := myEntry s c g
  let first := (c.sent.filter (fun x => x.1 = p)).length
  let last := min (framesOf c.size) (acked c p + 8192)
  each (List.range (last - first)) (fun i s =>
    match laneForFrame s pe p (first + i) with
    | none => s
    | some l => modColl (fun c => { c with sent := c.sent ++ [(p, l, first + i)] }) (emit (dataFrame s c g p l (first + i)) s)) s

/-- The DATA frames of the phase that may be sent, on each terminated port with a contribution to send (R249). -/
def sendPhase (s : State) : State :=
  match liveColl s with
  | none => s
  | some (c, g) =>
    if c.waiting then s
    else
      let pe := myEntry s c g
      each (List.range 4) (fun p s =>
        if phaseSend pe p = 0xFF ∨ (phasePort pe p).isSome then s
        else match s.ole.coll with | some c => sendPort c g p s | none => s) s

/-- Frame `f` of port `p` sent again on lane `l` (R254, R263). -/
def resendOn (p f l : Nat) (s : State) : State :=
  match liveColl s with
  | none => s
  | some (c, g) =>
    let s := emit (dataFrame s c g p l f) s
    let s := modColl (fun c => { c with sent := c.sent.map (fun x => if x.1 = p ∧ x.2.2 = f then (p, l, f) else x) }) s
    { s with ole := { s.ole with cur := { s.ole.cur with resends := s.ole.cur.resends + 1 } } }

/-- The resend requests that wait leave in the next check block, in ascending frame number (R254, R262). -/
def sendRequests (s : State) : State :=
  let rs := sortBy (fun (a b : Nat × Nat) => decide (a.2 ≤ b.2)) s.ole.requests
  each rs (fun r s =>
    match (activeOn s r.1).head? with
    | some k => emit (requestFrame k r.2) s
    | none => s) { s with ole := { s.ole with requests := [] } }

/-- Lanes fail (R258): DROPPED; the end that `detects` it names them to the peers, and their frames in flight are resent on the pairs' other lanes. -/
def dropLanes (detects : Bool) (ls : List Nat) (s : State) : State :=
  let down := ls.filter (fun l => decide ((linkLane s l).state = .active))
  if down.isEmpty then s
  else
    let s := each down (fun l s => raise .ole 2 { unit := some l } (modLinkLane l (fun x => { x with state := .dropped, retested := false }) s)) s
    let s := if detects then announce down false s else s
    let s := { s with ole := { s.ole with reconf := s.ole.reconf.filter (fun r => !down.contains r.1) } }
    match liveColl s with
    | none => s
    | some (c, _) =>
      let s := modColl (fun c => { c with lost := true }) s
      each (c.sent.filter (fun y => down.contains y.2.1 && decide (acked c y.1 ≤ y.2.2))) (fun y s =>
        match (activeOn s y.1).head? with
        | some k => resendOn y.1 y.2.2 k s
        | none => s) s

/-! ### Phases -/

/-- Hall time at which the phase's window ends (R251), in work cycles from its start. -/
def windowEnd (s : State) (c : Coll) (g : Graph) : Nat := timeOfWork (c.start + windowCycles s (collDescOf s c g) c.phase c.size) s

/-- Phase `h` begins (R247, R249, R251): a changed setting is steered first, and the frames wait for it. -/
def startPhase (h : Nat) (s : State) : State :=
  match s.ole.coll with
  | none => s
  | some c =>
    match graphAt s c.slot with
    | none => s
    | some g =>
      let cd := collDescOf s c g
      let change := settingChanges s cd h
      let s := modColl (fun c => { c with
        phase := h, got := [], sent := [], acked := [], fails := [], cursor := [], asked := [], lost := false, retried := false, peerLate := false
        waiting := change, start := s.seq.work + (if change then 6000 else 0) }) s
      if change then
        let pe := phaseEntry s cd h s.ole.index.toNat
        reconfigure (entrySwitch pe) (entryMap pe) (fun _ => true) s
      else sendPhase s

/-- A collective leaves the engines (R246, R251): where its last setting is not the rest setting, a reconfiguration returns to that. -/
def endColl (s : State) : State :=
  let change := decide ((List.range 4).map (switchPort s.ole.switch) ≠ (List.range 4).map (switchPort s.ole.restSwitch))
    || decide ((applyRest s).ole.lanes ≠ s.ole.lanes)
  let s := { s with ole := { s.ole with coll := none, requests := [] } }
  if change then reconfigure s.ole.restSwitch s.ole.restLanes (upAtRest s) s else applyRest s

/-- A collective that no task in progress holds any more leaves the engines (R257). -/
def dropColl (s : State) : State := if s.ole.coll.isSome && (liveColl s).isNone then endColl s else s

/-! ### The combination (R202, R248, R253) -/

/-- An element of a contribution, as an integer and as FP32. -/
def elementInt (f : Nat) (bs : List Byte) (i : Nat) : Int :=
  if f = 1 then signed 8 (field bs i 1) else signed 32 (field bs (4 * i) 4)
def elementFp (f : Nat) (bs : List Byte) (i : Nat) : Word :=
  if f = 3 then BitVec.ofNat 32 (field bs (4 * i) 4) else bf16ToFp (field bs (2 * i) 2)

/-- The bytes of a result element. -/
def elementBytes (f : Nat) (x : Word) : List Byte := if f = 3 then le 4 x.toNat else le 2 (fpToBf16 x)

/-- The integer combination of an element over the contributions, none where the exact sum leaves the format. -/
def combineInt (op f : Nat) (vs : List Int) : Option Int :=
  let v := if op = 1 then vs.sum else if op = 2 then vs.foldl max (vs.headD 0) else vs.foldl min (vs.headD 0)
  if f = 1 then (if -128 ≤ v ∧ v ≤ 127 then some v else none)
  else if -2147483648 ≤ v ∧ v ≤ 2147483647 then some v else none

/-- The floating-point combination of an element (R202): tree_sum, maximum or minimum in ascending module index. -/
def combineFp (op : Nat) (xs : List Word) : Word :=
  if op = 1 then treeSum xs
  else match xs with
    | [] => 0
    | x :: r => r.foldl (pairOp (if op = 2 then 8 else 9)) x

/-- The result of a collective from its contributions in index order, none for REDUCE_RANGE (R202, R248). -/
def combineAll (t : Task) (cs : List (List Byte)) : Option (List Byte) :=
  let op := bits t.d0 7 0
  let f := t.d2.toNat
  let e := t.d1.toNat
  if op = 4 then some cs.flatten
  else if op = 5 then some (cs.getD (bits t.d0 11 8) [])
  else if f = 1 ∨ f = 2 then
    let vs := (List.range e).map (fun i => combineInt op f (cs.map (fun b => elementInt f b i)))
    if vs.all Option.isSome then some (vs.flatMap (fun v => le (collBytes f) (twos (8 * collBytes f) (v.getD 0)))) else none
  else some ((List.range e).flatMap (fun i => elementBytes f (combineFp op (cs.map (fun b => elementFp f b i)))))

/-- The collective's contributions are combined, its result written and its task ended (R202, R253). -/
def combineColl (c : Coll) (g : Graph) (s : State) : State :=
  let t := taskAt g c.task
  let n := s.ole.size.toNat
  let cs := (List.range n).map (fun i => taskBytes s g (c.recv + i * c.size) c.size)
  let s := elapse ((n * c.size + 8127) / 8128 / 2) s
  match combineAll t cs with
  | none => taskEnd c.slot c.task Status.reduceRange 0 0 (endColl s)
  | some bs => taskEnd c.slot c.task Status.ok 0 0 (taskWrite g t.res.toNat bs (endColl s))

/-- A phase whose frames are all held gives way to the next, or to the combination (R249, R253). -/
def nextPhase (s : State) : State :=
  match liveColl s with
  | none => s
  | some (c, g) => if c.phase + 1 < c.phases then startPhase (c.phase + 1) s else combineColl c g s

/-- The work cycle of the page at which a collective's first entry stands: its rendezvous cycle, or a later one (R252). -/
def linkStart (s : State) (slot task : Nat) : Nat :=
  ((s.seq.page.entries.find? (fun e => decide (e.op = opLink) && decide (e.task = some (slot, task)))).map (fun e => e.start)).getD 0

/-- LINK_ENTRY (R249, R252, R170): at its work cycle the contribution is copied to its slot, and the first phase begins. -/
def execLinkEntry (slot task : Nat) (s : State) : Out :=
  if !taskReady s slot task then .next s else
  match graphAt s slot with
  | none => .next s
  | some g =>
    let t := taskAt g task
    if t.kind ≠ kCollective ∨ (liveColl s).isSome then .next s
    else if t.d1 = 0 then .next (taskEnd slot task Status.ok 0 0 s)
    else
      let s := advanceTo (timeOfWork (s.seq.workAt + linkStart s slot task) s) s
      let cd := collOf s g task
      let size := contribution t
      let recv := commonAt (cdRecv cd)
      let st := operandStatus s g t
      let st := if st = Status.ok then rangeStatus s g recv true (s.ole.size.toNat * size) else st
      if st ≠ Status.ok then .next (taskEnd slot task st 0 0 s)
      else
        let s := noteInputs slot task s
        let s := taskWrite g (recv + s.ole.index.toNat * size) (taskBytes s g t.a.toNat size) s
        let c : Coll := { slot := slot, task := task, phase := 0, phases := cdPhases cd, recv := recv, size := size }
        .next (startPhase 0 { s with ole := { s.ole with coll := some c } })

/-- PHASE_WINDOW_END (R255, R256): a phase whose frames are all held goes on; else a link hold begins. -/
def execPhaseWindowEnd (s : State) : Out :=
  match liveColl s with
  | none => .next (dropColl s)
  | some (c, g) =>
    if c.waiting ∨ s.seq.linkHold.isSome then .next s
    else
      let s := advanceTo (windowEnd s c g) (sendRequests s)
      match (missingFrames s c g).getLast? with
      | none => .next (nextPhase s)
      | some m =>
        let peer := ((arriving s c g m.1).map (fun q => q.1)).getD 0
        let cause := if c.lost then 2 else if c.peerLate then 3 else if c.retried then 1 else 3
        let s := { s with
          seq := { s.seq with linkHold := some (now s) }
          ole := { s.ole with lastHold := { cause := cause, peer := peer, graph := c.slot, task := c.task } } }
        .next (raise .ole 1 { graph := some c.slot, task := c.task, unit := some m.1 } s)

/-- A link hold that began at `t` ends, its length counted in work-clock periods (R256). -/
def endLinkHold (t : Nat) (s : State) : State :=
  { s with seq := { s.seq with linkHold := none }
           ole := { s.ole with cur := { s.ole.cur with hold := s.ole.cur.hold + 2 * (now s - t) } } }

/-- LINK_HOLD_END (R256): the last frame is accepted, and the collective goes on. -/
def execLinkHoldEnd (s : State) : Out :=
  match s.seq.linkHold with
  | none => .next s
  | some t =>
    match liveColl s with
    | none => .next (endLinkHold t s)
    | some (c, g) => if phaseComplete s c g then .next (nextPhase (endLinkHold t s)) else .next s

/-- LINK_HOLD_TIMEOUT (R257): at 1 ms a module that lacks a frame ends the collective with HW_LINK_FAILED. -/
def execLinkHoldTimeout (s : State) : Out :=
  match s.seq.linkHold with
  | none => .next s
  | some t =>
    let s := advanceTo (t + 1000000) s
    match liveColl s with
    | none => .next (endLinkHold t s)
    | some (c, g) =>
      if phaseComplete s c g then .next (nextPhase (endLinkHold t s))
      else
        let s := { s with ole := { s.ole with lastHold := { s.ole.lastHold with cause := 4 } } }
        .next (taskEnd c.slot c.task Status.hwLinkFailed 0 0 (endColl (endLinkHold t s)))

/-! ### Receiving (R238, R240, R254) -/

/-- FTYPE, FSEQ and FACK of a check block. -/
def frameType (c : DWord) : Nat := c.toNat / 2 ^ 60
def frameSeq (c : DWord) : Nat := c.toNat / 2 ^ 46 % 2 ^ 14
def frameAck (c : DWord) : Nat := c.toNat / 2 ^ 32 % 2 ^ 14

/-- The receiver accepts the frame as one of type `ty` (R240): sync headers, CRC and FTYPE. -/
def frameGood (f : LinkFrame) (ty : Nat) : Bool :=
  f.sync && f.payload.length == 472 && crc32c (f.payload ++ le 4 (f.check.toNat / 2 ^ 32)) == f.check.toNat % 2 ^ 32
    && frameType f.check == ty

/-- The frame that a frame discarded on lane `l` was to bring (R240, R254; log 91): the one its check block numbers, where the lane has still to bring
that one; else the first of the lane's frames beyond those that have come on it, and else the first one missing. -/
def discardedFrame (s : State) (c : Coll) (g : Graph) (l : Nat) (f : LinkFrame) : Option Nat :=
  let p := (linkLane s l).port.toNat
  let pe := myEntry s c g
  let mine := ((missingFrames s c g).filter (fun m => decide (m.1 = p) && decide (laneForFrame s pe p m.2 = some l))).map (fun m => m.2)
  let n := frameNumber (lowestMissing c p) (frameSeq f.check)
  let fresh := mine.filter (fun k => decide ((assoc l c.cursor).all (fun m => decide (m < k))) && !c.asked.contains (p, k))
  if mine.contains n then some n else match fresh.head? with | some k => some k | none => mine.head?

/-- Lane `l` has brought frame `n`. -/
def moveCursor (l n : Nat) (c : Coll) : Coll := { c with cursor := insertKey l (max n ((assoc l c.cursor).getD n)) c.cursor }

/-- A frame discarded on lane `l` (R240, R254): counted, and the frame that it was to bring is requested in the next check block. -/
def discardFrame (l : Nat) (f : LinkFrame) (s : State) : State :=
  let s := { s with ole := { s.ole with cur := { s.ole.cur with crc := s.ole.cur.crc + 1 } } }
  let s := modLinkLane l (fun x => { x with fails := x.fails + 1, epochFails := x.epochFails + 1 }) s
  let s := raise .ole 0 { unit := some l } s
  match liveColl s with
  | none => s
  | some (c, g) =>
    match discardedFrame s c g l f with
    | none => s
    | some n =>
      let p := (linkLane s l).port.toNat
      let s := modColl (fun c => moveCursor l n { c with retried := true, asked := (p, n) :: c.asked.filter (fun a => a ≠ (p, n)) }) s
      { s with ole := { s.ole with requests := if s.ole.requests.contains (p, n) then s.ole.requests else s.ole.requests ++ [(p, n)] } }

/-- What an accepted frame of any type tells: a peer that reports its own late start (R256). -/
def takeReport (f : LinkFrame) (s : State) : State := if f.late then modColl (fun c => { c with peerLate := true }) s else s

/-- The peer's acknowledgement: frames below it are held there (R238, R254). -/
def takeAck (l : Nat) (f : LinkFrame) (s : State) : State :=
  match liveColl s with
  | none => s
  | some (c, _) =>
    let p := (linkLane s l).port.toNat
    let a := frameNumber (acked c p) (frameAck f.check)
    if a ≤ acked c p then s
    else sendPhase (modColl (fun c => { c with acked := insertKey p a c.acked }) s)

/-- OLE_LH_PEER names the last peer awaited (R263): during a link hold, the one whose frames are missing still, or whose frame was the last. -/
def awaitPeer (j : Nat) (s : State) : State :=
  if s.seq.linkHold.isNone then s
  else
    let peer := match liveColl s with
      | some (c, g) => match (missingFrames s c g).getLast? with
        | some m => ((arriving s c g m.1).map (fun q => q.1)).getD j
        | none => j
      | none => j
    { s with ole := { s.ole with lastHold := { s.ole.lastHold with peer := peer } } }

/-- FRAME_DATA (R240, R253): an accepted frame is written into the receive area; any other is discarded, none of its bytes written. -/
def execFrameData (f : LinkFrame) (s : State) : Out :=
  if (linkLane s f.lane).state ≠ .active then .next s
  else if !frameGood f 1 then .next (discardFrame f.lane f s)
  else
    let s := takeReport f { s with ole := { s.ole with cur := { s.ole.cur with frames := s.ole.cur.frames + 1 } } }
    match liveColl s with
    | none => .next s
    | some (c, g) =>
      let p := (linkLane s f.lane).port.toNat
      let n := frameNumber (lowestMissing c p) (frameSeq f.check)
      match arriving s c g p with
      | none => .next s
      | some (j, v) =>
        if framesOf c.size ≤ n ∨ c.got.contains (p, n) then .next (takeAck f.lane f s)
        else
          let s := taskWrite g (c.recv + v * c.size + 472 * n) (f.payload.take (c.size - 472 * n)) s
          .next (awaitPeer j (takeAck f.lane f (modColl (fun c => moveCursor f.lane n { c with got := (p, n) :: c.got }) s)))

/-- FRAME_IDLE (R238, R240, R247): acknowledgement, and one of the eight frames that verify a newly steered lane. -/
def execFrameIdle (f : LinkFrame) (s : State) : Out :=
  if (linkLane s f.lane).state ≠ .active then .next s
  else if !frameGood f 2 then .next (discardFrame f.lane f s)
  else
    let seen := s.ole.reconf.map (fun r => if r.1 = f.lane then (r.1, r.2 + 1) else r)
    let s := { s with ole := { s.ole with reconf := seen.filter (fun r => r.2 < 8) } }
    .next (takeAck f.lane f (takeReport f s))

/-- FRAME_RESEND_REQ (R254): the named frame goes again on the lane that carried it; at its fourth failure there that lane is dropped, and
the frame goes on a different one. -/
def execFrameResendReq (f : LinkFrame) (s : State) : Out :=
  if (linkLane s f.lane).state ≠ .active then .next s
  else if !frameGood f 3 then .next (discardFrame f.lane f s)
  else
    match liveColl s with
    | none => .next s
    | some (c, _) =>
      let p := (linkLane s f.lane).port.toNat
      let n := frameNumber (acked c p) (frameAck f.check)
      match c.sent.find? (fun x => decide (x.1 = p) && decide (x.2.2 = n)) with
      | none => .next s
      | some x =>
        let l := x.2.1
        let times := ((c.fails.find? (fun y => decide (y.1 = l) && decide (y.2.1 = n))).map (fun y => y.2.2)).getD 0 + 1
        let s := modColl (fun c => { c with fails := (l, n, times) :: c.fails.filter (fun y => !(decide (y.1 = l) && decide (y.2.1 = n))) }) s
        if times = 4 ∧ (linkLane s l).state = .active then .next (dropLanes true [l] s)
        else if (linkLane s l).state = .active then .next (resendOn p n l s)
        else match (activeOn s p).head? with
          | some k => .next (resendOn p n k s)
          | none => .next s

/-- FRAME_SERVICE (R258, R301): lanes named as failing are dropped here too; lanes named as pausing have their loss-of-lock test
suspended for 10 us. -/
def execFrameService (f : LinkFrame) (s : State) : Out :=
  if (linkLane s f.lane).state ≠ .active then .next s
  else if !frameGood f 4 then .next (discardFrame f.lane f s)
  else if f.pausing then
    .next (each f.names (fun l s => modLinkLane l (fun x => { x with pauseUntil := some (now s + 10000) }) s) s)
  else .next (dropLanes false f.names (takeReport f s))

/-! ### Lane events (R258, R301) -/

/-- LANE_LOCK_LOSS (R258): a receiver out of lock for more than 1 us fails its lane, unless the test is suspended (R301). -/
def execLaneLockLoss (l : Nat) (s : State) : Out :=
  if (linkLane s l).pauseUntil.isSome then .next s else .next (dropLanes true [l] s)

/-- LANE_DISCARD_LIMIT (R258): more than 8 frames discarded in one epoch fail the lane. -/
def execLaneDiscardLimit (l : Nat) (s : State) : Out :=
  if 8 < (linkLane s l).epochFails then .next (dropLanes true [l] s) else .next s

/-- LANE_PAUSE_END (R301): the loss-of-lock test resumes. -/
def execLanePauseEnd (l : Nat) (s : State) : Out :=
  match (linkLane s l).pauseUntil with
  | none => .next s
  | some t => .next (modLinkLane l (fun x => { x with pauseUntil := none }) (advanceTo t s))

/-- RECONFIGURATION_DEADLINE (R247): at 3.0 us lanes not verified fail for the phase, and the DATA frames may be sent. -/
def execReconfigurationDeadline (s : State) : Out :=
  match s.ole.steering with
  | none => .next s
  | some t =>
    let s := advanceTo (t + 3000) s
    let late := s.ole.reconf.map (fun r => r.1)
    let s := { s with ole := { s.ole with steering := none, reconf := [] } }
    let s := each late (fun l s => raise .ole 6 { unit := some l } s) (dropLanes true late s)
    .next (sendPhase (modColl (fun c => { c with waiting := false }) s))

/-! ### Ports, training and laser safety (R242 to R246, R260, R261) -/

/-- Reached indices and group state after a change of the ports or of the group (R244, R263). -/
def groupState (s : State) : State :=
  let reached := (List.range 4).foldl (fun (r : BitVec 16) p =>
    if upAtRest s p then r ||| BitVec.ofNat 16 (2 ^ (portOf s p).peer.toNat) else r) 0
  let s := { s with ole := { s.ole with reached := reached } }
  let st : BitVec 2 :=
    if s.ole.size = 1 then 0 else if linked s then 2 else if s.ole.gsState = 2 ∨ s.ole.gsState = 3 then 3 else 1
  { s with ole := { s.ole with gsState := st } }

/-- A graph of more than one module is resident (R242). -/
def groupBusy (s : State) : Bool := s.seq.graphs.any (fun g => decide (1 < g.modules))

/-- Training of port `p` starts (R243): its lanes leave service until it is done. -/
def trainPort (p : Nat) (s : State) : State :=
  let s := each (List.range 32) (fun l s =>
    if mapLane s.ole.restLanes l = p then modLinkLane l (fun x => if x.state = .active then { x with state := .idle } else x) s else s) s
  modPort p (fun q => { q with state := .training }) s

/-- Training of those of the named ports that receive light and are terminated under the rest setting (R243). -/
def trainPorts (mask : BitVec 4) (s : State) : State :=
  groupState (each (List.range 4) (fun p s =>
    if mask.toNat.testBit p && decide ((portOf s p).state ≠ .dark) && decide ((portOf s p).state ≠ .express) then trainPort p s else s) s)

/-- PORT_LIGHT_ARRIVAL (R243, R261): light reaches a DARK port, and training starts. -/
def execPortLightArrival (p : Nat) (s : State) : Out :=
  if running s ∧ (portOf s p).state = .dark ∧ p < 4 then
    .next (trainPort p (modPort p (fun q => { q with blocked := false, probes := 0 }) s))
  else .next s

/-- Why training is refused (R243, R263): group mismatch, duplicate index, round trip, no lane. -/
def trainReason (s : State) (lanes : List Nat) (o : TrainObs) : Option (BitVec 2) :=
  if o.group ≠ s.ole.groupId ∨ o.size ≠ s.ole.size.toNat then some 0
  else if o.index = s.ole.index then some 1
  else if 2400 < o.rtt then some 2
  else if lanes.isEmpty then some 3
  else none

/-- The lanes of port `p` that failed the test frames of its training stay out of service (R243). -/
def barFailed (p : Nat) (o : TrainObs) (s : State) : State :=
  each (o.failed.filter (fun l => decide (steeredBy s.ole.restLanes s l = p))) (fun l s => modLinkLane l (fun x => { x with barred := true }) s) s

/-- PORT_TRAINING_DONE (R243, R424): the port enters UP with the lanes that passed, or DOWN with its reason; a failure with the peer
unchanged reverts optical-engine firmware in trial. -/
def execPortTrainingDone (p : Nat) (o : TrainObs) (s : State) : Out :=
  let q := portOf s p
  if q.state ≠ .training then .next s
  else
    let lanes := (List.range 32).filter (fun l =>
      decide (steeredBy s.ole.restLanes s l = p) && decide ((linkLane s l).state ≠ .dark) && !o.failed.contains l)
    match trainReason s lanes o with
    | none =>
      let s := modPort p (fun q => { q with state := .up, reason := 0, peer := o.index, peerPort := o.port, rtt := BitVec.ofNat 12 o.rtt }) s
      let s := each lanes (fun l s => modLinkLane l (fun x => { x with state := .active, port := BitVec.ofNat 2 p, barred := false }) s) s
      .next (groupState (barFailed p o s))
    | some r =>
      let same := decide (q.peer = o.index) && decide (q.peerPort = o.port)
      let s := modPort p (fun q => { q with state := .down, reason := r, peer := o.index, peerPort := o.port,
                                            rtt := BitVec.ofNat 12 (min o.rtt 4095) }) s
      let s := raise .ole 4 { unit := some p } (groupState (barFailed p o s))
      .next (if same then trialRevert 3 s else s)

/-- Port `p` stops launching: its lanes fail (R258, R260, R261). -/
def parkPort (p : Nat) (s : State) : State := dropLanes false (activeOn s p) (modPort p (fun q => { q with blocked := true }) s)

/-- LOSS_OF_SIGNAL (R261): APR parks or blocks the port, which enters DARK. -/
def execLossOfSignal (p : Nat) (s : State) : Out :=
  if (portOf s p).state = .dark ∨ 4 ≤ p then .next s
  else
    let s := modPort p (fun q => { q with state := .dark }) (parkPort p s)
    .next (raise .ole 4 { unit := some p } (raise .ole 5 { unit := some p } (groupState s)))

/-- APR_PROBE (R261): the 2 ms probe of a DARK port, once per second. -/
def execAprProbe (p : Nat) (s : State) : Out :=
  if running s ∧ (portOf s p).state = .dark ∧ p < 4 then
    .next (modPort p (fun q => { q with probes := q.probes + 1 }) (emit (.probe p) s))
  else .next s

/-- PORT_POWER_MONITOR_TRIP (R260): every modulator steered to the port is parked, and the port is blocked at the switch. -/
def execPortPowerMonitorTrip (p : Nat) (s : State) : Out := if 4 ≤ p then .next s else .next (parkPort p s)

/-- A dropped lane retested in the next fallow slot (R259): it returns to service at its position, or the lowest idle lane of the rest setting that
passes replaces it. A replaced lane, or one that failed its retest, stays DROPPED. -/
def retestLane (passes : List Nat) (l : Nat) (s : State) : State :=
  if (linkLane s l).state ≠ .dropped ∨ (linkLane s l).retested ∨ (replacement s l).isSome then s
  else
    let v := steeredBy s.ole.restLanes s l
    let serves := decide (v < 4) && upAtRest s v
    if passes.contains l then
      modLinkLane l (fun x => if serves then { x with state := .active, port := BitVec.ofNat 2 v } else { x with state := .idle }) s
    else
      let s := modLinkLane l (fun x => { x with retested := true }) s
      match (List.range 32).find? (fun k => decide (mapLane s.ole.restLanes k = 15) && decide ((linkLane s k).state = .idle)
          && (linkLane s k).replaces.isNone && !(linkLane s k).barred && passes.contains k) with
      | none => s
      | some k =>
        if 4 ≤ v then s
        else raise .ole 3 { unit := some k }
          (modLinkLane k (fun x => { x with state := if serves then .active else .idle, port := BitVec.ofNat 2 v, replaces := some l }) s)

/-- The retests of a fallow slot (R259). -/
def retestLanes (passes : List Nat) (s : State) : State := each (List.range 32) (retestLane passes) s

/-- Port `p` enters DARK (R263). -/
def portDark (p : Nat) (s : State) : State := raise .ole 4 { unit := some p } (modPort p (fun q => { q with state := .dark }) s)

/-- The rest setting written (R246): the ports and lanes take it at once. A cross-connected port is EXPRESS, and one that was and now terminates
waits in DARK to be trained. -/
def restWritten (s : State) : State :=
  let was (p : Nat) : Bool := decide ((portOf s p).state = .express) && (switchPort s.ole.switch p).isSome
  let back := (List.range 4).filter (fun p => was p && (switchPort s.ole.restSwitch p).isNone)
  let s := each (List.range 4) (fun p s =>
    modPort p (fun q => if (switchPort s.ole.restSwitch p).isSome then { q with state := .express } else q) s) s
  groupState (applyRest (each back portDark s))

end Sys2Proof.Machine
end

