-- ==== Sys2Proof/Machine/Light.lean ====
section
/-! DEFINITION. Comb sources, the fade criterion, takeovers, trips, light holds and dark arcades (R289 to R304). -/

namespace Sys2Proof.Machine

/-! ### Sources (R289, R292) -/

/-- Source `i`, `i` from 0 to 55. -/
def sourceAt (s : State) (i : Nat) : Source := s.cls.sources.getD i {}

/-- Source `i` changed by `f`. -/
def modSource (i : Nat) (f : Source → Source) (s : State) : State := { s with cls := { s.cls with sources := update s.cls.sources i f } }

/-- The other position of a source's pair. -/
def partnerOf (i : Nat) : Nat := if i % 2 = 0 then i + 1 else i - 1

/-- The serving source of a pair: pair `a` of an arcade, or 24 + e of an engine. -/
def servingOf (s : State) (a : Nat) : Option Nat :=
  [2 * a, 2 * a + 1].find? (fun i => (sourceAt s i).state = .serving)

/-- An event of block 1 that names a source (R304). -/
def clsEvent (b i : Nat) (s : State) : State := raise .cls b { unit := some i } s

/-- Spares in LOCKING or LOCKED whose serving partners still emit (R297); a source that ramps down after a takeover is no spare. -/
def sparesLocking (s : State) : Nat :=
  ((List.range 56).filter (fun i =>
    (decide ((sourceAt s i).state = .locking) || decide ((sourceAt s i).state = .locked)) && (sourceAt s i).due.isNone
      && decide ((sourceAt s (partnerOf i)).state = .serving))).length

/-! ### Fade (R296, R297, R302) -/

/-- The arcade pair meets the fade criterion (R296): power at or below 90 % of commissioned, or effective phase bits below N + 0.3, N 6.5 where a pass
group of the current page runs set A or C on the arcade and else 5.6; a figure of 0 is not yet measured (log 93). -/
def arcadeFades (s : State) (a : Nat) : Bool :=
  let q := s.cal.arcs.getD a {}
  let fine := s.seq.page.entries.any (fun e =>
    decide (e.op = opPass) && decide (e.unit < 768) && decide (arcadeOfLogical e.unit = a) && (decide (e.mset = some .a) || decide (e.mset = some .c)))
  (decide (q.power ≠ 0) && decide (q.power ≤ 180)) || (decide (q.epb ≠ 0) && decide (q.epb ≤ (if fine then 108 else 94)))

/-- The link source is at its bias limit and at or below 90 % of its output at the last start-up. -/
def linkFades (s : State) (i : Nat) : Bool := decide (200 ≤ (sourceAt s i).bias) && decide ((sourceAt s i).power ≤ 180)

/-- The pair of serving source `i` meets the criterion. -/
def fades (s : State) (i : Nat) : Bool := if i < 48 then arcadeFades s (i / 2) else linkFades s i

/-- The spare of serving source `i` begins to lock for a takeover of kind `k`, if fewer than four are (R297); else the pair waits. -/
def lockSpare (k i : Nat) (s : State) : State :=
  let sp := partnerOf i
  if (sourceAt s sp).state ≠ .warm then s
  else if sparesLocking s < 4 then
    let s := modSource sp (fun x => { x with state := .locking }) (modSource i (fun x => { x with due := some k }) s)
    { s with cls := { s.cls with waits := s.cls.waits.filter (fun j => j ≠ i), requests := s.cls.requests.filter (fun j => j ≠ i) } }
  else if k = 1 ∧ ¬ s.cls.waits.contains i then { s with cls := { s.cls with waits := s.cls.waits ++ [i] } }
  else s

/-- The fade check of step 1 (R296): serving sources whose spare is in WARM, in ascending index; then host requests (R302). -/
def fadeCheck (s : State) : State :=
  let s := each (List.range 56) (fun i s =>
    if (sourceAt s i).state = .serving ∧ (sourceAt s (partnerOf i)).state = .warm ∧ fades s i then
      lockSpare 1 i (if s.cls.waits.contains i then s else clsEvent 0 i s)
    else s) s
  each s.cls.requests (fun i s =>
    if (sourceAt s (partnerOf i)).state = .locked then
      let s := modSource i (fun x => { x with due := some 3 }) s
      { s with cls := { s.cls with requests := s.cls.requests.filter (fun j => j ≠ i) } }
    else lockSpare 3 i s) s

/-- The takeover request of CLS_TAKEOVER_GO (R302). -/
def takeoverRequest (i : Nat) (s : State) : State :=
  let p := (sourceAt s (partnerOf i)).state
  if (sourceAt s i).state ≠ .serving ∨ (p ≠ .warm ∧ p ≠ .locked) then clsEvent 7 i s
  else if s.cls.requests.contains i then s
  else { s with cls := { s.cls with requests := s.cls.requests ++ [i] } }

/-! ### Planned takeovers (R298, R301) -/

/-- Lanes of a link source's engine. -/
def engineLanes (i : Nat) : List Nat := (List.range 8).map (fun k => 8 * ((i - 48) / 2) + k)

/-- The planned takeover of serving source `i`, or its deferral. -/
def takeover (noTime : List Nat) (dark i : Nat) (s : State) : State :=
  let x := sourceAt s i
  let sp := partnerOf i
  match x.due with
  | none => s
  | some k =>
    if x.state ≠ .serving ∨ (sourceAt s sp).state ≠ .locked then s
    else if noTime.contains (i / 2) ∨ (i < 48 ∧ s.seq.prepared.contains (i / 2)) then clsEvent 6 i s
    else
      let s := if i < 48 then s else announce (engineLanes i) true s
      let s := modSource sp (fun y => { y with state := .serving }) (modSource i (fun y => { y with state := .locked }) s)
      { s with cls := { s.cls with last := { kind := k, src := i, dst := sp, dark := sat 0xFFFF dark } } }

/-- Step 6 of the fallow slot. -/
def takeovers (noTime : List Nat) (dark : Nat) (s : State) : State := each (List.range 56) (takeover noTime dark) s

/-- SOURCE_WORN (R298): the former source of a planned takeover has ramped down. -/
def execSourceWorn (i : Nat) (s : State) : Out :=
  let x := sourceAt s i
  if x.due.isSome ∧ x.state = .locked ∧ (sourceAt s (partnerOf i)).state = .serving then
    .next (clsEvent 1 i (modSource i (fun x => { x with state := .worn, due := none }) s))
  else .next s

/-! ### Trips and dark arcades (R299, R300) -/

/-- The light hold ends when no arcade is left in it; its length is counted in work-clock periods. -/
def lightHoldMayEnd (s : State) : State :=
  match s.seq.lightHold with
  | none => s
  | some t =>
    if s.cls.tripped.isEmpty then
      { s with seq := { s.seq with lightHold := none }, cls := { s.cls with hold := sat 0xFFFFFFFF (s.cls.hold + 2 * (now s - t)) } }
    else s

/-- A source's bias and line-0 offset as they stand (R290, R291): the bias never exceeds its maximum, and a source in LOCKED or SERVING keeps within
0.5 GHz of the grid. -/
def setSource (q : Nat × Nat × Int) (s : State) : State :=
  modSource q.1 (fun x => { x with
    bias := min 200 q.2.1
    offset := if x.state = .locked ∨ x.state = .serving then max (-50) (min 50 q.2.2) else q.2.2 }) s

/-- The stalls of an arcade that serve, by logical stall. -/
def servedStalls (s : State) (a : Nat) : List (Nat × Nat) :=
  sortBy (fun x y => decide (x.2 ≤ y.2)) (((List.range 34).map (fun p => 34 * a + p)).filterMap (fun g => (stallAt s g).logical.map (fun l => (g, l))))

/-- Arcade `a` goes dark (R300): its stalls are substituted at once, beginning with the build of their tables in a substitution hold (R149), and retire
at the next boundary; replays that wait for their light run on the replay units. -/
def darkArcade (a : Nat) (s : State) : State :=
  let s := clsEvent 5 (2 * a) { s with cls := { s.cls with dark := s.cls.dark ++ [a], tripped := s.cls.tripped.filter (fun q => q.1 ≠ a) } }
  let mine := servedStalls s a
  let s := each mine (fun q s => substitute q.1 q.2 (modStall q.1 (fun st => { st with outcome := 4, outRows := [], outSpare := none }) s)) s
  let s := match mine with
    | q :: _ => if s.seq.fallow then s else beginSubstHold q.2 s
    | [] => s
  lightHoldMayEnd (settleReplays s)

/-- LIGHT_TRIP (R299): the combiner goes to the spare, the serving source is FAILED, and a light hold begins. -/
def execLightTrip (a : Nat) (s : State) : Out :=
  if !running s ∨ 24 ≤ a ∨ s.cls.dark.contains a ∨ s.cls.tripped.any (fun q => q.1 = a) then .next s else
  match servingOf s a with
  | none => .next s
  | some i =>
    let sp := partnerOf i
    let st := (sourceAt s sp).state
    let s := modSource i (fun x => { x with state := .failed, due := none }) s
    let s := { s with
      seq := { s.seq with lightHold := some (s.seq.lightHold.getD (now s)) }
      cls := { s.cls with tripped := s.cls.tripped ++ [(a, now s)], waits := s.cls.waits.filter (fun j => j ≠ i)
                          requests := s.cls.requests.filter (fun j => j ≠ i)
                          last := { kind := 2, src := i, dst := sp, dark := 0 } } }
    let s := clsEvent 2 i s
    match st with
    | .warm => .next (modSource sp (fun x => { x with state := .locking }) s)
    | .locking => .next s
    | .locked => .next s
    | _ => .next (darkArcade a s)

/-- SPARE_LOCKED (R297, R299, R301): the spare is LOCKED; a link spare whose partner failed serves, and the lanes wait for their
retest. -/
def execSpareLocked (i : Nat) (s : State) : Out :=
  if (sourceAt s i).state ≠ .locking then .next s
  else
    let s := modSource i (fun x => { x with state := .locked }) s
    if 48 ≤ i ∧ (sourceAt s (partnerOf i)).state = .failed then
      let s := modSource i (fun x => { x with state := .serving }) s
      .next (each (engineLanes i) (fun l s =>
        modLinkLane l (fun x => if x.state = .dark then { x with state := .dropped } else x) s) s)
    else .next s

/-- LIGHT_HOLD_END (R299): the spare is locked, the drop loops have settled and the dim check passes: it serves. -/
def execLightHoldEnd (a : Nat) (s : State) : Out :=
  match s.cls.tripped.find? (fun q => q.1 = a) with
  | none => .next s
  | some q =>
    match [2 * a, 2 * a + 1].find? (fun i => (sourceAt s i).state = .locked) with
    | none => .next s
    | some i =>
      let s := modSource i (fun x => { x with state := .serving, due := none }) s
      let s := { s with cls := { s.cls with
        tripped := s.cls.tripped.filter (fun q => q.1 ≠ a)
        last := { kind := 2, src := partnerOf i, dst := i, dark := sat 0xFFFF ((now s - q.2) / 100) } } }
      .next (lightHoldMayEnd s)

/-- SPARE_LOCK_FAIL (R300): the spare has not locked within 250 us of the trip. -/
def execSpareLockFail (a : Nat) (s : State) : Out :=
  match s.cls.tripped.find? (fun q => q.1 = a) with
  | none => .next s
  | some q =>
    match [2 * a, 2 * a + 1].find? (fun i => (sourceAt s i).state = .locking) with
    | none => .next s
    | some i =>
      let s := advanceTo (q.2 + 250000) s
      .next (darkArcade a (clsEvent 3 i (modSource i (fun x => { x with state := .failed }) s)))

/-- SPARE_SOURCE_FAIL (R300): a spare fails in WARM, LOCKING or LOCKED; its partner goes on serving, or a tripped arcade goes dark. -/
def execSpareSourceFail (i : Nat) (s : State) : Out :=
  let x := sourceAt s i
  if x.state = .warm ∨ x.state = .locking ∨ x.state = .locked then
    let s := modSource (partnerOf i) (fun y => { y with due := none }) (modSource i (fun y => { y with state := .failed, due := none }) s)
    let s := clsEvent 4 i s
    if s.cls.tripped.any (fun q => q.1 = i / 2) then .next (darkArcade (i / 2) s) else .next s
  else .next s

/-- LINK_SOURCE_FAIL (R301): the eight lanes of a serving link source fail; they stay DARK until its spare locks. -/
def execLinkSourceFail (i : Nat) (s : State) : Out :=
  if i < 48 ∨ (sourceAt s i).state ≠ .serving then .next s
  else
    let sp := partnerOf i
    let s := modSource i (fun x => { x with state := .failed, due := none }) s
    let s := { s with cls := { s.cls with last := { kind := 2, src := i, dst := sp, dark := 0 } } }
    let s := clsEvent 2 i s
    let s := dropLanes true (engineLanes i) s
    let s := each (engineLanes i) (fun l s => modLinkLane l (fun x => { x with state := .dark, retested := false }) s) s
    match (sourceAt s sp).state with
    | .warm => .next (modSource sp (fun x => { x with state := .locking }) s)
    | .locked =>
      let s := modSource sp (fun x => { x with state := .serving }) s
      .next (each (engineLanes i) (fun l s => modLinkLane l (fun x => { x with state := .dropped }) s) s)
    | _ => .next s

/-! ### Bring-up (R293) -/

/-- A pair settles: position 0 serves if it locked, else position 1, and the other goes to WARM. -/
def settlePair (fails : List Nat) (a : Nat) (s : State) : State :=
  let st (i : Nat) : SrcState :=
    if fails.contains i then .failed else if i % 2 = 0 ∨ fails.contains (i - 1) then .serving else .warm
  modSource (2 * a + 1) (fun x => { x with state := st (2 * a + 1), due := none })
    (modSource (2 * a) (fun x => { x with state := st (2 * a), due := none }) s)

/-- Every pair brought up, as at power-on, cold reset and Thaw; the outputs at start-up are kept. -/
def bringUpSources (fails : List Nat) (starts : List (Nat × Nat)) (s : State) : State :=
  let s := each (List.range 28) (settlePair fails) s
  let s := each starts (fun q s => modSource q.1 (fun x => { x with start := q.2, power := 200 }) s) s
  { s with cls := { s.cls with waits := [], requests := [], tripped := [], dark := [] } }

/-- SOURCE_LOCK_TIMEOUT (R293): a source that has not locked within 100 ms of the bring-up is FAILED; its partner serves if none does. -/
def execSourceLockTimeout (i : Nat) (s : State) : Out :=
  if (sourceAt s i).state ≠ .locking ∨ s.cls.tripped.any (fun q => q.1 = i / 2) then .next s
  else
    let s := modSource i (fun x => { x with state := .failed }) s
    let p := partnerOf i
    if (sourceAt s p).state = .locked then .next (modSource p (fun x => { x with state := .serving }) s)
    else if (sourceAt s p).state = .serving then .next (clsEvent 4 i (modSource p (fun x => { x with due := none }) s))
    else .next s

/-- Every source OFF, its role remembered: a spare that was locking resumes in WARM (R293). -/
def sourcesOff (s : State) : State :=
  let s := { s with cls := { s.cls with
    sources := s.cls.sources.map (fun x =>
      { x with state := .off, due := none
               role := match x.state with | .off => x.role | .locking => .warm | .locked => .warm | st => st })
    waits := [], requests := [] } }
  s

/-- Every source resumes its former role (R293). -/
def sourcesResume (s : State) : State :=
  { s with cls := { s.cls with sources := s.cls.sources.map (fun x => if x.state = .off then { x with state := x.role } else x) } }

end Sys2Proof.Machine
end

