-- ==== Sys2Proof/Machine/Temps.lean ====
section
/-! DEFINITION. Temperature sensors, domains, their maxima and thresholds (R354 to R359). -/

namespace Sys2Proof.Machine

/-- Domain of sensor `i` (R354). -/
def sensorDomain (i : Nat) : Nat :=
  if i < 128 then 0 else if i < 224 then 1 else if i < 240 then 2 else if i < 248 then 3 else if i < 258 then 4 else if i < 266 then 5 else 6

/-- Sensors of a domain: the first and one past the last (R354). -/
def domainSensors (d : Nat) : Nat × Nat :=
  match d with
  | 0 => (0, 128) | 1 => (128, 224) | 2 => (224, 240) | 3 => (240, 248) | 4 => (248, 258) | 5 => (258, 266) | _ => (266, 278)

/-- Thresholds T1, T2, T3, Frost of a domain, in 1/16 degree (R358). -/
def thresholds (d : Nat) : List Int :=
  (match d with
   | 0 => [95, 99, 103, 108] | 1 => [95, 97, 99, 100] | 2 => [95, 100, 105, 110] | 3 => [95, 100, 105, 110]
   | 4 => [95, 98, 101, 105] | 5 => [95, 98, 101, 105] | _ => [95, 100, 105, 110] : List Int).map (fun t => 16 * t)

/-- Sensor `i`. -/
def sensorAt (s : State) (i : Nat) : Sensor := s.tps.sensors.getD i {}

/-- Sensor `i` changed by `f`. -/
def modSensor (i : Nat) (f : Sensor → Sensor) (s : State) : State := { s with tps := { s.tps with sensors := update s.tps.sensors i f } }

/-- Domain `d`. -/
def domainAt (s : State) (d : Nat) : Domain := s.tps.domains.getD d {}

/-- Domain `d` changed by `f`. -/
def modDomain (d : Nat) (f : Domain → Domain) (s : State) : State := { s with tps := { s.tps with domains := update s.tps.domains d f } }

/-- The sensors of a domain are powered: the stack sensors need group G3 (R355). -/
def domainPowered (s : State) (d : Nat) : Bool := if d = 4 then s.tps.groups.toNat.testBit 3 else s.tps.groups.toNat.testBit 1

/-- Sensors of a domain with a reading that counts (R355). -/
def validSensors (s : State) (d : Nat) : List Nat :=
  let r := domainSensors d
  if domainPowered s d then
    (List.range (r.2 - r.1)).filterMap (fun k => let x := sensorAt s (r.1 + k); if x.valid && x.sampled then some (r.1 + k) else none)
  else []

/-- The domain is powered and has been sampled, but has no valid sensor (R355). -/
def noSensor (s : State) (d : Nat) : Bool :=
  let r := domainSensors d
  domainPowered s d && (validSensors s d).isEmpty && (List.range (r.2 - r.1)).any (fun k => (sensorAt s (r.1 + k)).sampled)

/-- The maximum over a domain's valid sensors and the sensor that has it, the lowest of equals (R356). -/
def domainMax (s : State) (d : Nat) : Option (Int × Nat) :=
  (validSensors s d).foldl (fun m i =>
    let t := (sensorAt s i).temp
    match m with
    | none => some (t, i)
    | some (u, j) => if u < t then some (t, i) else some (u, j)) none

/-- What a domain reads: its maximum, or its T2 threshold when no sensor of it is valid (R355). -/
def domainReading (s : State) (d : Nat) : Option Int :=
  if noSensor s d then (thresholds d)[1]? else (domainMax s d).map (fun m => m.1)

/-- The module maximum: temperature, domain and sensor (R356). -/
def moduleMax (s : State) : Option (Int × Nat × Nat) :=
  (List.range 7).foldl (fun m d =>
    match domainMax s d, m with
    | none, m => m
    | some (t, i), none => some (t, d, i)
    | some (t, i), some (u, e, j) => if u < t then some (t, d, i) else some (u, e, j)) none

/-- The photonic domain maximum, the T of R97 and R99. -/
def photonicMax (s : State) : Int := (domainReading s 1).getD 0

/-- The thermal level and the domain that sets it: domains 0, 1, 2, 4, 5 and 6 (R359). -/
def thermalLevel (s : State) : Nat × Nat :=
  [0, 1, 2, 4, 5, 6].foldl (fun (m : Nat × Nat) d => if m.1 < (domainAt s d).level then ((domainAt s d).level, d) else m) (0, 7)

/-- The level in force (R359, R363): the thermal level, the level of the energy-limit monitor, and the floor. -/
def levelInForce (s : State) : Nat := max (max (thermalLevel s).1 s.tps.lp) s.tps.floor.toNat

/-- k of a level (R359). -/
def levelK (l : Nat) : Nat := match l with | 0 => 0 | 1 => 8 | 2 => 16 | _ => 32

end Sys2Proof.Machine
end

