-- ==== Sys2Proof/Machine/Cal.lean ====
section
/-! DEFINITION. Start-up calibration, reacquisition, readings and editions, quality figures, monitor inputs, heater zones and system
calibration (R32, R264 to R287). -/

namespace Sys2Proof.Machine

/-! ### Figures (R97, R278, R279) -/

/-- CAL state of physical stall `g`. -/
def stallCal (s : State) (g : Nat) : StallCal := s.cal.stalls.getD g {}

/-- CAL state of stall `g` changed by `f`. -/
def modStallCal (g : Nat) (f : StallCal → StallCal) (s : State) : State := { s with cal := { s.cal with stalls := update s.cal.stalls g f } }

/-- Zone `z` = 8 a + z. -/
def zoneAt (s : State) (z : Nat) : Zone := s.cal.zones.getD z {}

/-- Zone `z` changed by `f`. -/
def modZone (z : Nat) (f : Zone → Zone) (s : State) : State := { s with cal := { s.cal with zones := update s.cal.zones z f } }

/-- E(T, 1) of R97 in 1/16000 bit, `t` in 1/16 degree: 6.9 below 45, then to 6.6 at 65, then falling by 0.02 bit per degree. -/
def tableBits (t : Int) : Int :=
  if t < 720 then 110400 else if t < 1040 then 110400 - 15 * (t - 720) else 105600 - 20 * (t - 1040)

/-- Physical rows of a stall that serve: the logical rows not mapped out, and the spare rows in the spare map. -/
def servedRows (st : Stall) : List Nat :=
  ((List.range 64).filter (fun r => !st.rowMap.any (fun q => q.2 = r))) ++ (st.rowMap.filter (fun q => q.2 < 64)).map (fun q => q.1)

/-- Measured figures of the served rows of a stall that are not weak, or of all of them. -/
def rowFigures (s : State) (g : Nat) (weakToo : Bool) : List Nat :=
  let st := stallAt s g
  if st.logical.isNone then []
  else (servedRows st).filterMap (fun r => if weakToo || !st.weak.contains r then assoc (68 * g + r) s.cal.rowEpb else none)

/-- The least of a list. -/
def leastOf (l : List Nat) : Option Nat := l.head?.map (fun a => l.foldl min a)

/-- The figure of an arcade: the least over its served rows that are not weak (R279); none while no such row has been measured (log 85). -/
def arcadeFigure (s : State) (a : Nat) : Option Nat := leastOf ((List.range 34).flatMap (fun p => rowFigures s (34 * a + p) false))

/-- The arcade with the least figure, the lowest of equals, and its figure (R279). -/
def leastArcade (s : State) : Option (Nat × Nat) :=
  (List.range 24).foldl (fun (m : Option (Nat × Nat)) a =>
    match arcadeFigure s a, m with
    | none, m => m
    | some e, none => some (a, e)
    | some e, some (b, d) => if e < d then some (a, e) else some (b, d)) none

/-- The figures of stalls, arcades and the module, and E(T, 1), latched (R279, R288). -/
def latchFigures (s : State) : State :=
  let least := leastArcade s
  { s with cal := { s.cal with
    stalls := ((List.range 816).zip s.cal.stalls).map (fun q => { q.2 with epb := sat 255 ((leastOf (rowFigures s q.1 true)).getD 0) })
    arcs := ((List.range 24).zip s.cal.arcs).map (fun q => { q.2 with epb := sat 255 ((arcadeFigure s q.1).getD 0) })
    epbModule := sat 255 ((least.map (fun q => q.2)).getD 0), epbArcade := (least.map (fun q => q.1)).getD 0x1F
    epbTable := (tableBits (photonicMax s) / 1000).toNat } }

/-- E of a row in 1/16 bit (R278), from its counts and the modulus and log2 of the integration of its decisions: the greatest e with
2^(e/16 + 1.35 + k/2) at most a q, where pi/sigma is a q, a is 2 m for the count below 32 and 4 m for the count below 48, and q the inverse
tail in 2^-16 (log 85). -/
def rowFigure (m k all below32 below48 : Nat) : Nat :=
  let figure (a below : Nat) : Nat :=
    ((List.range 256).filter (fun e => decide (2 ^ (5 * e + 40 * k + 1388) ≤ (a * Config.tailInverse all below) ^ 80))).length - 1
  if 256 ≤ below32 then figure (2 * m) below32
  else if 256 ≤ below48 then figure (4 * m) below48
  else sat 255 (Config.quietFigure all below48)

/-- The physical row that serves logical row `r` of stall `g` (R39). -/
def servingRow (s : State) (g r : Nat) : Nat := (((stallAt s g).rowMap.find? (fun m => m.2 = r)).map (fun m => m.1)).getD r

/-- The soft-value counts of the span give each row with 2^20 decisions its figure, under the modulus and the integration of its last pass
(R278; log 85). -/
def measureRows (s : State) : State :=
  let keys := s.psr.soft.filterMap (fun q => (servedBy s q.2.2.stall).map (fun g => (68 * g + servingRow s g q.2.2.row, q)))
  let fresh := ((keys.map (fun k => k.1)).eraseDups).filterMap (fun k =>
    let mine := (keys.filter (fun q => q.1 = k)).map (fun q => q.2)
    let sum (f : SoftCount → Nat) : Nat := (mine.map (fun q => f q.2.2)).sum
    match mine.getLast? with
    | none => none
    | some q =>
      if 2 ^ 20 ≤ sum SoftCount.all then
        some (k, rowFigure q.1 (Nat.log2 q.2.1) (sum SoftCount.all) (sum SoftCount.below32) (sum SoftCount.below48))
      else none)
  { s with psr := { s.psr with soft := [] }
           cal := { s.cal with rowEpb := fresh.foldl (fun m q => insertKey q.1 q.2 m) s.cal.rowEpb } }

/-- Twice the median of a list (R279). -/
def twiceMedian (l : List Nat) : Nat :=
  let m := sortBy (fun a b => decide (a ≤ b)) l
  m.getD ((m.length - 1) / 2) 0 + m.getD (m.length / 2) 0

/-- Spans for which each served row has been more than 0.5 bit below its arcade's median (R279). -/
def countLow (s : State) : State :=
  let low := (List.range 24).flatMap (fun a =>
    let m := twiceMedian ((List.range 34).flatMap (fun p => rowFigures s (34 * a + p) true))
    (List.range 34).flatMap (fun p =>
      let g := 34 * a + p
      if (stallAt s g).logical.isNone then []
      else (servedRows (stallAt s g)).filterMap (fun r =>
        match assoc (68 * g + r) s.cal.rowEpb with
        | some e => if 2 * e + 16 < m then some (68 * g + r, (assoc (68 * g + r) s.cal.low).getD 0 + 1) else none
        | none => none)))
  { s with cal := { s.cal with low := low } }

/-- WEAK_ROW (R279): a row low for 4 consecutive spans becomes weak, and a probe of its stall is requested. -/
def execWeakRow (g row : Nat) (s : State) : Out :=
  if 4 ≤ (assoc (68 * g + row) s.cal.low).getD 0 ∧ ¬ (stallAt s g).weak.contains row then
    let s := modStall g (fun st => { st with weak := st.weak ++ [row] }) s
    .next (probeRequest g (raise .cal 5 { unit := some g, logical := (stallAt s g).logical.getD 0xFFFF } s))
  else .next s

/-! ### Rows and stalls that fail (R268) -/

/-- The physical rows of stall `g` that fail: those the phases fail, and those with effective phase bits below 5.6 (R268). -/
def rowsFailing (o : CalObs) (g : Nat) : List Nat :=
  (List.range 68).filter (fun r => o.fails.contains (g, r) || o.epb.any (fun q => decide (q.1 = 68 * g + r) && decide (q.2 < 90)))

/-- A spare stall passes the phases (R268). -/
def sparePasses (o : CalObs) (h : Nat) : Bool := !o.spareFails.contains h && (rowsFailing o h).isEmpty

/-- A stall with failing rows: they go to free spare rows, and are counted, else the stall to the lowest spare that passes, else it is RETIRED
(R66, R75, R268). -/
def failStall (o : CalObs) (g : Nat) (s : State) : State :=
  let st := stallAt s g
  let rows := rowsFailing o g
  let bad := failingRows st rows
  let kept := st.rowMap.map (fun q => if rows.contains q.1 then (q.1, 255) else q)
  let free := (freeSpareRows st).filter (fun r => !rows.contains r)
  if bad.length ≤ free.length then
    let s := { s with cal := { s.cal with startFails := sat 0xFFFF (s.cal.startFails + bad.length) } }
    if bad.isEmpty then s else pmaEvent 2 g [] (modStall g (fun st => { st with rowMap := kept ++ free.zip bad }) s)
  else
    let s := leaveLine g s
    match (sparesOf s (arcadeOf g)).filter (sparePasses o) with
    | [] => retireStall true g s
    | h :: _ =>
      let s := modStall h (fun sp => { sp with state := .unloaded, logical := st.logical, line := st.line, drop := .half }) s
      let s := modStall g (fun st => { st with state := .failed, logical := none }) s
      pmaEvent 3 h (le 2 g) (settleLine (arcadeOf g) st.line s)

/-- The stalls with failing rows, in ascending order. -/
def failRows (o : CalObs) (s : State) : State :=
  each (List.range 816) (fun g s => if (rowsFailing o g).isEmpty ∨ (stallAt s g).logical.isNone then s else failStall o g s) s

/-- The spare map, drop states and stall states that start-up begins from (R32, R35, R36); the swaps since power-on go on counting (R77). -/
def freshStalls (s : State) : List Stall :=
  (List.range 816).map (fun g =>
    let p := g % 34
    let n := (stallAt s g).swaps
    if p < 32 then
      { state := .unloaded, logical := some (32 * (g / 34) + p), line := p / 2, drop := if p % 2 = 0 then .half else .full, swaps := n }
    else { state := .spare, swaps := n })

/-- Drop power of an arcade against its commissioned power, in 0.5 %: readings by `read`, a stall moved to FULL alone on its line counted at twice
its commissioned reading (R70, R282, R288). -/
def arcPower (s : State) (read : Nat → Option Nat) (a : Nat) : Option Nat :=
  let served := ((List.range 34).map (fun p => 34 * a + p)).filter (fun g =>
    (stallAt s g).logical.isSome && (read g).isSome && decide ((stallAt s g).drop ≠ .parked))
  let base := (served.map (fun g =>
    (stallCal s g).commissioned * (if (stallAt s g).drop = .full ∧ (onLine s a (stallAt s g).line).length ≤ 1 then 2 else 1))).sum
  if base = 0 then none else some (sat 255 ((served.map (fun g => (read g).getD 0)).sum * 200 / base))

/-- CAL_ARC_POWER of arcade `a` set from these readings, if they give one. -/
def setArcPower (read : Nat → Option Nat) (a : Nat) (s : State) : State :=
  match arcPower s read a with
  | none => s
  | some v => { s with cal := { s.cal with arcs := update s.cal.arcs a (fun c => { c with power := v }) } }

/-- Commissioned power of each arcade: the sum of the readings that its stalls are commissioned at (R285). -/
def commissionedPowers (s : State) : List Nat :=
  (List.range 24).map (fun a => ((List.range 34).map (fun p => (stallCal s (34 * a + p)).commissioned)).sum)

/-- Inputs that a monitor calibration record covers (R284), and those whose gain step FULL measures: the drop monitors, which the reference lights,
and the reference monitor itself (log 86). -/
def recordInput (n : Nat) : Bool := decide (n < 1680) || n == 1720 || n == 1721
def gainInput (n : Nat) : Bool := decide (n < 816) || n == 1720

/-- Zero and gain of input `n` under a record (R282, R285). -/
def zeroOf (r : MonRecord) (n : Nat) : Int := Config.monZero (if recordInput n then r.zeroNo else 0) n
def gainOf (r : MonRecord) (n : Nat) : Int := Config.monGain (if gainInput n then r.gainNo else 0) n

/-- A monitor calibration record written to flash and in force (R285, R413). -/
def putMonRecord (r : MonRecord) (s : State) : State :=
  let covered := (List.range 2048).filter recordInput
  moduleRecord 5 (Config.monitorBody r.time r.power r.ref r.reading (covered.map (zeroOf r)) (covered.map (gainOf r)) r.commissioned)
    { s with cal := { s.cal with record := some r } }

/-- At the module's first start-up the drop readings commission it, in a record with a zero reference identifier (R285). -/
def commissionFirst (o : CalObs) (s : State) : State :=
  if s.cal.record.isSome then s
  else
    let s := each o.drops (fun q s => modStallCal q.1 (fun c => { c with commissioned := q.2 }) s) s
    putMonRecord { time := s.msc.calS, commissioned := commissionedPowers s } s

/-- What start-up calibration and reacquisition both end with: edition `e` that they built is current, its readings and figures stand, and
CAL_STARTUP_DONE is set (R267, R269, R285). -/
def editionBuilt (o : CalObs) (e : Edition) (s : State) : State :=
  let s := commissionFirst o s
  let e := { e with temp := photonicMax s }
  let s := { s with
    cal := { s.cal with trims := e, trimsPending := e, built := e, pending := none, edCause := 3, phase := 0, started := true
                        measured := s.cal.measured + 1
                        rowEpb := o.epb.foldl (fun m q => insertKey q.1 q.2 m) s.cal.rowEpb
                        stalls := s.cal.stalls.map (fun c => { c with readings := 0, taken := [] }) }
    tdw := { s.tdw with trimPending := false, edition := s.tdw.edition + 1 } }
  let s := each (List.range 24) (setArcPower (fun g => assoc g o.drops)) s
  raise .cal 0 {} (latchFigures s)

/-! ### Monitor inputs (R281, R282) -/

/-- Monitor input `n`. -/
def monOf (s : State) (n : Nat) : Mon := (assoc n s.cal.mons).getD {}

/-- Input `n` set to `m`. -/
def setMon (n : Nat) (m : Mon) (s : State) : State := { s with cal := { s.cal with mons := insertKey n m s.cal.mons } }

/-- Sum of the eight dark monitors of converter `j` now. -/
def darkNow (s : State) (j : Nat) : Int := (((List.range 8).map (fun k => (monOf s (2016 + 4 * k + j)).raw)).sum : Int)

/-- The same sum when the zeros in force for input `n` were taken (R282). -/
def darkThen (r : MonRecord) (n : Nat) : Int :=
  if recordInput n then (r.dark[n % 4]?).getD (Config.factoryDark (n % 4)) else Config.factoryDark (n % 4)

/-- The calibrated reading of a raw code on input `n`, in whole units (R282; log 86): dark drift enters optical inputs only, and the dark monitors
are read raw. -/
def monReading (s : State) (n raw : Nat) : Int :=
  let r := s.cal.record.getD {}
  if 2016 ≤ n then raw
  else
    let drift := if n < 1722 then darkNow s (n % 4) - darkThen r n else 0
    (8 * ((raw : Int) - zeroOf r n) - drift) * gainOf r n / 524288

/-- The calibrated value: a sentinel's is the error that its reading implies (R281). -/
def calibrated (s : State) (n raw : Nat) : Int :=
  if 816 ≤ n ∧ n < 1632 then Config.sentinelError (stallCal s (n - 816)).point (monReading s n raw) else monReading s n raw

/-- The latest calibrated value of an input that has been sampled and is not faulted. -/
def monValue (s : State) (n : Nat) : Option Int :=
  match assoc n s.cal.mons with
  | some m => if m.faulted then none else some (calibrated s n m.raw)
  | none => none

/-! ### Heater zones (R270, R271) -/

/-- The zone of a physical stall (R269): four positions each; zone 0 also holds the spare positions. -/
def zoneOf (g : Nat) : Nat := 8 * (g / 34) + (if g % 34 < 32 then g % 34 / 4 else 0)

/-- Stalls of zone `z`. -/
def zoneStalls (z : Nat) : List Nat :=
  ((List.range 4).map (fun k => 34 * (z / 8) + 4 * (z % 8) + k)) ++ (if z % 8 = 0 then [34 * (z / 8) + 32, 34 * (z / 8) + 33] else [])

/-- Served stalls of the zone whose sentinel input is not faulted. -/
def sentinels (s : State) (z : Nat) : List Nat :=
  (zoneStalls z).filter (fun g => (stallAt s g).logical.isSome && !(monOf s (816 + g)).faulted)

/-- The sensor that feeds zone `z`. -/
def zoneSensor (z : Nat) : Nat := 128 + 4 * (z / 8) + z % 8 / 2

/-- Zone `z` enters LOOP (R271); one with no valid sentinel stays in FEED (R287). -/
def enterLoop (z : Nat) (s : State) : State :=
  if (zoneAt s z).loop ∨ (sentinels s z).isEmpty then s
  else
    raise .cal 4 { unit := some z } (modZone z (fun x => { x with
      loop := true, corr := 0, calm := 0, stray := false, entryTemp := (sensorAt s (zoneSensor z)).temp }) s)

/-- The drive of mode FEED at the zone's temperature (R270). -/
def feedDrive (x : Zone) (z : Nat) (t : Int) : Int :=
  x.setDrive - (if x.kappaD = 0 then Config.zoneKappa z * (t - x.setTemp) else x.kappaN * (t - x.setTemp) / x.kappaD)

/-- The heater feed of a sample of photonic sensor `i` (R270). -/
def heaterFeed (i : Nat) (s : State) : State :=
  if i < 128 ∨ 224 ≤ i then s
  else
    let z := 8 * ((i - 128) / 4) + 2 * ((i - 128) % 4)
    let t := (sensorAt s i).temp
    each [z, z + 1] (fun z s => modZone z (fun x => if x.loop then x else { x with drive := feedDrive x z t }) s) s

/-! ### Start-up calibration and reacquisition (R267 to R269) -/

/-- Phase 6 (R267): the operating point of each sentinel, and the set temperature and drive of each zone, in FEED; a zone whose sensor is reported
invalid enters LOOP (R271). -/
def zonesSet (s : State) : State :=
  let s := { s with cal := { s.cal with
    stalls := ((List.range 816).zip s.cal.stalls).map (fun q => { q.2 with point := monReading s (816 + q.1) (monOf s (816 + q.1)).raw }) } }
  each (List.range 192) (fun z s =>
    let d := Config.zoneDrive (s.cal.measured + 1) z
    let s := modZone z (fun x => { x with loop := false, badScans := 0, corr := 0, calm := 0, stray := false
                                          setTemp := (sensorAt s (zoneSensor z)).temp, setDrive := d, drive := d }) s
    if (zoneAt s z).sensorBad then enterLoop z s else s) s

/-- The whole of start-up calibration (R267, R268). -/
def startupCalibration (o : CalObs) (s : State) : State :=
  let s := { s with stalls := freshStalls s, lge := { s.lge with subst := [], ready := [] }
                    cal := { s.cal with startFails := 0, rowEpb := [], low := []
                                        stalls := s.cal.stalls.map (fun c => { c with eoAt := 500 }) } }
  let n := s.cal.measured + 1
  editionBuilt o { base := n, zeroBase := n } (zonesSet (failRows o s))

/-- Every source pair has settled: one of it serves, or neither can (R293). -/
def pairsSettled (s : State) : Bool :=
  (List.range 28).all (fun a => (servingOf s a).isSome
    || (decide ((sourceAt s (2 * a)).state = .failed) && decide ((sourceAt s (2 * a + 1)).state = .failed)))

/-- STARTUP_CALIBRATION (R267): once every source pair has settled, with no graph resident, phase 1 begins. -/
def execStartupCalibration (s : State) : Out :=
  if pairsSettled s ∧ s.cal.phase = 0 ∧ s.seq.graphs.isEmpty then .next { s with cal := { s.cal with phase := 1, phaseAt := now s } } else .next s

/-- The bounds of phases 1 to 6, in ms (R267). -/
def phaseBounds : List Nat := [60, 400, 300, 200, 1, 50]

/-- The phase that stands `ms` after phase `k` of those listed began, each lasting as long as its bound (R267; log 87). -/
def phaseFrom (ms : Nat) : List Nat → Nat → Nat
  | [], k => k
  | b :: r, k => if ms < b then k else phaseFrom (ms - b) r (k + 1)

/-- CAL_PHASE (R288): the phases of R267 follow one another. -/
def calPhase (s : State) : Nat := if s.cal.phase = 1 then phaseFrom ((now s - s.cal.phaseAt) / 1000000) phaseBounds 1 else s.cal.phase.toNat

/-- STARTUP_CALIBRATION_DONE (R267, R424). -/
def execStartupCalibrationDone (o : CalObs) (s : State) : Out :=
  if s.cal.phase = 1 then
    let s := startupCalibration o s
    .next (if o.slow then trialRevert 2 s else s)
  else .next s

/-- REACQUISITION (R269): the heaters are swept around their stored settings. -/
def execReacquisition (s : State) : Out :=
  if pairsSettled s ∧ s.cal.phase = 0 ∧ s.seq.graphs.isEmpty then .next { s with cal := { s.cal with phase := 8, phaseAt := now s } } else .next s

/-- Rows of a die that fail. -/
def dieFails (o : CalObs) (die : Bool) : Nat :=
  (((List.range 816).filter (fun g => dieOf g == die)).map (fun g => (rowsFailing o g).length)).sum

/-- More than 1 % of a die's 27,744 rows fail (R269). -/
def fullNeeded (o : CalObs) : Bool := decide (277 < dieFails o false) || decide (277 < dieFails o true)

/-- The edition of a reacquisition: phase 5 measures the slicer zeros anew, and the rest of the current edition stands (R269, R393). -/
def reacquired (s : State) : Edition := { s.cal.trims with zeroBase := s.cal.measured + 1, zeros := [] }

/-- A reacquisition as one whole: with more than 1 % of a die's rows failing, the full sequence runs in its place (R269). -/
def reacquire (o : CalObs) (s : State) : State :=
  if fullNeeded o then startupCalibration o s
  else editionBuilt o (reacquired s) (failRows o s)

/-- REACQUISITION_DONE (R269, R424): it completes, or gives way to the full sequence. -/
def execReacquisitionDone (o : CalObs) (s : State) : Out :=
  if s.cal.phase ≠ 8 then .next s
  else
    let s := if o.slow then trialRevert 2 s else s
    if fullNeeded o then .next { s with cal := { s.cal with phase := 1, phaseAt := now s } }
    else .next (editionBuilt o (reacquired s) (failRows o s))

/-! ### Monitor samples (R271, R272, R281, R282) -/

/-- A scan of a zone's sentinels has completed (R271): the zone error is their mean; two beyond 6 mrad put the zone in LOOP, and in LOOP
each scan corrects the drive by at most 2 mrad. -/
def zoneScan (z : Nat) (s : State) : State :=
  let vs := (sentinels s z).filterMap (fun g => monValue s (816 + g))
  if vs.isEmpty then modZone z (fun x => { x with noSentinel := true }) s
  else
    let n : Int := vs.length
    let beyond (lim : Nat) : Bool := decide (lim * vs.length < vs.sum.natAbs)
    let s := modZone z (fun x => { x with
      noSentinel := false, error := (clamp (-32768) 32767 (vs.sum / n)).1, stray := x.stray || beyond 15
      badScans := if beyond 60 then min 2 (x.badScans + 1) else 0 }) s
    if (zoneAt s z).loop then
      let d := Config.zoneGain z (clamp (-20) 20 (vs.sum / n)).1
      modZone z (fun x => { x with drive := x.drive + d, corr := x.corr + d }) s
    else if (zoneAt s z).badScans = 2 then enterLoop z s
    else s

/-- The drop loop of stall `g` moves its electro-optic section (R272); it holds its last setting while the drop monitor is faulted (R287). -/
def dropLoop (g : Nat) (s : State) : State :=
  if (monOf s g).faulted ∨ (stallAt s g).drop = .parked then s
  else modStallCal g (fun c => { c with eoAt := min 1000 (Config.dropLoop c.eoAt (monOf s g).raw (stallAt s g).drop) }) s

/-- In a fallow slot the drop heater of a stall whose section stands within 10 % of an end of its range takes one step, and the section returns to
mid-range (R272). -/
def dropHeaters (s : State) : State :=
  { s with cal := { s.cal with stalls := s.cal.stalls.map (fun c =>
    if c.eoAt ≤ 100 ∨ 900 ≤ c.eoAt then { c with eoAt := 500, dropSteps := c.dropSteps + 1 } else c) } }

/-- What follows from the sample of input `n` while the module runs: the drop loop and the arcade's power, the zone error, the source's output. -/
def useSample (n : Nat) (s : State) : State :=
  if n < 816 then
    dropLoop n (setArcPower (fun g => (monValue s g).map Int.toNat) (arcadeOf n) s)
  else if n < 1632 then
    let g := n - 816
    if (sentinels s (zoneOf g)).getLast? = some g then zoneScan (zoneOf g) s else s
  else if n < 1688 then
    let i := n - 1632
    let x := sourceAt s i
    match monValue s n with
    | some v => if x.start = 0 then s else modSource i (fun x => { x with power := sat 255 (v.toNat * 200 / x.start) }) s
    | none => s
  else s

/-- The electronic dies are powered (R281, R383). -/
def diesPowered (s : State) : Bool := s.tps.groups.toNat.testBit 4

/-- MONITOR_ADC_SAMPLE (R281, R282): the next input of converter n mod 4 in its ascending scan, its sample and its consecutive railed scans; no
other input can be sampled (log 87). -/
def execMonitorAdcSample (n raw : Nat) (s : State) : Out :=
  if 2048 ≤ n ∨ 65536 ≤ raw ∨ !diesPowered s ∨ s.cal.scan.getD (n % 4) 0 ≠ n / 4 then .next s
  else
    let m := monOf s n
    let rail := decide (raw = 0) || decide (raw = 0xFFFF)
    let s := { s with cal := { s.cal with scan := update s.cal.scan (n % 4) (fun k => (k + 1) % 512) } }
    let s := setMon n { m with raw := raw, hist := (raw :: m.hist).take 8, railed := if rail then min 8 (m.railed + 1) else 0 } s
    .next (if running s then useSample n s else s)

/-- MONITOR_INPUT_FAULT (R282): railed on 8 consecutive scans. -/
def execMonitorInputFault (n : Nat) (s : State) : Out :=
  let m := monOf s n
  if m.railed = 8 ∧ m.faulted = false then
    let s := raise .cal 6 { unit := some n } (setMon n { m with faulted := true } s)
    if 816 ≤ n ∧ n < 1632 ∧ (sentinels s (zoneOf (n - 816))).isEmpty then
      .next (modZone (zoneOf (n - 816)) (fun x => { x with noSentinel := true }) s)
    else .next s
  else .next s

/-- The epochs a zone in LOOP has stayed within 1.5 mrad with a valid sensor, counted once an epoch (R271). -/
def countCalm (s : State) : State :=
  { s with cal := { s.cal with zones := s.cal.zones.map (fun x =>
    if x.loop then { x with calm := if x.stray || x.sensorBad || x.noSentinel then 0 else min 64 (x.calm + 1), stray := false } else x) } }

/-- ZONE_LOOP_EXIT (R271): after 64 such epochs the zone returns to FEED, and its coefficient becomes the ratio of the accumulated correction to the
temperature change over the episode, if that exceeded 3 degrees. -/
def execZoneLoopExit (z : Nat) (s : State) : Out :=
  let x := zoneAt s z
  if x.loop ∧ x.calm = 64 then
    let d := (sensorAt s (zoneSensor z)).temp - x.entryTemp
    let x := if 48 < d.natAbs then { x with kappaN := if d < 0 then -x.corr else x.corr, kappaD := d.natAbs } else x
    .next (modZone z (fun _ => { x with loop := false, badScans := 0, calm := 0, corr := 0 }) s)
  else .next s

/-! ### Readings (R273 to R275) -/

/-- The phase error x of a half-step decision of modulus m on residue r, in units of h/64: the soft value for decision r, less it for decision r - 1
(R273; another level is open, log 84). -/
def halfStep (m r : Nat) (d : Nat × Nat) : Int :=
  if d.1 = r then d.2 else if (d.1 + 1) % m = r then -(d.2 : Int) else Config.farReading m r d.1 d.2

/-- Modulus and residue of the tap in column `c` of physical row `r` of a hold, under a spare map (R38, R41). -/
def heldResidue (h : Hold) (map : List (Nat × Nat)) (r c : Nat) : Nat × Nat :=
  let m := heldModulus h map r
  (m, ((((h.weights.getD (rowHeld map r) []).getD c 0) % (m : Int))).toNat)

/-- The reading of stall `g` with its front hold as it stands: the sums of the 64 values of x of each tap that holds a residue other than 0, and of
each row without a column (R274). -/
def readingOf (s : State) (o : List ReadDev) (g : Nat) : Reading :=
  let st := stallAt s g
  let mine := o.filter (fun d => decide (d.stall = g) && decide (d.row < 68) && decide (1 < heldModulus st.front st.rowMap d.row))
  let sum (d : ReadDev) (q : Nat × Nat) : Int := (d.decisions.map (halfStep q.1 q.2)).sum
  { hold := st.front, map := st.rowMap
    errors := mine.filterMap (fun d =>
      let q := heldResidue st.front st.rowMap d.row d.column
      if d.column < 64 ∧ q.2 ≠ 0 then some (d.row, d.column, sum d q) else none)
    zeros := mine.filterMap (fun d =>
      if d.column = 64 then some (d.row, sum d (heldModulus st.front st.rowMap d.row, 0)) else none) }

/-- Stall `g` is read: 4,160 symbols, which count as ramp fill (R186, R274, R275). -/
def takeReading (o : List ReadDev) (code : BitVec 2) (g : Nat) (s : State) : State :=
  let q := readingOf s o g
  modStallCal g (fun c => { c with read := code, readings := min 255 (c.readings + 1), taken := c.taken ++ [q] })
    { s with seq := { s.seq with fill := update s.seq.fill (arcadeOf g) (fun k => k + 4160) } }

/-- The readings of step 5 (R274, R288): every LOADED stall that takes part in no probe and no preparation. -/
def readStalls (o : SlotObs) (s : State) : State :=
  each (List.range 816) (fun g s =>
    let st := stallAt s g
    if st.state = .loaded ∧ st.outcome = 0 then takeReading o.errors 0 g s
    else modStallCal g (fun c => { c with read := if st.logical.isSome then 1 else 2, maxCorr := if st.logical.isSome then c.maxCorr else 0 }) s) s

/-- In a short fallow slot no stall is read (R189, R288). -/
def skipReadings (s : State) : State :=
  { s with cal := { s.cal with stalls := ((List.range 816).zip s.cal.stalls).map (fun q =>
    { q.2 with read := if (stallAt s q.1).logical.isSome then 1 else 2 }) } }

/-! ### Fits (R276, R277) -/

/-- A common multiple of the numbers up to 32, and so of every modulus. -/
def common : Nat := 144403552893600

/-- The integer nearest to n / d, halves upward. -/
def nearest (n d : Int) : Int := (2 * n + d) / (2 * d)

/-- The error samples of a tap among readings, oldest first: modulus, residue and sum (R274). -/
def tapSamples (l : List Reading) (r c : Nat) : List (Nat × Nat × Int) :=
  l.filterMap (fun q =>
    let h := heldResidue q.hold q.map r c
    if h.1 ≤ 1 ∨ h.2 = 0 then none
    else some (h.1, h.2, ((q.errors.find? (fun e => e.1 = r ∧ e.2.1 = c)).map (fun e => e.2.2)).getD 0))

/-- The samples cover two residues whose phases differ by pi/2 or more (R276). -/
def wide (l : List (Nat × Nat × Int)) : Bool := l.any (fun x => l.any (fun y => decide (x.1 * y.1 ≤ 4 * (x.2.1 * y.1 - y.2.1 * x.1))))

/-- Of a sample, under a curve C and gain g: the curve's value at its residue, in 1/16 LSB times `common`, and the code error that its phase error
is on the scaled curve, in 1/16 LSB times 65536 `common` (R265, R276). -/
def fitTerm (c : Nat → Int) (g : Int) (q : Nat × Nat × Int) : Int × Int :=
  let k := 64 * q.2.1 / q.1
  let f := 64 * q.2.1 % q.1
  let u : Int := (common / q.1 : Nat)
  ((c k * (q.1 - f : Int) + c (k + 1) * f) * u, q.2.2 * (c (k + 1) - c k) * (384 + g) * u)

/-- The change of o that removes the mean code error (R276). -/
def fitOffset (ts : List (Int × Int)) : Int := nearest (-(ts.map (fun q => q.2)).sum) (65536 * common * ts.length)

/-- The changes of g and o that leave the least squares of the code error (R276; log 84); none where the curve does not rise over the samples. -/
def fitBoth (ts : List (Int × Int)) : Option (Int × Int) :=
  let n : Int := ts.length
  let sum (f : Int × Int → Int) : Int := (ts.map f).sum
  let a := sum (fun q => q.1)
  let e := sum (fun q => q.2)
  let aa := sum (fun q => q.1 * q.1)
  let ae := sum (fun q => q.1 * q.2)
  let d := n * aa - a * a
  if d ≤ 0 then none else some (nearest (a * e - n * ae) (128 * d), nearest (a * ae - aa * e) (65536 * common * d))

/-- A tap's gain and offset, or a row's slicer zero, as fitted. -/
structure TapFit where
  row : Nat
  column : Nat
  gain : Int
  offset : Int
  /-- Largest change of its code over the residues of its row's modulus, in 1/16 LSB. -/
  moved : Nat

/-- The fit of the tap in column `c` of row `r` of stall `g` to edition `e` (R276): g and o before they are clamped. -/
def fitTap (e : Edition) (g r c : Nat) (l : List (Nat × Nat × Int)) : TapFit :=
  let row := 68 * g + r
  let curve := curveAt e row
  let g0 := tapGain e row c
  let o0 := tapOffset e row c
  let ts := l.map (fitTerm curve g0)
  let d := ((if wide l then fitBoth ts else none).getD (0, fitOffset ts))
  let g1 := g0 + d.1
  let o1 := o0 + d.2
  let m := (l.getLast?.map (fun q => q.1)).getD 1
  { row := r, column := c, gain := g1, offset := o1
    moved := ((List.range (m - 1)).map (fun k =>
      (stepValue m (k + 1) curve g1 o1 - stepValue m (k + 1) curve g0 o0).natAbs / (512 * m))).foldl max 0 }

/-- The taps of stall `g` with errors among readings `l`, fitted from `need` samples or more. -/
def fitTaps (e : Edition) (need g : Nat) (l : List Reading) : List TapFit :=
  (((l.flatMap (fun q => q.errors)).map (fun x => (x.1, x.2.1))).eraseDups).filterMap (fun q =>
    let sm := tapSamples l q.1 q.2
    if need ≤ sm.length then some (fitTap e g q.1 q.2 sm) else none)

/-- The slicer zeros of stall `g` from the mean of `need` row-zero samples or more: row and change in units of 2 pi / 4096 (R276). -/
def fitZeros (need : Nat) (l : List Reading) : List (Nat × Int) :=
  (((l.flatMap (fun q => q.zeros)).map (fun x => x.1)).eraseDups).filterMap (fun r =>
    let sm := l.filterMap (fun q =>
      let m := heldModulus q.hold q.map r
      if m ≤ 1 then none else some (((assoc r q.zeros).getD 0) * ((common / m : Nat) : Int)))
    if need ≤ sm.length then some (r, nearest sm.sum (2 * common * sm.length)) else none)

/-- The fit would take g or o beyond its range (R264, R276). -/
def TapFit.clamped (f : TapFit) : Bool := (clamp 0 255 f.gain).2 || (clamp (-128) 127 f.offset).2

/-- What the readings of one stall say of its trims (R276). -/
structure StallFit where
  stall : Nat
  taps : List TapFit
  zeros : List (Nat × Int)

/-- The fits of every stall that has been read, from all its readings since the current edition was built, or from the last alone in an urgent round
(R276, R277). -/
def fitAll (urgent : Bool) (s : State) : List StallFit :=
  (List.range 816).filterMap (fun g =>
    let c := stallCal s g
    let l := if urgent then (if c.read = 0 ∨ c.read = 3 then c.taken.drop (c.taken.length - 1) else []) else c.taken
    let need := if urgent then 1 else 4
    if l.isEmpty then none else some { stall := g, taps := fitTaps s.cal.trims need g l, zeros := fitZeros need l })

/-- An edition with the changes of a stall's fit put in (R276). -/
def withFit (cur : Edition) (f : StallFit) (e : Edition) : Edition :=
  { e with
    taps := f.taps.foldl (fun m q => insertKey (64 * (68 * f.stall + q.row) + q.column)
      (BitVec.ofInt 8 (clamp 0 255 q.gain).1, BitVec.ofInt 8 (clamp (-128) 127 q.offset).1) m) e.taps
    zeros := f.zeros.foldl (fun m q => insertKey (68 * f.stall + q.1)
      (zeroAt cur (68 * f.stall + q.1) + BitVec.ofInt 12 q.2) m) e.zeros }

/-- CAL_SS_MAX_CORR of the stalls fitted, and for each with a clamped tap CAL_TAP_RANGE and a probe; a spare under check with one fails it
(R268, R276, R280). -/
def noteFits (fs : List StallFit) (s : State) : State :=
  each fs (fun f s =>
    let s := modStallCal f.stall (fun c => { c with maxCorr := min 255 ((f.taps.map (fun q => q.moved)).foldl max 0) }) s
    if f.taps.any TapFit.clamped then
      let s := raise .cal 2 { unit := some f.stall, logical := (stallAt s f.stall).logical.getD 0xFFFF } s
      if (stallCal s f.stall).read = 3 then modStall f.stall (fun st => { st with state := .failed }) s else probeRequest f.stall s
    else s) s

/-- A code moves by 0.5 LSB or more, or a slicer zero by 2 units (R276). -/
def fitMoves (f : StallFit) : Bool := f.taps.any (fun q => decide (8 ≤ q.moved)) || f.zeros.any (fun q => decide (2 ≤ q.2.natAbs))

/-- The ordinary fit (R276): an edition with all the changes found is built when one of them is large enough; it waits to be marked at the next slot.
None is built while one waits or is marked (log 84). -/
def fitOrdinary (s : State) : State :=
  let fs := fitAll false s
  let s' := noteFits fs s
  if s.cal.pending.isSome || s.tdw.trimPending || !fs.any fitMoves then s'
  else
    let e := fs.foldl (fun e f => withFit s.cal.trims f e) s.cal.trims
    { s' with cal := { s'.cal with built := { e with temp := photonicMax s }, pending := some 1 } }

/-- The urgent fit (R277, R287): the changes of this slot's readings are put on top of the edition that waits or is marked, else of the current one. -/
def fitUrgent (s : State) : State :=
  let fs := fitAll true s
  let base := if s.cal.pending.isSome then s.cal.built else if s.tdw.trimPending then s.cal.trimsPending else s.cal.trims
  let e := fs.foldl (fun e f => withFit s.cal.trims f e) base
  let s := noteFits fs s
  raise .cal 3 {} { s with cal := { s.cal with built := { e with temp := photonicMax s }, pending := some 2 } }

/-- The edition that has been built is marked pending (R266, R276); one put on top of an edition already marked stays that one edition (R287). -/
def markPending (s : State) : State :=
  match s.cal.pending with
  | none => s
  | some c =>
    let marked := s.tdw.trimPending
    let s := { s with
      tdw := { s.tdw with trimPending := true }
      cal := { s.cal with pending := none, trimsPending := s.cal.built, edCause := BitVec.ofNat 2 c
                          edCount := if marked then s.cal.edCount else s.cal.edCount + 1 } }
    if marked then s else raise .cal 1 {} s

/-- The round of this slot is urgent (R277): the photonic maximum has moved by more than 5 degrees since the readings on which the current edition
rests, or the replay rate has triggered. -/
def urgentRound (trigger : Bool) (s : State) : Bool :=
  s.cal.urgentEn && s.cal.selfTrim && (trigger || decide (80 < (photonicMax s - s.cal.trims.temp).natAbs))

/-! ### Spare checks (R280) -/

/-- The calibration tile of check number `k`: every tap holds residue k of its row's modulus, so over successive checks each holds each in turn; the set
is A (log 84). -/
def calibrationHold (s : State) (h k : Nat) : Hold :=
  let ws := List.replicate 64 (List.replicate 64 (k : Int))
  let t : Tile := { outCount := setOutputs .a }
  { valid := true, mset := some .a, tile := t, weights := ws, codes := tileCodes s.cal.trims h .a t (stallAt s h).rowMap ws
    edition := s.tdw.edition.toNat, refreshed := now s }

/-- The check of spare `h`: in HALF on line 0 the calibration tile is loaded and read, and the spare is PARKED again; one that fails enters FAILED. -/
def spareCheck (o : SlotObs) (h : Nat) (s : State) : State :=
  let k := (stallCal s h).checks
  let s := modStall h (fun st => { st with drop := .half, line := 0, front := calibrationHold s h k }) s
  let s := takeReading o.errors 3 h s
  let s := modStallCal h (fun c => { c with checks := k + 1, checkDue := s.seq.epoch + 64 }) s
  modStall h (fun st => { st with drop := .parked, front := { st.front with valid := false }
                                  state := if o.checkFails.contains h then .failed else st.state }) s

/-- The spare checks of step 5: where 8 us are left after step 4, the first spare of each arcade whose check is due, unless the slot prepares a
spare there (R72, R287). -/
def spareChecks (o : SlotObs) (s : State) : State :=
  if slotEnd s < s.seq.slotStart + 8544 then s
  else each (List.range 24) (fun a s =>
    if s.seq.prepared.contains a ∨ s.cls.dark.contains a then s
    else match (sparesOf s a).filter (fun h => decide ((stallCal s h).checkDue ≤ s.seq.epoch)) with
      | [] => s
      | h :: _ => spareCheck o h s) s

/-! ### System calibration (R283, R284, R285) -/

/-- A step refused with a status: CAL_SYSCAL_REFUSED (R283, R284). -/
def sysRefuse (st : BitVec 16) (s : State) : State := raise .cal 8 { status := st } s

/-- The comb sources go off for a step of system calibration; link sources are not touched (R284). -/
def combsOff (s : State) : State :=
  { s with cls := { s.cls with
    waits := s.cls.waits.filter (fun i => 48 ≤ i)
    sources := ((List.range 56).zip s.cls.sources).map (fun q =>
      if q.1 < 48 ∧ q.2.state ≠ .off then
        { q.2 with state := .off, due := none, role := (match q.2.state with | .locking => .warm | .locked => .warm | st => st) }
      else q.2) } }

/-- The combs lock again in their former roles. -/
def combsResume (s : State) : State :=
  { s with cls := { s.cls with sources := ((List.range 56).zip s.cls.sources).map (fun q =>
      if q.1 < 48 ∧ q.2.state = .off then { q.2 with state := q.2.role } else q.2) } }

/-- The reference laser is out of its range (R283): the reference monitor reads outside 0.50 to 2.00 mW, or the discriminator more than 2.5 GHz from
the grid, or one of them has no reading. -/
def referenceBad (s : State) : Bool :=
  match monValue s 1720, monValue s 1721 with
  | some p, some f => decide (p < 5000) || decide (20000 < p) || decide (250 < f.natAbs)
  | _, _ => true

/-- Step ZERO or FULL begins: for 0.5 s the combs are off and the converters dwell on the monitors (R284). -/
def sysBegin (who : Option Origin) (step : Nat) (o : SysObs) (s : State) : State :=
  combsOff { s with cal := { s.cal with
    phase := if step = 1 then 9 else 10, phaseAt := now s, sysRun := some { who := who, step := step, since := now s, cal := o.cal } } }

/-- What a step has measured by its end (R284): new zeros, with the dark monitors as they are now, or new gains and the reference's reading. -/
def sysMeasured (step : Nat) (s : State) : State :=
  let n := s.cal.measured + 1
  let d := s.cal.draft
  { s with cal := { s.cal with
    measured := n, stage := BitVec.ofNat 2 step
    draft := if step = 1 then { d with zeroNo := n, dark := (List.range 4).map (darkNow s) }
             else { d with gainNo := n, reading := (monValue s 1720).getD 0 } } }

/-- The 0.5 s of a step are over: the combs lock again, and a reacquisition follows (R284). -/
def sysEnd (r : SysRun) (s : State) : State :=
  let s := sysMeasured r.step { s with cal := { s.cal with sysRun := none, phase := 0 } }
  reacquire r.cal (dischargeAll (combsResume s))

/-- COMMIT (R284, R285): the drop readings commission the arcades, and the record is written. -/
def sysCommit (s : State) : State :=
  let s := each (List.range 816) (fun g s =>
    match monValue s g with
    | some v => modStallCal g (fun c => { c with commissioned := v.toNat }) s
    | none => s) s
  let r := { s.cal.draft with time := s.msc.calS, power := s.cal.power, ref := s.cal.refId, commissioned := commissionedPowers s }
  raise .cal 7 {} (dropSyscal (putMonRecord r s))

/-- A step of system calibration (R284): its status, unless it is under way, and the state after it. While one is under way the others are refused
(log 87). -/
def sysStep (who : Option Origin) (step : Nat) (o : SysObs) (s : State) : Option (BitVec 16) × State :=
  let refuse (st : BitVec 16) : Option (BitVec 16) × State := (some st, sysRefuse st s)
  if s.msc.mode ≠ .idle ∨ ¬ s.seq.graphs.isEmpty ∨ s.cal.sysRun.isSome then refuse Status.notReady
  else match step with
    | 1 => (none, sysBegin who 1 o s)
    | 2 =>
      if s.cal.stage = 0 then refuse Status.notReady
      else if referenceBad s then refuse Status.calRefRange
      else (none, sysBegin who 2 o s)
    | 3 => if s.cal.stage ≠ 2 then refuse Status.notReady else (some Status.ok, sysCommit s)
    | _ => (some Status.ok, dropSyscal s)

end Sys2Proof.Machine
end

