-- ==== Sys2Proof/Machine/Replies.lean ====
section
/-! DEFINITION. Replies, completions and reply caches of the control port, opcodes, the states that permit them, and the end of sessions
(R308 to R320, R323, R324, R339, R340, R429). -/

namespace Sys2Proof.Machine

/-! ### Opcodes (R323) -/

/-- Opcode of a command that is not immediate. -/
def jobOpcode : Job → BitVec 16
  | .sessionOpen .. => 0x0101 | .sessionConfirm _ => 0x0102 | .sessionClose => 0x0103 | .attest _ => 0x0104
  | .eventSubscribe .. => 0x0105 | .graphSubmit _ => 0x0201 | .graphRun _ => 0x0202 | .graphRelease _ => 0x0203
  | .graphReadmit _ => 0x0204 | .graphResume _ => 0x0205 | .unitTable .. => 0x0206 | .regRead .. => 0x0301
  | .regWrite .. => 0x0302 | .memRead .. => 0x0303 | .memWrite .. => 0x0304 | .laneUnit .. => 0x0310 | .syscal .. => 0x0401
  | .linkGroup .. => 0x0501 | .linkTrain _ => 0x0502 | .frostEnter => 0x0601 | .thaw => 0x0602 | .reset .. => 0x0603
  | .powerOff => 0x0604 | .calendarSet .. => 0x0605 | .updateBegin _ => 0x0701 | .updateData .. => 0x0702
  | .updateFinish => 0x0703 | .updateAbort => 0x0704 | .recoveryEnter => 0x0705 | .ledgerBatch .. => 0x0801
  | .ledgerClose _ => 0x0802 | .journalRead .. => 0x0F01 | .pageDump _ => 0x0F02

/-- Opcodes listed in R323. -/
def opcodeListed (o : Nat) : Bool :=
  [0x0001, 0x0002, 0x0003, 0x0004, 0x0005, 0x0101, 0x0102, 0x0103, 0x0104, 0x0105, 0x0201, 0x0202, 0x0203, 0x0204, 0x0205, 0x0206,
   0x0301, 0x0302, 0x0303, 0x0304, 0x0310, 0x0401, 0x0501, 0x0502, 0x0601, 0x0602, 0x0603, 0x0604, 0x0605, 0x0701, 0x0702, 0x0703,
   0x0704, 0x0705, 0x0801, 0x0802, 0x0F01, 0x0F02].contains o

/-- The state permits an opcode (R324, R429). In STANDBY, DORMANT and FROST: the immediate commands, opcodes 0x0101 to 0x0105, and the
commands marked MSC. -/
def stateAllows (m : Mode) (o : Nat) : Bool :=
  match m with
  | .idle => true
  | .active => true
  | .off => false
  | .recovery =>
    [0x0001, 0x0002, 0x0003, 0x0101, 0x0102, 0x0103, 0x0701, 0x0702, 0x0703, 0x0704, 0x0F01, 0x0603, 0x0604].contains o
  | _ =>
    o / 256 == 0 || o / 256 == 1 || [0x0601, 0x0602, 0x0603, 0x0604, 0x0605, 0x0705, 0x0F01].contains o

/-! ### Frames (R308, R310, R320) -/

/-- Session `n` changed by `f`. -/
def modSession (n : Nat) (f : Session → Session) (s : State) : State :=
  { s with cp := { s.cp with sessions := update s.cp.sessions (n - 1) f } }

/-- The reply prefix: status and detail word (R310). -/
def replyHead (st : BitVec 16) (detail : Nat) : List Byte := le 2 st.toNat ++ [0, 0] ++ le 4 detail

/-- A frame sent at the time its gate allows, and kept in its session's cache of 64 (R308, R312, R314, R320). -/
def sendFrame (f : Frame) (keep : Bool) (s : State) : State :=
  let f := { f with htLow := BitVec.ofNat 32 (sendTime s (immFrame f) (wireNs s f)) }
  let s := sendMessage f s
  if keep && f.session != 0 then
    modSession f.session (fun x => { x with cache := (x.cache ++ [f]).drop (x.cache.length + 1 - 64) }) s
  else s

/-- A reply to a request (R310, R311). -/
def reply (r : Req) (o : Nat) (tagged keep : Bool) (st : BitVec 16) (detail : Nat) (result : List Byte) (s : State) : State :=
  sendFrame { dst := r.src, session := r.session.toNat, seq := r.seq, opcode := BitVec.ofNat 16 o, tagged := tagged, completion := false
              event := false, htLow := 0, params := replyHead st detail ++ result } keep s

/-- What a command answers: status, detail word and result. -/
abbrev Answer := BitVec 16 × Nat × List Byte

/-- A command's completion (R319, R339): a frame of its session, none for one that has ended and none with OK for QUIET; or an entry of the
completion ring linked to its submission ring, from its reservation. -/
def complete (who : Origin) (a : Answer) (s : State) : State :=
  match who with
  | .cp n dst seq o quiet =>
    if 8 < n ∨ (quiet ∧ a.1 = Status.ok) then s
    else sendFrame { dst := dst, session := n, seq := seq, opcode := o, tagged := decide (n ≠ 0), completion := true, event := false
                     htLow := 0, params := replyHead a.1 a.2.1 ++ a.2.2 } true s
  | .ring i cookie =>
    let e := completionEntry s 0x41 a.1 a.2.1 cookie.toNat 0 0 0 0 0 (a.2.2.take 8)
    ringPushReserved (ringOf s i).linked.toNat e s

/-! ### The end of sessions (R318) -/

/-- Session `n` ends: its number is free, and an update lock that it holds (R420); commands accepted before complete, and their completions are not sent (R327). -/
def endSession (n : Nat) (s : State) : State :=
  let gone (w : Origin) : Origin := match w with
    | .cp k dst seq o quiet => if k = n then .cp 255 dst seq o quiet else w
    | w => w
  let s := modSession n (fun _ => {}) s
  { s with msc := { s.msc with
      waiting := s.msc.waiting.map (fun w => (gone w.1, w.2))
      held := s.msc.held.map (fun h => { h with who := gone h.who })
      update := s.msc.update.bind (fun u => if gone u.who = u.who then some u else none) }
           cal := { s.cal with sysRun := s.cal.sysRun.map (fun r => { r with who := r.who.map gone }) } }

/-- Every session ends. -/
def endSessions (s : State) : State := each (List.range 8) (fun n s => if (sessionAt s (n + 1)).state = .free then s else endSession (n + 1) s) s

/-- What else a command does that the state does not permit (R284, R392): THAW is a request refused, SYSCAL a step refused. -/
def stateRefused (o : Nat) (s : State) : State :=
  match o with
  | 0x0602 => raise .msc 2 { status := Status.notReady } s
  | 0x0401 => raise .cal 8 { status := Status.notReady } s
  | _ => s

/-- Waiting commands that the state does not permit end with NOT_READY (R324, R327). -/
def purgeWaiting (s : State) : State :=
  let out := s.msc.waiting.filter (fun w => !stateAllows s.msc.mode (jobOpcode w.2).toNat)
  let s := { s with msc := { s.msc with waiting := s.msc.waiting.filter (fun w => stateAllows s.msc.mode (jobOpcode w.2).toNat) } }
  each out (fun w s => complete w.1 (Status.notReady, 0, []) (stateRefused (jobOpcode w.2).toNat s)) s

end Sys2Proof.Machine
end

