-- ==== Sys2Proof/Machine/Lifecycle.lean ====
section
/-! DEFINITION. STOP NOW, the end of residence, abandoned preparations, what power changes lose, and the contents each reset covers
(R322, R391 to R400, R467). -/

namespace Sys2Proof.Machine

/-! ### Bulk descriptors (R340, R350 to R352) -/

/-- An entry of a bulk descriptor posted to its completion ring: CE_TYPE 0x45, a list entry with its index (log 39). -/
def postBulk (ring : Nat) (cookie : DWord) (st : BitVec 16) (detail index moved : Nat) (s : State) : State :=
  ringPushReserved (ringOf s ring).linked.toNat (completionEntry s 0x45 st detail cookie.toNat 0 index 0 0 moved []) s

/-- Descriptor `j` ends with status `st` (R349, R351): under COMPLETION_EACH the entries not yet posted post theirs; its own entry follows if
COMPLETION is set or it failed; what it reserved beyond is free. -/
def finishBulk (j : BulkJob) (st : BitVec 16) (s : State) : State :=
  let s := { s with hif := { s.hif with bulk := s.hif.bulk.filter (fun k => k.ring ≠ j.ring) } }
  let listed := j.flags.toNat.testBit 1 && j.flags.toNat.testBit 2
  let done := j.moved.length
  let left := if listed then j.entries - done else 0
  let s := if listed then each (List.range left) (fun i s => postBulk j.ring j.cookie st 0 (done + i) (if i = 0 then j.part else 0) s) s else s
  let own := j.flags.toNat.testBit 0 || (!listed && (st != Status.ok || j.first != Status.ok))
  let s := if own then postBulk j.ring j.cookie (if j.first = Status.ok then st else j.first) 0 0 (j.moved.sum + j.part) s else s
  let free := j.reserved - left - bool own
  modRing (ringOf s j.ring).linked.toNat (fun r => { r with reserved := r.reserved - free }) s

/-- Every descriptor in progress ends at once; its ring survives, and its completion entry says HW_UNIT_FAULT (R352; log 37). -/
def abortBulk (s : State) : State := each s.hif.bulk (fun j s => finishBulk j Status.hwUnitFault s) s

/-! ### Work -/

/-- STOP mode NOW (R322): every task not complete ends with STOPPED, and every graph is PAUSED. -/
def stopNow (s : State) : State :=
  let s := { s with seq := { s.seq with
    graphs := s.seq.graphs.map (fun g => { g with paused := true, resume := false }) } }
  each (s.seq.graphs.map (fun g => g.slot)) (fun g s => endAllTasks g Status.stopped s) s

/-- Every graph leaves residence, and nothing it reserved in a ring stays reserved (R171, R395). -/
def leaveAll (s : State) : State :=
  { s with
    seq := { s.seq with graphs := [], replayHold := none, lightHold := none, linkHold := none, substHold := none }
    psr := { s.psr with flights := [], optWait := [], queue0 := [], queue1 := [], accs := [], soft := [] }
    squ := { s.squ with regs := s.squ.regs.map (fun r => { r with used := false, hist := [] }) }
    lge := { s.lge with banks := List.replicate 4 {}, serving := [0, 0] }
    xl := { s.xl with outlier := [] }
    ole := { s.ole with coll := none, requests := [], reconf := [], steering := none }
    hif := { s.hif with rings := s.hif.rings.map (fun q => (q.1, { q.2 with reserved := 0 })) } }

/-- System calibration not committed is abandoned (R284); a step under way ends, its combs resume, and its command completes with NOT_READY (log 87). -/
def abandonStep (s : State) : State :=
  match s.cal.sysRun with
  | none => dropSyscal s
  | some r =>
    let s := combsResume (dropSyscal s)
    match r.who with
    | some w => complete w (Status.notReady, 0, []) s
    | none => s

/-- Work stops with no completion: executors, bulk descriptors and tasks end, and the graphs are gone (R365, R377; log 31). -/
def dropWorkAll (s : State) : State :=
  let s := abandonStep (leaveAll s)
  { s with hif := { s.hif with bulk := [] } }

/-- The drop state of a physical stall that its line's servers give it (R36, R70): along the bus, positions 32 and 33 come first. -/
def settledDrop (s : State) (g : Nat) : Drop :=
  let busPlace (h : Nat) : Nat := if 32 ≤ h % 34 then h % 34 - 32 else h % 34 + 2
  let st := stallAt s g
  if st.logical.isNone then .parked
  else
    match ((List.range 34).map (fun p => 34 * (g / 34) + p)).find? (fun h =>
      decide (h ≠ g) && (stallAt s h).logical.isSome && decide ((stallAt s h).line = st.line)) with
    | some h => if busPlace g < busPlace h then .half else .full
    | none => .full

/-- Preparations under way are abandoned: the spare map and the drop states are those in force before them (R369, R407). The stalls of an arcade gone
dark retire at the next boundary all the same (R300). -/
def abandonPreparations (s : State) : State :=
  { s with
    stalls := ((List.range 816).zip s.stalls).map (fun q =>
      { q.2 with outcome := if s.cls.dark.contains (arcadeOf q.1) then q.2.outcome else 0, outRows := [], outSpare := none, drop := settledDrop s q.1
                 front := if q.2.state = .spare then {} else q.2.front, shadow := if q.2.state = .spare then {} else q.2.shadow })
    seq := { s.seq with prepared := [] }
    lge := { s.lge with ready := [] }
    cls := { s.cls with waits := [], requests := [], sources := s.cls.sources.map (fun x => { x with due := none }) } }

/-! ### Contents lost -/

/-- HBM3E contents, through the spill map included, are lost (R398). -/
def loseHbm (s : State) : State := { s with mem := Memory.lose 0 hbmEnd s.mem }

/-- LPDDR5X contents are lost. -/
def loseLpddr (s : State) : State := { s with mem := Memory.lose lpddrBase lpddrEnd s.mem }

/-- Staging contents are lost. -/
def loseStaging (s : State) : State := { s with mem := Memory.lose stagingBase stagingEnd s.mem }

/-- Link ports enter DARK with their light, and every port terminates (R245, R263, R365). -/
def portsDark (s : State) : State :=
  let s := each (List.range 4) (fun p s => if (portOf s p).state = .dark then s else portDark p s) s
  groupState { s with ole := { s.ole with
    switch := 0, lanes := s.ole.lanes.map (fun l => { l with state := .idle, replaces := none, pauseUntil := none }) } }

/-- The update lock and the manifests held end (R420). -/
def endUpdate (s : State) : State := { s with msc := { s.msc with update := none, held := [] } }

/-! ### Blocks in reset (R397, R399, R467) -/

/-- The events and the latches of these blocks return to their reset values. -/
def clearBlocks (bs : List Nat) (s : State) : State :=
  let ev := (List.range 16).foldl (fun (e : EventRegs) b => if bs.contains b then e.write (srcOf b) 0 else e) s.ev
  let ev := if bs.contains 12 then ev.write .cp 0 else ev
  { s with ev := ev, hif := { s.hif with latches := s.hif.latches.filter (fun l => !bs.contains (l.2.1 / 0x100000)) } }

/-- Blocks 0 and 2: holds discharged, spare map and counts since power-on kept (R398, R399; log 32). -/
def resetArray (s : State) : State :=
  let s := dischargeAll s
  { s with
    stalls := s.stalls.map (fun st => { st with front := {}, shadow := {}, preload := false, aborts := 0 })
    tdw := { edition := s.tdw.edition } }

/-- Block 3: pipeline and replay units emptied, counters cleared; block 4: counters cleared, scale registers kept (R399). -/
def resetPsr (s : State) : State := { s with psr := { accs := s.psr.accs } }
def resetSqu (s : State) : State := { s with squ := { regs := s.squ.regs } }

/-- A substituted stall without the tables of its tiles. -/
def Subst.cleared (x : Subst) : Subst := { x with front := none, shadow := none }

/-- Blocks 5 and 6: product tables and substitution store cleared (R399). -/
def resetLge (s : State) : State := { s with lge := { subst := s.lge.subst.map Subst.cleared } }
def resetXl (s : State) : State := { s with xl := {} }

/-- Block 11: the group and the rest setting at their reset values, ports that have light train again (R398, R399). -/
def resetLinks (s : State) : State :=
  let ports := s.ole.ports.map (fun q =>
    let q' : Port := { state := if q.state = .dark then .dark else .training, peer := q.peer, peerPort := q.peerPort, blocked := q.blocked
                       probes := q.probes }
    q')
  let lanes := s.ole.lanes.map (fun l =>
    let l' : LinkLane := { state := if l.state = .dark then .dark else .idle }
    l')
  { s with ole := { ports := ports, lanes := lanes }, seq := { s.seq with linkHold := none } }

/-- Block 13: zones in FEED, a pending edition discarded, the current edition, the monitor record, the figures and the count of editions since
power-on kept (R398, R399; log 32). -/
def resetCal (s : State) : State :=
  let c := s.cal
  { s with
    cal :=
      { record := c.record, measured := c.measured, edCount := c.edCount
        mons := c.mons, scan := c.scan, trims := c.trims, trimsPending := c.trims, started := c.started, rowEpb := c.rowEpb
        low := c.low
        arcs := c.arcs
        zones := c.zones.map (fun z => { z with loop := false, badScans := 0, calm := 0, corr := 0, stray := false })
        stalls := c.stalls.map (fun x =>
          let y : StallCal :=
            { commissioned := x.commissioned, dropSteps := x.dropSteps, eoAt := x.eoAt, point := x.point, checkDue := x.checkDue
              checks := x.checks, epb := x.epb }
          y) }
    tdw := { s.tdw with trimPending := false } }

/-- No epoch is open: the next one opens at a multiple of L (R181). -/
def stopEpochs (s : State) : State :=
  { s with seq := { s.seq with
    boundary := 0, fallow := false, short := false, overrun := false, page := {}, next := {}, ran := [] } }

/-- Block 7. -/
def resetSeq (s : State) : State := { s with seq := { epoch := s.seq.epoch, graphs := s.seq.graphs } }

/-- Block 1: source states and dark arcades kept (R398). -/
def resetCls (s : State) : State := { s with cls := { sources := s.cls.sources, dark := s.cls.dark } }

/-- Blocks 9 and 10: counters; the states of the stacks and of the tier and the spill map stay (R398). -/
def resetMemories (s : State) : State :=
  { s with
    hms := { spill := s.hms.spill, outOfService := s.hms.outOfService
             hbm := s.hms.hbm.map (fun k =>
               let k' : Stack := { state := k.state }
               k') }
    lms := { tier := s.lms.tier, failed := s.lms.failed, failing := s.lms.failing } }

/-- The engine half or die of a flight's stalls. -/
def flightDie (f : Flight) : Bool := dieOfLogical (f.stalls.headD (0, {})).1

/-- The contents of one half of blocks 2 to 6, or of one engine of block 11 (R403): the registers that both halves share stay (log 34). -/
def resetHalf (block half : Nat) (s : State) : State :=
  let die := decide (half = 1)
  let keep (f : Flight) : Bool := flightDie f != die
  match block with
  | 2 => { s with stalls := ((List.range 816).zip s.stalls).map (fun q => if dieOf q.1 == die then dischargeStall q.2 else q.2) }
  | 3 => { s with psr := { s.psr with
      flights := s.psr.flights.filter keep, optWait := s.psr.optWait.filter keep
      queue0 := if die then s.psr.queue0 else [], queue1 := if die then [] else s.psr.queue1 } }
  | 5 => { s with lge := { s.lge with
      banks := update (update s.lge.banks (2 * half) (fun _ => {})) (2 * half + 1) (fun _ => {})
      serving := update s.lge.serving half (fun _ => 0)
      subst := s.lge.subst.map (fun x => if dieOfLogical x.logical == die then x.cleared else x) } }
  | _ => s

/-! ### Resets of the bulk port (R399, R400) -/

/-- A ring's memory lies in a host window. -/
def ringInWindow (r : Ring) : Bool := decide (windowBase ≤ r.base)

/-- A ring disabled by a reset: its configuration stays, its indices and what was open are gone. -/
def ringOff (r : Ring) : Ring :=
  { r with state := .disabled, prod := 0, cons := 0, cause := 0, lost := 0, unsignalled := 0, oldest := 0, gapFirst := none
           gapCount := 0, reserved := 0, batch := [], closed := [], sigWait := [], batchGap := false }

/-- Bulk descriptors in progress end without a completion entry; what they reserved is free (R352, R400). -/
def endBulk (s : State) : State :=
  each s.hif.bulk (fun j s => modRing (ringOf s j.ring).linked.toNat (fun r => { r with reserved := r.reserved - j.reserved }) s)
    { s with hif := { s.hif with bulk := [] } }

/-- The copies and the gaps of rings with property `p` are dropped, as when a ledger ring is disabled (R212). -/
def dropCopies (p : Nat → Bool) (s : State) : State :=
  { s with msc := { s.msc with copies := s.msc.copies.filter (fun c => !p c.1), copyGap := s.msc.copyGap.filter (fun c => !p c.1) } }

/-- The contents of a function reset (R400): windows and the rings in them disabled, descriptors ended, MSI-X and the interrupt registers
at their reset values. -/
def resetFunction (s : State) : State :=
  let s := endBulk (dropCopies (fun i => ringInWindow (ringOf s i)) s)
  { s with hif := { s.hif with
      wins := List.replicate 64 {}
      rings := s.hif.rings.map (fun q => if ringInWindow q.2 then (q.1, ringOff q.2) else q)
      irqGlobal := false, irqEn := List.replicate 17 0, irqVec := List.replicate 17 0
      msixMask := 0xFFFFFFFFFFFFFFFF, msixPending := 0 } }

/-- The contents of a reset of block 12 (R399): every ring disabled, descriptors ended, sessions kept. -/
def resetHif (s : State) : State :=
  let s := endBulk (dropCopies (fun _ => true) s)
  let h := s.hif
  let c := s.cp
  { s with
    hif := { plUp := h.plUp, plSpeed := h.plSpeed, plWidth := h.plWidth, plMps := h.plMps, eventNumber := h.eventNumber }
    cp := { linkUp := c.linkUp, sqi := c.sqi, sessions := c.sessions, assemblies := c.assemblies, nonce := c.nonce } }

/-! ### RECOVERY (R392, R404, R429) -/

/-- RECOVERY is entered: all work ends, the groups above G1 go down, and the mask ROM serves; a trial is abandoned (R431). -/
def enterRecovery (s : State) : State :=
  let s := abandonPreparations (dropWorkAll s)
  let s := portsDark (sourcesOff s)
  let s := loseStaging (loseLpddr (loseHbm (dischargeAll s)))
  let s := { s with
    regions := []
    tps := { s.tps with groups := 3 }
    msc := { s.msc with
      action := none, resetting := none, running := true, rcvState := 0, rcvStatus := 0
      fw := s.msc.fw.map (fun f => { f with trial := none }) } }
  raise .msc 3 {} (purgeWaiting (enterMode .recovery s))

/-! ### Measured boot (R411, R416, R429) -/

/-- A slot of a component passes: verified, and not below the counter. -/
def slotPasses (f : FwSlot) (b : Bool) : Bool :=
  (if b then f.bValid else f.aValid) && decide (f.counter.toNat ≤ (f.security.getD (fwIndex b) 0).toNat)

/-- Component `c` at a start: its active slot, else the other one; outside a trial its counter commits (R429). -/
def bootComponent (c : Nat) (s : State) : State :=
  let f := fwOf s c
  let s := if !slotPasses f f.active && slotPasses f (!f.active) then
      modFw c (fun f => { f with active := !f.active, trial := none, pending := none }) s else s
  let f := fwOf s c
  let sec := f.security.getD (fwIndex f.active) 0
  if slotPasses f f.active && f.trial.isNone && decide (f.counter.toNat < sec.toNat) then
    commitCounter c sec s
  else s

/-- The measured boot of a start of the MSC core: the chain is final, or the module enters RECOVERY. -/
def measuredBoot (s : State) : State :=
  let s := each [0, 1, 2, 3, 4] bootComponent s
  let s := { s with msc := { s.msc with identityOk := identityMatches } }
  if identityMatches && [0, 1, 2, 3, 4].all (fun c => slotPasses (fwOf s c) (fwOf s c).active) then
    { s with msc := { s.msc with chain := bootChain s, booted := true } }
  else enterRecovery s

/-! ### Frost and trip records (R366) -/

/-- A temperature as 16 bits. -/
def tempBytes (t : Int) : List Byte := le 2 (twos 16 t)

/-- TPS_MAX_TEMP of a domain: 0x8000 when its sensors are all unpowered (R355), its reading otherwise. -/
def maxTemp (s : State) (d : Nat) : Int := if domainPowered s d then (domainReading s d).getD 0 else -32768

/-- The head and the tail of a Frost or trip record. -/
def frostHead (type cause sensor : Nat) (t : Int) (state : Nat) : List Byte :=
  [BitVec.ofNat 8 type, BitVec.ofNat 8 cause] ++ le 2 sensor ++ tempBytes t ++ [BitVec.ofNat 8 (sensorDomain sensor), BitVec.ofNat 8 state]
def frostTail (s : State) : List Byte := (List.range 7).flatMap (fun d => tempBytes (maxTemp s d))

/-! ### What power-on and cold reset start from (R397, R398, R425; log 32) -/

/-- Ledger rings whose copies, batches and signature records a reset loses (R398): the first batch after it carries GAP_BEFORE. -/
def lostLedgers (s : State) : List (Nat × Nat × Nat) :=
  s.hif.rings.filterMap (fun q =>
    if q.2.type = .ledger ∧ (!q.2.batch.isEmpty ∨ !q.2.closed.isEmpty ∨ s.msc.copies.any (fun c => c.1 = q.1)) then
      some (q.1, 0, q.2.ledgerSeq - 1) else none)

/-- Everything at its reset values but the flash, the backup domain, the pins and the environment. -/
def flashOnly (s : State) : State :=
  let fw := s.msc.fw.map (fun f =>
    { f with trial := f.trial.map (fun _ => 60000000000), pending := f.pending.map (fun _ => 0) })
  let msc : Msc :=
    { strapSlot := s.msc.strapSlot, strapPcieOff := s.msc.strapPcieOff, strapMaster := s.msc.strapMaster, resetHeld := s.msc.resetHeld
      calS := s.msc.calS, calNs := s.msc.calNs, calSet := s.msc.calSet, journal := s.msc.journal, journalHead := s.msc.journalHead
      journalSeq := s.msc.journalSeq, ownerKey := s.msc.ownerKey, hostKeys := s.msc.hostKeys, ledgerSlot := s.msc.ledgerSlot
      records := s.msc.records, hostTimes := s.msc.hostTimes, configSeqs := s.msc.configSeqs, fw := fw, powerSeen := s.msc.powerSeen
      copyGap := s.msc.copyGap ++ lostLedgers s }
  let tps : Tps :=
    { trip := s.tps.trip, switch := s.tps.switch, calLost := s.tps.calLost, pwrEn := s.tps.pwrEn, offLatch := s.tps.offLatch, inV := s.tps.inV
      inI := s.tps.inI, bkCap := s.tps.bkCap, bkExt := s.tps.bkExt, inputLow := s.tps.inputLow
      inputHigh := s.tps.inputHigh }
  let cal : Cal :=
    { record := s.cal.record, measured := s.cal.measured
      stalls := s.cal.stalls.map (fun x =>
        let y : StallCal := { commissioned := x.commissioned }
        y) }
  { msc := msc, tps := tps, cal := cal, cp := { nonce := s.cp.nonce }, hostMem := s.hostMem, out := s.out, fresh := s.fresh
    pending := s.pending }

/-- The module with its power gone: OFF (R377, R367). -/
def poweredOff (s : State) : State :=
  let t := flashOnly s
  { t with tps := { t.tps with groups := 1, switch := false }, msc := { t.msc with mode := .off, prev := s.msc.mode, running := false, copyGap := [] } }

/-- The MSC runs from mask ROM after power-on (R367, R374, R378): a latched trip and a power record are reported. -/
def powerOn (source : Nat) (s : State) : State :=
  let t := flashOnly s
  let t := { t with msc := { t.msc with mode := .standby, prev := .off, rcType := 1, rcSource := source } }
  let t := match t.tps.trip with
    | none => t
    | some (i, temp, secs, ns) =>
      let at' (x : State) (a b : Nat) : State := { x with msc := { x.msc with calS := a, calNs := b } }
      let u := journalTwo (frostHead 0x62 4 i temp 0) (frostTail t) (at' { t with tps := { t.tps with trip := none } } secs ns)
      raise .tps 6 { unit := some i } (at' u t.msc.calS t.msc.calNs)
  let t := if t.tps.calLost then raise .tps 16 {} { t with tps := { t.tps with calLost := false } } else t
  let t := if t.msc.powerSeen then raise .tps 14 {} { t with msc := { t.msc with powerSeen := false } } else t
  raise .msc 1 {} (raise .msc 0 {} t)

/-- A cold reset's contents: as power-on, with the event number, LPDDR5X and the counts since power-on kept. -/
def coldContents (s : State) : State :=
  let t := flashOnly s
  { t with
    msc := { t.msc with
      mode := s.msc.mode, prev := s.msc.prev, rcType := s.msc.rcType, rcSource := s.msc.rcSource, rcBlock := s.msc.rcBlock
      rcHalf0 := s.msc.rcHalf0, rcHalf1 := s.msc.rcHalf1, rcCount := s.msc.rcCount, refault0 := s.msc.refault0, refault1 := s.msc.refault1
      wdTotal := s.msc.wdTotal, wdLongest := s.msc.wdLongest }
    tps := { t.tps with skipped := s.tps.skipped, frosts := s.tps.frosts, excCount := s.tps.excCount, pkExc := s.tps.pkExc
                        pkP100 := s.tps.pkP100, groups := 15 }
    hif := { eventNumber := s.hif.eventNumber }
    tdw := { edition := s.tdw.edition }
    cal := { t.cal with edCount := s.cal.edCount }
    stalls := s.stalls.map (fun st =>
      let st' : Stall := { swaps := st.swaps }
      st')
    mem := loseStaging (loseHbm s) |>.mem }

end Sys2Proof.Machine
end

