-- ==== Sys2Proof/Machine/Rings.lean ====
section
/-! DEFINITION. Rings: their registers, enable and disable, doorbells, room that returns, message moderation, windows and the PCI Express
link (R329 to R337, R343 to R346, R353, R444). -/

namespace Sys2Proof.Machine

/-! ### Types and places -/

/-- The ring type of a code (R329). -/
def ringTypeOf (n : Nat) : Option RingType :=
  match n with
  | 0 => some .submission | 1 => some .completion | 2 => some .event | 3 => some .telemetry | 4 => some .ledger | 5 => some .bulk | _ => none

/-- The code of a ring type. -/
def ringTypeCode : RingType → Nat
  | .submission => 0 | .completion => 1 | .event => 2 | .telemetry => 3 | .ledger => 4 | .bulk => 5

/-- The host produces the entries. -/
def hostProduced (t : RingType) : Bool := t = .submission || t = .bulk

/-- A ring event of block 12. -/
def ringEvent (b i : Nat) (s : State) : State := raise .hif b { unit := some i } s

/-- The ring's bytes lie wholly within one of HBM3E, the LPDDR5X lower range, staging SRAM or one enabled window, and in service (R330). -/
def ringPlaced (s : State) (a n : Nat) (write : Bool) : Bool :=
  let z := a + n
  (decide (z ≤ hbmEnd) || (decide (lpddrBase ≤ a) && decide (z ≤ spillBase)) || (decide (stagingBase ≤ a) && decide (z ≤ stagingEnd))
    || (decide (windowBase ≤ a) && (a - windowBase) / 2 ^ 40 == (z - 1 - windowBase) / 2 ^ 40))
  && inService s a n write

/-- The ring is named elsewhere (R334): by a resident graph, as the module event ring or the telemetry ring while those are in use, or as
the completion ring of an enabled ring of the host (log 94). -/
def ringNamed (s : State) (i : Nat) : Bool :=
  s.seq.graphs.any (fun g => g.compRing == i || g.eventRing == i || g.ledgerRing == i)
    || (s.hif.evRingEn && s.hif.evRing.toNat == i) || (s.hif.tcEn && s.hif.tcRing.toNat == i)
    || s.hif.rings.any (fun q => decide (q.2.state ≠ .disabled) && hostProduced q.2.type && q.2.linked.toNat == i)

/-! ### Enable and disable (R330, R334, R335) -/

/-- The ring with these contents may be enabled as ring `i`. -/
def enableAllowed (s : State) (i : Nat) (r : Ring) : Bool :=
  let n := 64 * r.capacity
  let units := coveredUnits r.base n
  let others := { s with hif := { s.hif with rings := s.hif.rings.filter (fun q => q.1 ≠ i) } }
  let link := ringOf s r.linked.toNat
  r.base % 64 == 0 && ringPlaced s r.base n (!hostProduced r.type)
    && units.all (fun u => !(unitsTaken s u.1).contains u.2 && !(ringUnits others u.1).contains u.2)
    && (!hostProduced r.type || (decide (link.state = .enabled) && decide (link.type = .completion)))

/-- A ring as it is set up at enable: indices and LR_SEQ from 0, B at 256, a new batch, nothing lost (R212, R331, R353; log 94). -/
def ringSetUp (r : Ring) : Ring :=
  { ringOff r with state := .enabled, ledgerSeq := 0, batchB := 256, batchFirst := 0, batchAt := 0 }

/-- Ring `i` disabled (R334): a ledger ring's open batch, its queued copies and its waiting signature records are dropped, and an update
session held through a submission ring ends (R212, R420). -/
def disableRing (i : Nat) (s : State) : State :=
  let r := ringOf s i
  let s := setRing i { r with state := .disabled, unsignalled := 0, reserved := 0, gapFirst := none, gapCount := 0, batch := [], closed := []
                              sigWait := [], batchGap := false } s
  let mine (w : Origin) : Bool := match w with | .ring k _ => k == i | _ => false
  { s with msc := { s.msc with
      copies := s.msc.copies.filter (fun c => c.1 ≠ i), copyGap := s.msc.copyGap.filter (fun c => c.1 ≠ i)
      update := s.msc.update.bind (fun u => if mine u.who then none else some u) } }

/-- A write of HIF_RING_CFG (R334, R353, R437). -/
def writeRingCfg (i : Nat) (w : Word) (s : State) : State :=
  let r := ringOf s i
  let en := bit w 31
  if r.state ≠ .disabled then
    if en ∨ ringNamed s i then ringEvent 6 i s else disableRing i s
  else
    match ringTypeOf (bits w 30 28) with
    | none => ringEvent 7 i s
    | some t =>
      let size := bits w 27 24
      if size < 3 then ringEvent 7 i s
      else
        let r := { r with type := t, size := BitVec.ofNat 4 size }
        if !en then setRing i r s
        else if regBase ≤ r.base ∧ r.base < regEnd then ringEvent 7 i s
        else if enableAllowed s i r then
          let lost := s.msc.copyGap.any (fun c => c.1 = i)
          let s := setRing i { ringSetUp r with batchGap := t = .ledger && lost } s
          { s with msc := { s.msc with copyGap := s.msc.copyGap.filter (fun c => c.1 ≠ i) } }
        else ringEvent 6 i s

/-- A write of another register of a ring that is not enabled: 1 and 2 the base, 3 the link, 4 the moderation (R353). -/
def writeRingReg (i k : Nat) (w : Word) (s : State) : State :=
  let r := ringOf s i
  if r.state ≠ .disabled then ringEvent 6 i s
  else match k with
    | 1 => if bits w 5 0 = 0 then setRing i { r with baseLo := w } s else ringEvent 7 i s
    | 2 => setRing i { r with baseHi := w } s
    | 3 => setRing i { r with linked := BitVec.ofNat 14 (bits w 31 18), intEn := bit w 17, vector := BitVec.ofNat 6 (bits w 16 11) } s
    | _ =>
      if bits w 31 16 = 0 then ringEvent 7 i s
      else setRing i { r with modCount := BitVec.ofNat 16 (bits w 31 16), modTime := BitVec.ofNat 16 (bits w 15 0) } s

/-! ### Doorbells (R333) -/

/-- The host's new index `v` for ring `i`. -/
def doorbell (i : Nat) (v : Word) (s : State) : State :=
  let r := ringOf s i
  if r.state ≠ .enabled then ringEvent 6 i s
  else if hostProduced r.type then
    if r.capacity < (v - r.cons).toNat ∨ r.capacity < (v - r.prod).toNat then ringEvent 5 i (faultRing i 1 s)
    else setRing i { r with prod := v } s
  else if r.used < (v - r.cons).toNat then ringEvent 5 i (faultRing i 2 s)
  else setRing i { r with cons := v } s

/-! ### Room, moderation and the link (R214, R336, R337, R343) -/

/-- Signature records that wait are written while the ring has room for all 22 entries of one (R214). -/
def writeSignatures (i : Nat) : Nat → State → State
  | 0, s => s
  | f + 1, s =>
    match (ringOf s i).sigWait with
    | [] => s
    | es :: rest =>
      if ringTakes s i 22 then writeSignatures i f (each es (ringPush i) (modRing i (fun r => { r with sigWait := rest }) s)) else s

/-- RING_ROOM_RETURN (R214, R337, R341): a gap record first, then signature records that wait. Entries waiting at the head of submission
and bulk rings come with their own commands. -/
def execRingRoomReturn (ring : BitVec 14) (s : State) : Out :=
  let i := ring.toNat
  let r := ringOf s i
  if r.state ≠ .enabled ∨ r.room = 0 then .next s
  else match r.type with
    | .event => .next (writeGap i s)
    | .ledger => .next (writeSignatures i r.sigWait.length s)
    | _ => .next s

/-- MSIX_MODERATION_TIMEOUT (R336): the oldest entry not yet signalled has waited HIF_RM_TIME. -/
def execMsixModerationTimeout (ring : BitVec 14) (s : State) : Out :=
  let i := ring.toNat
  let r := ringOf s i
  if r.intEn ∧ 0 < r.unsignalled then
    let s := advanceTo (r.oldest + r.modTime.toNat * 1000) s
    .next (sendVector r.vector.toNat (modRing i (fun r => { r with unsignalled := 0 }) s))
  else .next s

/-- MSIX_UNMASK (R444): a vector whose Pending Bit is set sends its message. -/
def execMsixUnmask (v : BitVec 6) (s : State) : Out :=
  let m := BitVec.ofNat 64 (2 ^ v.toNat)
  let s' := { s with hif := { s.hif with msixMask := s.hif.msixMask &&& ~~~m, msixPending := s.hif.msixPending &&& ~~~m } }
  if s.hif.msixPending.toNat.testBit v.toNat then .next (sendVector v.toNat s') else .next s'

/-- The bytes of the egress buffer sent to the host in order (R347). -/
def sendEgress (s : State) : State :=
  { s with hostMem := s.hif.egress.foldl (fun m q => Memory.set q.1 q.2 m) s.hostMem, hif := { s.hif with egress := [] } }

/-- PCIE_LINK_UP (R343, R347, R353): what waited in the egress buffer is sent. -/
def execPcieLinkUp (speed : BitVec 3) (width mps : BitVec 4) (s : State) : Out :=
  if s.msc.strapPcieOff ∨ s.msc.mode = .off ∨ ¬ (1 ≤ speed.toNat ∧ speed.toNat ≤ 5) ∨ ¬ [1, 2, 4, 8].contains width.toNat ∨ 2 < mps.toNat then
    .next s
  else
    let u := sendEgress s
    .next { u with hif := { u.hif with plUp := true, plSpeed := speed, plWidth := width, plMps := mps } }

/-- PCIE_LINK_DOWN (R343). -/
def execPcieLinkDown (s : State) : Out := .next { s with hif := { s.hif with plUp := false } }

/-! ### Windows (R346) -/

/-- Bytes `a` to `a + n - 1` touch window `w`. -/
def touchesWindow (w a n : Nat) : Bool :=
  n != 0 && decide (windowBase + w * 2 ^ 40 < a + n) && decide (a < windowBase + (w + 1) * 2 ^ 40)

/-- A ring, a bulk descriptor in progress or a resident graph uses window `w` (R346). -/
def windowUsed (s : State) (w : Nat) : Bool :=
  s.hif.rings.any (fun q => decide (q.2.state ≠ .disabled) && touchesWindow w q.2.base (64 * q.2.capacity))
    || s.hif.bulk.any (fun j => j.ranges.any (fun r => touchesWindow w r.1 r.2.1))
    || s.seq.graphs.any (fun g =>
        ((List.range g.tasks.length).zip g.tasks).any (fun p => (taskRanges s g p.1 p.2).any (fun r => touchesWindow w r.1 r.2.1)))

/-- A write of register `k` of window `w`: its configuration or half of its host address (R346, R353, R437). -/
def writeWindow (w k : Nat) (v : Word) (s : State) : State :=
  let set (f : Window → Window) (s : State) : State := { s with hif := { s.hif with wins := update s.hif.wins w f } }
  if windowUsed s w then raise .hif 6 {} s
  else match k with
    | 0 =>
      let size := bits v 5 0
      if size < 12 ∨ 40 < size then raise .hif 7 {} s
      else set (fun x => { x with en := bit v 31, read := bit v 30, write := bit v 29, size := BitVec.ofNat 6 size }) s
    | 1 => if bits v 11 0 = 0 then set (fun x => { x with hostLo := v }) s else raise .hif 7 {} s
    | _ => set (fun x => { x with hostHi := v }) s

end Sys2Proof.Machine
end

