-- ==== Sys2Proof/Machine/Ledger.lean ====
section
/-! DEFINITION. Tag records, batches, the queue of record copies and signature records (R210 to R215). -/

namespace Sys2Proof.Machine

/-- The 128 bytes of a tag record (R210); MARGIN_SHORT follows the page in force (R101, R215). -/
def tagRecord (s : State) (g : Graph) (seq : Nat) (p : TagPrep) : List Byte :=
  let flags := bool p.stale + 2 * bool p.compat + 4 * bool s.seq.page.marginShort + 8 * bool (!s.msc.calSet)
  [0x11, BitVec.ofNat 8 flags, 0, 0] ++ le 4 g.id.toNat ++ le 8 p.id.toNat ++ le 8 seq ++ le 8 p.time ++ le 8 s.msc.calS ++ le 4 s.msc.calNs
    ++ le 8 p.len ++ zeros 12 ++ fit 32 p.tag ++ fit 32 p.digest

/-- LR_SEQ of a record. -/
def recordSeq (r : List Byte) : Nat := field r 16 8

/-- The MSC absorbs a record of ring `i` into its open batch, which closes at B records (R212); an empty record stands for the completion of
a run. -/
def absorb (i : Nat) (rec_ : List Byte) (s : State) : State :=
  let r := ringOf s i
  if r.state = .disabled then s
  else if rec_.isEmpty then closeBatch i s
  else
    let r := if r.batch.isEmpty then { r with batchFirst := recordSeq rec_, batchAt := field rec_ 24 8 } else r
    let s := setRing i { r with batch := r.batch ++ [rec_] } s
    if r.batchB ≤ r.batch.length + 1 then closeBatch i s else s

/-- A record discarded because the queue of 65,536 copies is full: the unsigned LR_SEQ of its ring, first and last of each run of them (R213). -/
def discardCopy (i seq : Nat) (s : State) : State :=
  let grows (c : Nat × Nat × Nat) : Bool := decide (c.1 = i) && decide (c.2.2 + 1 = seq)
  let gaps :=
    if s.msc.copyGap.any grows then s.msc.copyGap.map (fun c => if grows c then (i, c.2.1, seq) else c)
    else s.msc.copyGap ++ [(i, seq, seq)]
  { s with msc := { s.msc with copyGap := gaps } }

/-- Record copies in the queue; the completions of runs in it are none (R213). -/
def queuedCopies (s : State) : Nat := (s.msc.copies.filter (fun c => !c.2.isEmpty)).length

/-- A copy of a record passes to the MSC (R211, R213): absorbed at once, queued while the MSC core restarts, or discarded. -/
def passCopy (i : Nat) (rec_ : List Byte) (s : State) : State :=
  if s.msc.running then absorb i rec_ s
  else if queuedCopies s < 65536 then
    { s with msc := { s.msc with copies := s.msc.copies ++ [(i, rec_)] } }
  else discardCopy i (recordSeq rec_) s

/-- The event record that names the first and last unsigned LR_SEQ of a ring (R213): no event bit is named for it, so EV_BIT is a free value
(log 42). -/
def gapEvent (i first last : Nat) (s : State) : State :=
  let d := drawFree s
  let e := eventRecord d.2 .msc (d.1.toNat % 256) { unit := some i, detail := some (le 8 first ++ le 8 last) }
  let s := d.2
  let number := s.hif.eventNumber
  let s := { s with hif := { s.hif with eventNumber := (number + 1) % 2 ^ 64 } }
  let ring := s.hif.evRing.toNat
  eventCopies .msc e (if s.hif.evRingEn then putEvent ring number e (ringEvent 5 ring) s else s)

/-- The gaps with property `p` of rings that are not disabled: each closes its ring's open batch, and the next one carries GAP_BEFORE (R213). -/
def takeGaps (p : Nat × Nat × Nat → Bool) (s : State) : State :=
  let due (c : Nat × Nat × Nat) : Bool := p c && decide ((ringOf s c.1).state ≠ .disabled)
  each (s.msc.copyGap.filter due) (fun c s =>
    gapEvent c.1 c.2.1 c.2.2 (modRing c.1 (fun r => { r with batchGap := true }) (closeBatch c.1 s)))
    { s with msc := { s.msc with copyGap := s.msc.copyGap.filter (fun c => !due c) } }

/-- The MSC works off the queue after a restart (R213): each copy in LR_SEQ order, behind the gaps that come before it, and then the other gaps. -/
def drainCopies (s : State) : State :=
  let s' := each s.msc.copies (fun c s =>
    absorb c.1 c.2 (if c.2.isEmpty then s else takeGaps (fun q => decide (q.1 = c.1) && decide (q.2.2 < recordSeq c.2)) s))
    { s with msc := { s.msc with copies := [] } }
  takeGaps (fun _ => true) s'

/-- TAG_RECORD_WRITE (R210, R211): the record of a task whose digests are complete takes its two reserved entries, and a copy goes to the
MSC; a run that waited only for it completes. -/
def execTagRecordWrite (slot task : Nat) (s : State) : Out :=
  match graphAt s slot with
  | none => .next s
  | some g =>
    match g.run.bind (fun r => r.tagWait.find? (fun p => p.task = task)) with
    | none => .next s
    | some p =>
      let i := g.ledgerRing
      let seq := (ringOf s i).ledgerSeq
      let rec_ := tagRecord s g seq p
      let s := modGraph slot (fun g => { g with run := g.run.map (fun r =>
        { r with tagWait := r.tagWait.filter (fun q => q.task ≠ task), tags := r.tags - 2 }) }) s
      let s := modRing i (fun r => { r with ledgerSeq := r.ledgerSeq + 1 }) s
      let s := ringPushReserved i (rec_.drop 64) (ringPushReserved i (rec_.take 64) s)
      .next (finishRun slot (passCopy i rec_ s))

/-- LEDGER_BATCH_TIMEOUT (R212): 1 s after its first record the batch closes. -/
def execLedgerBatchTimeout (ring : BitVec 14) (s : State) : Out :=
  let i := ring.toNat
  let r := ringOf s i
  if r.batch.isEmpty ∨ s.msc.running = false then .next s
  else .next (closeBatch i (advanceTo (r.batchAt + 1000000000) s))

/-- The 22 entries of a signature record (R212). -/
def signatureRecord (s : State) (b : Nat × Bool × Nat × List (List Byte)) : List (List Byte) :=
  let head := [0x21, BitVec.ofNat 8 (bool b.2.1), 0, 0] ++ le 4 b.2.2.2.length ++ le 8 b.1 ++ le 8 s.msc.calS ++ le 4 s.msc.calNs
    ++ [BitVec.ofNat 8 b.2.2.1, 0, 0, 0] ++ le 32 (Config.shake256 b.2.2.2.flatten).toNat
  let sig := le 1280 (Config.falconSign (ledgerSeed b.2.2.1) head).toNat
  head :: ((List.range 20).map (fun k => (sig.drop (64 * k)).take 64)) ++ [zeros 64]

/-- SIGNATURE_RECORD (R212, R214): the oldest closed batch of the ring is signed; its record is written, or waits for room. -/
def execSignatureRecord (ring : BitVec 14) (s : State) : Out :=
  let i := ring.toNat
  let r := ringOf s i
  match r.closed with
  | [] => .next s
  | b :: rest =>
    if s.msc.running = false ∨ r.state = .disabled then .next s
    else
      let s := setRing i { r with closed := rest, sigWait := r.sigWait ++ [signatureRecord s b] } s
      .next (writeSignatures i (r.sigWait.length + 1) s)

/-- LEDGER_BATCH as the MSC executes it (R212, R325): the batch size of a ledger ring; a batch that holds as many closes at once. -/
def setBatchSize (i b : Nat) (s : State) : BitVec 16 × State :=
  let r := ringOf s i
  if 16384 ≤ i ∨ b = 0 ∨ 4096 < b ∨ r.type ≠ .ledger ∨ r.state = .disabled then (Status.paramInvalid, s)
  else
    let s := setRing i { r with batchB := b } s
    (Status.ok, if b ≤ r.batch.length then closeBatch i s else s)

/-- LEDGER_CLOSE as the MSC executes it (R212). -/
def closeLedger (i : Nat) (s : State) : BitVec 16 × State :=
  let r := ringOf s i
  if 16384 ≤ i ∨ r.type ≠ .ledger ∨ r.state = .disabled then (Status.paramInvalid, s) else (Status.ok, closeBatch i s)

end Sys2Proof.Machine
end

