-- ==== Sys2Proof/Machine/Bulk.lean ====
section
/-! DEFINITION. Bulk descriptors: their checks, their moves, and how the host's silence or refusal ends them (R348 to R352, R464). -/

namespace Sys2Proof.Machine

/-- A bulk descriptor's fields (R349). -/
structure BulkDesc where
  op : Nat
  flags : Nat
  lane : Nat
  fmt : Nat
  cookie : DWord
  src : Nat
  dst : Nat
  len : Nat
  capture : Nat
  k : Nat
  o : Nat
  reserved : Bool
deriving DecidableEq, Repr

/-- The descriptor that 64 bytes hold (R349). -/
def bulkOf (b : List Byte) : BulkDesc :=
  { op := field b 0 1, flags := field b 1 1, lane := field b 2 1, fmt := field b 3 1, cookie := BitVec.ofNat 64 (field b 8 8)
    src := field b 16 8, dst := field b 24 8, len := field b 32 8, capture := field b 40 8, k := field b 48 4, o := field b 52 4
    reserved := field b 4 4 != 0 || field b 56 8 != 0 }

/-- COMPLETION, COMPLETION_EACH, LIST and WEIGHT_LOAD. -/
def bdDone (d : BulkDesc) : Bool := d.flags.testBit 0
def bdEach (d : BulkDesc) : Bool := d.flags.testBit 1
def bdList (d : BulkDesc) : Bool := d.flags.testBit 2
def bdWeights (d : BulkDesc) : Bool := d.flags.testBit 3

/-- The weight format of a load. -/
def bdFmt (d : BulkDesc) : WFmt := (wfmtOf d.fmt).getD .int4

/-- The list entries of a descriptor, or its one move: source, destination, bytes. -/
def bulkMoves (s : State) (d : BulkDesc) : List (Nat × Nat × Nat) :=
  if bdList d then listEntries d.len (readBytes s d.src (32 * d.len)) else [(d.src, d.dst, d.len)]

/-- The completion entries it posts when all goes well (R350, check 7). -/
def bulkPosts (d : BulkDesc) : Nat := bool (bdDone d) + (if bdEach d && bdList d then d.len else 0)

/-! ### The checks (R350) -/

/-- Check 2: operation, flags, reserved bytes, and what a weight load names; a list goes with COPY alone. -/
def bulkForm (d : BulkDesc) : Bool :=
  1 ≤ d.op && d.op ≤ 3 && d.flags < 16 && !d.reserved && (d.op == 2 || d.lane == 0) && (d.op == 1 || (!bdList d && !bdWeights d))
    && (!bdList d || d.len ≤ 65536)
    && (if bdWeights d then (wfmtOf d.fmt).isSome && d.k != 0 && d.o != 0 else true)

/-- Check 2 on the destination ranges of a weight load (R464). -/
def bulkLengths (d : BulkDesc) (ms : List (Nat × Nat × Nat)) : Bool :=
  !bdWeights d || ms.all (fun m => m.2.2 == 0 || m.2.2 == weightLen (bdFmt d) d.k d.o m.2.1)

/-- The ranges a descriptor names: address, bytes, written. -/
def bulkRanges (d : BulkDesc) (ms : List (Nat × Nat × Nat)) : List (Nat × Nat × Bool) :=
  (if bdList d then [(d.src, 32 * d.len, false)] else [])
    ++ ms.flatMap (fun m =>
      (if d.op = 3 then [] else [(m.1, m.2.2, false)]) ++ (if d.op = 2 then [] else [(m.2.1, m.2.2, true)]))

/-- Check 3 on a range: aligned, mapped, and inside an enabled window that permits its direction. -/
def rangeMapped (s : State) (r : Nat × Nat × Bool) : Bool :=
  r.1 % 4 == 0 && (blockPlaces s r.1 r.2.1 r.2.2).all (fun p => p != .unmapped)

/-- Check 4 on a range: not the register range, not out of service. -/
def rangeServed (s : State) (r : Nat × Nat × Bool) : Bool :=
  (blockPlaces s r.1 r.2.1 r.2.2).all (fun p => p != .registers && p != .outOfService)

/-- Check 5: staging units of the destinations that no resident graph holds. -/
def unitsForeign (s : State) (rs : List (Nat × Nat × Bool)) : Nat :=
  (((rs.filter (fun r => r.2.2)).flatMap (fun r => coveredUnits r.1 r.2.1)).eraseDups.filter (fun u => !(unitsTaken s u.1).contains u.2)).length

/-- The first check that fails: its status and detail word. -/
def bulkCheck (s : State) (d : BulkDesc) : Refuse :=
  if s.msc.mode ≠ .idle ∧ s.msc.mode ≠ .active then refuse Status.notReady 1 0
  else if !bulkForm d then refuse Status.paramInvalid 2 0
  else if d.len = 0 then none
  else
    let list := rangeMapped s (d.src, 32 * d.len, false) && rangeServed s (d.src, 32 * d.len, false)
    let ms := if bdList d && !list then [] else bulkMoves s d
    let rs := bulkRanges d ms
    let lane := laneAt s d.lane
    let first := firstRefusal [
      demand (bulkLengths d ms) Status.paramInvalid 2 0,
      demand (rs.all (rangeMapped s)) Status.addressInvalid 3 0,
      demand (rs.all (rangeServed s)) Status.memorySpace 4 0]
    match first with
    | some r => some r
    | none =>
      firstRefusal [
        demand (unitsForeign s rs == 0) Status.stagingSpace 5 (unitsForeign s rs),
        demand (d.op != 2 || (decide (d.lane < 48) && lane.en && !lane.dir && d.len == lane.unitBytes.toNat)) Status.paramInvalid 6 0]

/-- Check 7: entries beyond the size of the completion ring. -/
def bulkRoom (cap : Nat) (d : BulkDesc) : Refuse :=
  demand (d.len == 0 || decide (bulkPosts d ≤ cap)) Status.ringSpace 7 (bulkPosts d - cap)

/-! ### The moves -/

/-- Bytes of a move of `len` from `src` that the host lets through: `left` of its bytes still come, or all of them. -/
def hostBytes (left : Option Nat) (src len : Nat) : Nat :=
  match left with
  | some b => if windowBase ≤ src then min b len else len
  | none => len

/-- Some byte of the range lies on a stack in FAILING (R227). -/
def touchesFailing (s : State) (a n : Nat) (w : Bool) : Bool := (blockPlaces s a n w).any (fun p => p == .failing)

/-- The address of a persistent error, where there is one, lies in the range. -/
def meets (bad : Option Nat) (a len : Nat) : Bool := bad.any (fun x => decide (a ≤ x) && decide (x < a + len))

/-- One move of a descriptor: its status, the bytes moved, whether the host left it unfinished, and the state after it; `bad` is the address
of a persistent error. -/
def bulkMove (d : BulkDesc) (left bad : Option Nat) (m : Nat × Nat × Nat) (s : State) : BitVec 16 × Nat × Bool × State :=
  let src := m.1
  let dst := m.2.1
  let len := m.2.2
  if d.op = 3 then
    if touchesFailing s dst len true then (Status.hwStackFailed, 0, false, staleRegions dst len s)
    else
      let pat := le 8 d.src
      let bs := (List.range len).map (fun i => pat.getD (i % 8) 0)
      (Status.ok, len, false, staleRegions dst len (writeBytes dst bs s))
  else
    let got := hostBytes left src len
    let bs := readBytes s src len
    if touchesFailing s src len false then (Status.hwStackFailed, 0, false, s)
    else if meets bad src len then
      let n := if d.op = 2 ∨ (bdWeights d ∧ bdFmt d = .ternary) then 0 else movedBefore len (bad.getD src - src)
      (Status.hwReadParity, n, false, staleRegions dst n (writeBytes dst (bs.take n) s))
    else if d.op = 2 then
      if got < len then (Status.hwUnitFault, got, true, s) else (Status.ok, len, false, fileUnit d.lane d.capture bs s)
    else if touchesFailing s dst len true then (Status.hwStackFailed, 0, false, staleRegions dst len s)
    else if bdWeights d then
      let f := bdFmt d
      if f = .ternary ∧ got < len then (Status.hwUnitFault, 0, true, s)
      else if got < len then (Status.hwUnitFault, got, true, staleRegions dst got (writeBytes dst (bs.take got) s))
      else if loadRefused f d.k d.o bs then (Status.qpolicyInvalid, 0, false, s)
      else
        let st := loadStored f d.k d.o dst bs
        (Status.ok, len, false, addRegion [(dst, len)] st (writeBytes dst st s))
    else if got < len then (Status.hwUnitFault, got, true, staleRegions dst got (writeBytes dst (bs.take got) s))
    else (Status.ok, len, false, staleRegions dst len (writeBytes dst bs s))

/-- The bytes of the host still to come after a move. -/
def leftAfter (left : Option Nat) (m : Nat × Nat × Nat) : Option Nat :=
  left.map (fun b => if windowBase ≤ m.1 then b - m.2.2 else b)

/-- The moves of a descriptor in order, its record `j` kept as it goes: an entry that fails ends the rest, unless it is a weight load refused
for its codes (R351, R464, R466); one whose host data do not come leaves the descriptor in progress if the host is silent. -/
def bulkRun (d : BulkDesc) (silent : Bool) (j : BulkJob) (left bad : Option Nat) : List (Nat × Nat × Nat) → State → State
  | [], s => finishBulk j Status.ok s
  | m :: r, s =>
    if m.2.2 = 0 ∧ bdList d then
      let s := if bdEach d then postBulk j.ring j.cookie Status.ok 0 j.moved.length 0 s else s
      bulkRun d silent { j with moved := j.moved ++ [0], reserved := j.reserved - bool (bdEach d) } left bad r s
    else
      match bulkMove d left bad m s with
      | (st, n, cut, s) =>
        if cut && silent then { s with hif := { s.hif with bulk := s.hif.bulk ++ [{ j with part := n, since := now s }] } }
        else if endsList st then finishBulk { j with part := n } st s
        else
          let each_ := bdEach d && bdList d
          let s := if each_ then postBulk j.ring j.cookie st 0 j.moved.length n s else s
          let first := if j.first = Status.ok then st else j.first
          bulkRun d silent { j with moved := j.moved ++ [n], reserved := j.reserved - bool each_, first := first } (leftAfter left m) bad r s

/-- The descriptor at the head of a bulk ring, taken and executed, if it is of the kind named (R337, R348): the ring is ENABLED and holds one,
none of its descriptors is in progress, fewer than eight are in all, and the linked ring has room for what this one posts. -/
def takeBulk (kind : BulkDesc → Bool) (i : Nat) (h : HostAns) (bad : Option Nat) (s : State) : State :=
  let r := ringOf s i
  let link := r.linked.toNat
  let a := r.entry r.cons
  if r.state ≠ .enabled ∨ r.type ≠ .bulk ∨ r.used = 0 ∨ s.hif.bulk.any (fun j => j.ring = i) ∨ 8 ≤ s.hif.bulk.length then s
  else if !serves s a 64 false then ringEvent 5 i (faultRing i 3 s)
  else
    let d := bulkOf (readBytes s a 64)
    if !kind d then s
    else
      let check := match bulkCheck s d with | some c => some c | none => bulkRoom (ringOf s link).capacity d
      let posts := match check with | some _ => 1 | none => max 1 (bulkPosts d)
      if !ringTakes s link posts then s
      else
        let s := modRing link (fun q => { q with reserved := q.reserved + posts }) (modRing i (fun r => { r with cons := r.cons + 1 }) s)
        match check with
        | some c => postBulk i d.cookie c.1 c.2 0 0 s
        | none =>
          let n := if bdList d then d.len else 1
          let j : BulkJob := { ring := i, cookie := d.cookie, flags := BitVec.ofNat 8 d.flags, entries := n, reserved := posts }
          if d.len = 0 then finishBulk j Status.ok s
          else
            let ms := bulkMoves s d
            let j := { j with ranges := bulkRanges d ms }
            -- a list on a FAILING stack cannot be read, and its descriptor moves nothing (R227, R466)
            if bdList d && touchesFailing s d.src (32 * d.len) false then finishBulk j Status.hwStackFailed s
            else if bdList d && meets bad d.src (32 * d.len) then finishBulk j Status.hwReadParity s
            else
              match h with
              | .ok => bulkRun d false j none bad ms s
              | .silent b => bulkRun d true j (some b) bad ms s
              | .aborted b => bulkRun d false j (some b) bad ms s

/-- Descriptor `d` reads the byte at `a`. -/
def bulkReads (s : State) (d : BulkDesc) (a : Nat) : Bool :=
  (bdList d && meets (some a) d.src (32 * d.len)) || (d.op != 3 && (bulkMoves s d).any (fun m => meets (some a) m.1 m.2.2))

/-- BULK_COPY (R349): COPY that is no weight load, and a descriptor whose BD_OP is not listed. -/
def execBulkCopy (ring : BitVec 14) (h : HostAns) (s : State) : Out :=
  .next (takeBulk (fun d => (d.op == 1 && !bdWeights d) || d.op == 0 || decide (3 < d.op)) ring.toNat h none s)

/-- BULK_FILL (R349). -/
def execBulkFill (ring : BitVec 14) (h : HostAns) (s : State) : Out := .next (takeBulk (fun d => d.op == 3) ring.toNat h none s)

/-- BULK_LANE_UNIT (R184, R349). -/
def execBulkLaneUnit (ring : BitVec 14) (h : HostAns) (s : State) : Out := .next (takeBulk (fun d => d.op == 2) ring.toNat h none s)

/-- BULK_WEIGHT_LOAD (R108, R205, R464). -/
def execBulkWeightLoad (ring : BitVec 14) (h : HostAns) (s : State) : Out :=
  .next (takeBulk (fun d => d.op == 1 && bdWeights d) ring.toNat h none s)

/-- BULK_HOST_TIMEOUT (R351): a host completion has not come within 50 ms. -/
def execBulkHostTimeout (ring : BitVec 14) (s : State) : Out :=
  match s.hif.bulk.find? (fun j => j.ring = ring.toNat) with
  | none => .next s
  | some j => .next (finishBulk j Status.hwUnitFault (advanceTo (j.since + 50000000) s))

end Sys2Proof.Machine
end

