-- ==== Sys2Proof/Machine/Mem.lean ====
section
/-! DEFINITION. Memory errors, refresh, stack failure and LPDDR5X failure (R219 to R233). -/

namespace Sys2Proof.Machine

/-! ### Rereads and persistent errors (R221, R222) -/

/-- The tier of a device address: 0 HBM3E, 1 LPDDR5X, 2 staging, 3 none of them. -/
def tierOf (a : Nat) : Nat :=
  if a < hbmEnd then 0 else if lpddrBase ≤ a ∧ a < lpddrEnd then 1 else if stagingBase ≤ a ∧ a < stagingEnd then 2 else 3

/-- The electronic die of a staging address: banks 12 to 23 and the second common half lie on E1 (R216, R217). -/
def dieOfStaging (a : Nat) : Bool := if a < commonBase then decide (12 ≤ (a - stagingBase) / 0x1000000) else decide (commonBase + 0x2000000 ≤ a)

/-- What an error's event record names: the task that scheduled the read, and the stack or package. -/
def readInfo (a : Nat) (use : ReadUse) : EvInfo :=
  let u := if tierOf a = 0 then some (stackOf a) else if tierOf a = 1 then some (packageOf a) else none
  match use with
  | .task slot t => { graph := some slot, task := t, unit := u }
  | _ => { unit := u }

/-- The retry bit of the tier, and a transient error counted (R221, R234, R235). -/
def transient (a : Nat) (use : ReadUse) (s : State) : State :=
  match tierOf a with
  | 0 =>
    raise .hms 0 (readInfo a use) { s with hms := { s.hms with
      retries := s.hms.retries + 1, hbm := update s.hms.hbm (stackOf a) (fun k => { k with cur := k.cur + 1 }) } }
  | 1 => raise .lms 0 (readInfo a use) { s with lms := { s.lms with retries := s.lms.retries + 1 } }
  | 2 => raise .hms 0 (readInfo a use) { s with hms := { s.hms with stg := s.hms.stg + 1 } }
  | _ => s

/-- PARITY_REREAD (R221): the word fails its parity check and is read correctly at reread `tries`, the first or the second. -/
def execParityReread (a : Nat) (use : ReadUse) (tries : Nat) (s : State) : Out :=
  if tries = 1 ∨ tries = 2 then .next (transient a use s) else .next s

/-- The event and the address of a persistent error (R222, R234, R235, R403). -/
def recordPersistent (a : Nat) (use : ReadUse) (s : State) : State :=
  let i := readInfo a use
  match tierOf a with
  | 0 =>
    let s := { s with hms := { s.hms with
      persist := s.hms.persist + 1, lastErr := some a
      hbm := update s.hms.hbm (stackOf a) (fun k => { k with persist := s.seq.epoch :: k.persist }) } }
    raise .hms 1 i (raise .hms 0 i s)
  | 1 =>
    let s := { s with lms := { s.lms with
      persist := s.lms.persist + 1, lastErr := some a, pkgPersist := (packageOf a, s.seq.epoch) :: s.lms.pkgPersist } }
    raise .lms 1 i (raise .lms 0 i s)
  | 2 =>
    let s := { s with hms := { s.hms with stgLastErr := some (a - stagingBase) } }
    dieFault (dieOfStaging a) { i with status := Status.hwReadParity } (raise .hms 5 i (raise .hms 0 i s))
  | _ => s

/-- The host-abort bit of the tier. -/
def hostAbort (a : Nat) (s : State) : State :=
  if tierOf a = 1 then raise .lms 4 (readInfo a .bulkPort) s else raise .hms 6 (readInfo a .bulkPort) s

/-- The task whose read met the persistent error at `a` ends (R222); a TRANSFER with LIST runs its entries up to the failing one (R466). -/
def endRead (slot t a : Nat) (s : State) : State :=
  match graphAt s slot with
  | some g =>
    if taskReady s slot t ∧ (taskAt g t).kind = kTransfer ∧ tdList (taskAt g t) then transferList slot t g (taskAt g t) (some a) s
    else taskEnd slot t Status.hwReadParity 0 0 s
  | none => s

/-- PERSISTENT_ERROR (R92, R169, R222, R351, R352): the address is recorded, and what scheduled the read ends: a task with HW_READ_PARITY, an
admission at its check 2, an access of the bulk port with a Completer Abort, a bulk descriptor with HW_READ_PARITY, a ring in FAULTED, a replay's
task. -/
def execPersistentError (a : Nat) (use : ReadUse) (s : State) : Out :=
  if tierOf a = 3 then .next s
  else
    let s := recordPersistent a use s
    match use with
    | .task slot t => .next (endRead slot t a s)
    | .admission => .next { s with seq := { s.seq with admitBad := a :: s.seq.admitBad } }
    | .bulkPort => .next (emit .ca (hostAbort a s))
    | .bulk i =>
      match s.hif.bulk.find? (fun j => j.ring = i) with
      | some j => .next (finishBulk j Status.hwReadParity s)
      | none => .next (takeBulk (fun d => bulkReads s d a) i .ok (some a) s)
    | .ring i => if (ringOf s i).state = .enabled then .next (ringEvent 5 i (faultRing i 3 s)) else .next s
    | .replay die =>
      match (if die then s.psr.queue1 else s.psr.queue0) with
      | [] => .next s
      | f :: _ =>
        let l := (f.stalls.headD (0, {})).1
        let s := raise .psr 8 { graph := some f.slot, task := f.task, unit := servedBy s l, logical := l
                                status := Status.hwReadParity } s
        .next (taskEnd f.slot f.task Status.hwReadParity 0 0 s)

/-! ### Refresh (R224) -/

/-- HBM_REFRESH (R224): every bank keeps its contents, and no transfer is placed beside it: nothing that the machine holds changes. -/
def execHbmRefresh (s : State) : Out := .next s

/-- LPDDR_REFRESH (R224). -/
def execLpddrRefresh (s : State) : Out := .next s

/-! ### Failure of a stack (R227) and of the LPDDR5X tier (R232) -/

/-- The range has a byte that LPDDR5X serves: its own, or, under the spill map, one of the failed stack (R228, R232). -/
def onLpddr (s : State) (a len : Nat) : Bool :=
  (len != 0 && decide (a < lpddrEnd) && decide (lpddrBase < a + len)) || (match s.hms.spill with | some n => onStack n a len | none => false)

/-- Tasks of runs in progress with a range that `touched` names end with `st` (R227, R232; log 43). A TRANSFER with LIST that the page has placed runs
its entries up to the first that fails, when its turn comes (R466). -/
def endTouching (touched : Nat → Nat → Bool) (st : BitVec 16) (s : State) : State :=
  each s.seq.graphs (fun g s =>
    each ((List.range g.tasks.length).zip g.tasks) (fun p s =>
      if p.2.kind = kTransfer ∧ tdList p.2 ∧ inPage s g.slot p.1 then s
      else if (taskRanges s g p.1 p.2).any (fun r => touched r.1 r.2.1) then taskEnd g.slot p.1 st 0 0 s
      else s) s) s

/-- Stack `n` fails (R227): FAILING from now on, its weight regions stale, its tasks and the bulk descriptors in progress that touch it ended. -/
def failStack (n : Nat) (s : State) : State :=
  if 10 ≤ n ∨ stackState s n ≠ .inService then s
  else
    let s := { s with
      hms := { s.hms with hbm := update s.hms.hbm n (fun k => { k with state := .failing }) }
      regions := s.regions.map (fun r => if r.parts.any (fun p => onStack n p.1 p.2) then { r with stale := true } else r) }
    let s := endTouching (onStack n) Status.hwStackFailed (raise .hms 2 { unit := some n } s)
    each (s.hif.bulk.filter (fun j => j.ranges.any (fun r => onStack n r.1 r.2.1))) (fun j s => finishBulk j Status.hwStackFailed s) s

/-- STACK_FAIL (R227): 16 persistent errors within 16 consecutive epochs. -/
def execStackFail (n : Nat) (s : State) : Out :=
  if 16 ≤ ((s.hms.hbm.getD n {}).persist.filter (fun e => s.seq.epoch < e + 16)).length then .next (failStack n s) else .next s

/-- STACK_CA_PARITY_LOSS (R227). -/
def execStackCaParityLoss (n : Nat) (s : State) : Out := .next (failStack n s)

/-- Package `n` fails (R232): the tier leaves service at the next boundary. -/
def failPackage (n : Nat) (s : State) : State :=
  if 12 ≤ n ∨ s.lms.failed.toNat.testBit n ∨ s.lms.tier = .failed then s
  else
    let s := { s with lms := { s.lms with failed := s.lms.failed ||| BitVec.ofNat 12 (2 ^ n), failing := true } }
    endTouching (onLpddr s) Status.hwLpddrFailed (raise .lms 2 { unit := some n } s)

/-- LPDDR_PACKAGE_FAIL (R232). -/
def execLpddrPackageFail (n : Nat) (s : State) : Out := .next (failPackage n s)

end Sys2Proof.Machine
end

