-- ==== Sys2Proof/Machine/Thermal.lean ====
section
/-! DEFINITION. Sensor samples, levels, throttling, Frost and the hardware trip (R354 to R370). -/

namespace Sys2Proof.Machine

/-! ### The level in force (R359 to R363) -/

/-- A rise or a fall of the level in force between two states: the event, on a rise the k of the new level at once, and on a fall the 100 us to
the first step, unless k is falling already (R361, R369). -/
def levelChange (old : Nat) (s : State) : State :=
  let new := levelInForce s
  if old < new then raise .tps 0 {} { s with tps := { s.tps with k := levelK new, stepAt := now s } }
  else if new < old then raise .tps 1 {} { s with tps := { s.tps with stepAt := if s.tps.k ≤ levelK old then now s else s.tps.stepAt } }
  else s

/-- `f` applied, and what it does to the level in force. -/
def withLevel (f : State → State) (s : State) : State := levelChange (levelInForce s) (f s)

/-- THROTTLE_STEP_DOWN (R361): 100 us after the last step k falls by at most 6, to the value of the level in force. -/
def execThrottleStepDown (s : State) : Out :=
  let goal := levelK (levelInForce s)
  if s.tps.k ≤ goal then .next s
  else
    let s := advanceTo (s.tps.stepAt + 100000) s
    .next { s with tps := { s.tps with k := max goal (s.tps.k - 6), stepAt := now s } }

/-! ### Sampling rate (R357) -/

/-- Thresholds of a domain with its hardware trip (R358). -/
def allThresholds (d : Nat) : List Int := thresholds d ++ [1840]

/-- The maximum lies within 8 degrees below a threshold it has not passed. -/
def nearThreshold (s : State) (d : Nat) : Bool :=
  match domainReading s d with
  | none => false
  | some t => (allThresholds d).any (fun x => decide (t < x) && decide (x - 128 ≤ t))

/-- Sensors of a domain. -/
def sensorsOf (d : Nat) : List Nat := (List.range ((domainSensors d).2 - (domainSensors d).1)).map (fun k => (domainSensors d).1 + k)

/-- TPS_MAX_FAST of domain `d` after a sample, with its event when the domain goes to 16 kHz. -/
def setFast (d : Nat) (s : State) : State :=
  let quick := nearThreshold s d || (sensorsOf d).all (fun i => decide (now s < (sensorAt s i).fastUntil))
  let before := (domainAt s d).fast
  let s := modDomain d (fun x => { x with fast := quick }) s
  if quick && !before then raise .tps 2 { unit := some d } s else s

/-- Sensors put at 16 kHz for 100 ms. -/
def speedUp (l : List Nat) (s : State) : State := each l (fun i s => modSensor i (fun x => { x with fastUntil := now s + 100000000 }) s) s

/-- A change of more than 2 degrees on sensor `i` (R357): its domain goes fast, and for an electronic sensor the photonic sensors of the
twelve arcades beneath its die with it. -/
def fastChange (i : Nat) (s : State) : State :=
  let s := speedUp (sensorsOf (sensorDomain i)) s
  if i < 128 then speedUp ((List.range 48).map (fun k => 128 + 48 * (i / 64) + k)) s else s

/-- FAST_SAMPLING_END (R357): the 100 ms end. -/
def execFastSamplingEnd (d : Nat) (s : State) : Out :=
  let ends := ((sensorsOf d).map (fun i => (sensorAt s i).fastUntil)).foldl max 0
  if ends = 0 ∨ 7 ≤ d then .next s
  else .next (setFast d (each (sensorsOf d) (fun i s => modSensor i (fun x => { x with fastUntil := 0 }) s) (advanceTo ends s)))

/-! ### Levels of a domain (R358) -/

/-- What a domain's reading does to its level: levels are entered at once, and the times since which the reading is 3 degrees below each
threshold are kept. -/
def domainLevel (d : Nat) (s : State) : State :=
  match domainReading s d with
  | none => modDomain d (fun x => { x with level := 0, below := [none, none, none] }) s
  | some t =>
    let th := (thresholds d).take 3
    let entered := (th.filter (fun x => decide (x ≤ t))).length
    let x := domainAt s d
    let below := ((List.range 3).zip th).map (fun q =>
      if t ≤ q.2 - 48 then some ((x.below.getD q.1 none).getD (now s)) else none)
    let s' := modDomain d (fun x => { x with level := max x.level entered, below := below }) s
    if d = 3 ∧ x.level < entered then raise .tps 3 { unit := some d } s' else s'

/-- THERMAL_LEVEL_LEAVE (R358): the reading has stayed at least 3 degrees below the threshold of the level for 10 ms. -/
def execThermalLevelLeave (d : Nat) (s : State) : Out :=
  let x := domainAt s d
  if x.level = 0 then .next s
  else match x.below.getD (x.level - 1) none with
    | none => .next s
    | some t =>
      let s := advanceTo (t + 10000000) s
      let left (l : Nat) : Bool := match x.below.getD (l - 1) none with | some u => decide (u + 10000000 ≤ now s) | none => false
      let level := (([3, 2, 1].filter (fun l => decide (l ≤ x.level))).find? (fun l => !left l)).getD 0
      .next (withLevel (modDomain d (fun x => { x with level := level })) s)

/-! ### Invalid sensors (R355) -/

/-- The heater zones that photonic sensor `i` feeds. -/
def sensorZones (i : Nat) : List Nat :=
  if i < 128 ∨ 224 ≤ i then []
  else let z := 8 * ((i - 128) / 4) + 2 * ((i - 128) % 4); [z, z + 1]

/-- Sensor `i` is judged invalid: left out of every maximum, and a photonic one puts its zones in LOOP (R271, R369). -/
def invalidate (i : Nat) (s : State) : State :=
  let s := raise .tps 4 { unit := some i } (modSensor i (fun x => { x with valid := false, sampled := true }) s)
  let s := each (sensorZones i) (fun z s => enterLoop z (modZone z (fun x => { x with sensorBad := true }) s)) s
  setFast (sensorDomain i) (withLevel (domainLevel (sensorDomain i)) s)

/-- SENSOR_INVALID (R355). -/
def execSensorInvalid (i : Nat) (s : State) : Out :=
  if 278 ≤ i ∨ s.msc.mode = .off ∨ ¬ domainPowered s (sensorDomain i) ∨ (sensorAt s i).valid = false then .next s
  else .next (invalidate i s)

/-! ### Frost (R365, R366) -/

/-- The Frost sequence (R365) with its cause, sensor and reading. -/
def enterFrost (cause sensor : Nat) (t : Int) (s : State) : State :=
  let head := frostHead 0x61 cause sensor t 5
  let tail := frostTail s
  let s := endUpdate (abandonPreparations (dropWorkAll (abortBulk s)))
  let s := portsDark (sourcesOff s)
  let s := loseStaging (loseHbm (dischargeAll s))
  let s := { s with
    regions := []
    tps := { s.tps with groups := 7, frosts := sat 0xFFFFFFFF (s.tps.frosts + 1)
                        sensors := ((List.range 278).zip s.tps.sensors).map (fun q => if sensorDomain q.1 = 4 then {} else q.2) }
    msc := { s.msc with action := none, resetting := none } }
  let s := modDomain 4 (fun _ => {}) s
  let s := journalTwo head tail (purgeWaiting (enterMode .frost s))
  raise .tps 5 { unit := some sensor } s

/-- A state from which a threshold leads to Frost (R368, R392). -/
def frostable (s : State) : Bool :=
  s.msc.mode = .idle || s.msc.mode = .active || s.msc.mode = .dormant || (s.msc.mode = .frost && s.msc.resetting.isSome)

/-- Frost, if a domain's maximum has reached its threshold: the sensor with the greatest excess, the lowest of equals (R369). -/
def frostCheck (s : State) : State :=
  if !frostable s then s
  else
    let hot := (List.range 7).filterMap (fun d =>
      match domainMax s d, (thresholds d)[3]? with
      | some (t, i), some x => if x ≤ t then some (t - x, i, t) else none
      | _, _ => none)
    match hot with
    | [] => s
    | h :: r =>
      let m := r.foldl (fun (a : Int × Nat × Int) b => if a.1 < b.1 ∨ (a.1 = b.1 ∧ b.2.1 < a.2.1) then b else a) h
      enterFrost 1 m.2.1 m.2.2 s

/-- The sensor that reference `r` follows (R364): for the slicers the electronic-die sensor itself. -/
def sensorOfRef (r : Nat) : Nat := if 57 ≤ r then r - 57 else Config.nearSensor r

/-- The references that follow sensor `i` go toward what the factory tables give at `t`, by one step at most (R364). -/
def compensate (i : Nat) (t : Int) (s : State) : State :=
  let table := ((s.msc.records.find? (fun r => r.1 = 6)).map (fun r => r.2.2)).getD []
  { s with tps := { s.tps with refs := ((List.range 185).zip s.tps.refs).map (fun q =>
      if sensorOfRef q.1 = i then q.2 + (clamp (-1) 1 (Config.tempTable table q.1 t - q.2)).1 else q.2) } }

/-- SENSOR_SAMPLE (R355 to R358, R364, R365, R270). A reading that moves makes an invalid sensor valid again (log 35). -/
def execSensorSample (i : Nat) (t : Int) (s : State) : Out :=
  if 278 ≤ i ∨ s.msc.mode = .off ∨ ¬ domainPowered s (sensorDomain i) then .next s
  else
    let d := sensorDomain i
    let x := sensorAt s i
    if t < -640 ∨ 2400 < t then
      let s := modSensor i (fun x => { x with temp := (clamp (-32768) 32767 t).1 }) s
      .next (if x.valid ∨ !x.sampled then invalidate i s else s)
    else
      let good := x.valid || !x.sampled || decide (1 < (t - x.temp).natAbs)
      let s := modSensor i (fun x => { x with temp := t, valid := good, sampled := true }) s
      let s := if good then each (sensorZones i) (fun z s => modZone z (fun x => { x with sensorBad := false }) s) s else s
      let s := if x.sampled && decide (32 < (t - x.temp).natAbs) then fastChange i s else s
      let s := withLevel (domainLevel d) (setFast d s)
      let s := if i < 128 then setFast 1 s else s
      .next (frostCheck (heaterFeed i (if good then compensate i t s else s)))

end Sys2Proof.Machine
end

