-- ==== Sys2Proof/Machine/Power.lean ====
section
/-! DEFINITION. Input interruptions, start, telemetry, the energy-limit monitor, rails, the backup domain and the calendar
(R367, R373 to R390). -/

namespace Sys2Proof.Machine

/-! ### Input interruption (R377, R378) -/

/-- An input interruption with its cause and the code of a failed rail, 0xFF for none: work ends, the power record is written as two copies,
and the module is OFF. -/
def inputInterruption (cause : Nat) (rail : Byte) (s : State) : State :=
  if s.msc.mode = .off then s
  else
    let head := [0x63, BitVec.ofNat 8 cause] ++ le 2 s.tps.inV ++ le 2 (s.tps.currents.foldl max 0) ++ le 2 s.tps.p100
    let tail := [BitVec.ofNat 8 (levelInForce s), rail]
    let s := journalTwo head tail (dropWorkAll s)
    poweredOff (enterMode .off { s with msc := { s.msc with powerSeen := true } })

/-- INPUT_UNDERVOLTAGE (R373, R392): below 36 V for 20 us; in OFF the input has been removed. -/
def execInputUndervoltage (s : State) : Out :=
  if s.msc.mode = .off then .next { s with tps := { s.tps with offLatch := false, switch := false } }
  else .next (inputInterruption 1 0xFF s)

/-- INPUT_OVERVOLTAGE (R373): above 62 V for 50 us. -/
def execInputOvervoltage (s : State) : Out := .next (inputInterruption 2 0xFF s)

/-- BREAKER_TRIP (R375). -/
def execBreakerTrip (s : State) : Out := .next (inputInterruption 3 0xFF s)

/-- REVERSE_CURRENT (R376): the hot-swap switch opens; what the falling input then causes comes by its own events. -/
def execReverseCurrent (s : State) : Out := .next { s with tps := { s.tps with switch := false } }

/-- PWR_EN_ASSERT (R374). -/
def execPwrEnAssert (s : State) : Out := .next { s with tps := { s.tps with pwrEn := true } }

/-- PWR_EN_DEASSERT (R392, R451): an input interruption while running, and the release of an OFF that POWER_OFF holds. -/
def execPwrEnDeassert (s : State) : Out :=
  let s := { s with tps := { s.tps with pwrEn := false, offLatch := false } }
  .next (inputInterruption 4 0xFF s)

/-- INPUT_QUALIFIED (R374, R392): with PWR_EN the hot-swap stage starts, G0 and G1 come up, and the MSC runs in STANDBY. -/
def execInputQualified (s : State) : Out :=
  if s.msc.mode = .off ∧ s.tps.pwrEn ∧ ¬ s.tps.offLatch then .next (powerOn 0 { s with tps := { s.tps with switch := true } })
  else .next s

/-- INPUT_QUALIFICATION_LOST (R374): in OFF the switch opens and the qualification starts again. -/
def execInputQualificationLost (s : State) : Out :=
  if s.msc.mode = .off then .next { s with tps := { s.tps with switch := false } } else .next s

/-! ### Rails (R383) -/

/-- A sequence that brings rail groups up is under way: from STANDBY, from DORMANT or in a cold reset. -/
def sequencing (s : State) : Bool :=
  s.msc.mode = .standby ||
    (match s.msc.resetting with
     | some (.reset .cold _) => true
     | some .thaw => true
     | some (.reset .warm _) => decide (s.msc.mode = .dormant)
     | _ => false)

/-- RAIL_FAULT (R383, R389): the sequence stops, every group above G1 goes down, and the module stays in STANDBY. -/
def execRailFault (group : Nat) (s : State) : Out :=
  if ¬ sequencing s ∨ group < 2 ∨ 5 < group then .next s
  else
    let s := loseStaging (loseLpddr (loseHbm (dischargeAll (sourcesOff s))))
    let s := { s with regions := [], tps := { s.tps with groups := 3 }, msc := { s.msc with resetting := none, running := true } }
    let s := if s.msc.mode = .standby then s else enterMode .standby s
    .next (raise .tps 18 { unit := some group } s)

/-- RAIL_DROOP (R383): a rail of a group that is up falls below 85 %. -/
def execRailDroop (group : Nat) (s : State) : Out :=
  if 1 ≤ group ∧ group ≤ 5 ∧ s.tps.groups.toNat.testBit group then .next (inputInterruption 6 (Config.railCode group) s) else .next s

/-! ### The energy-limit monitor (R379 to R382) -/

/-- L_p rises by one (R380). -/
def raiseLp (s : State) : State :=
  if 3 ≤ s.tps.lp then s
  else withLevel (fun s => raise .tps 9 {} { s with tps := { s.tps with lp := s.tps.lp + 1 } }) s

/-- Time `d` has passed since `t`, if it was ever noted. -/
def since (s : State) (t : Option Nat) (d : Nat) : Bool := match t with | none => true | some t => decide (t + d ≤ now s)

/-- Length of the current excursion in 0.1 ms. -/
def excLength (s : State) : Nat := sat 0xFFFF ((now s - s.tps.excAt) / 100000)

/-- What P100 does to the excursion (R380): it begins above 1,000 W and ends at or below it. -/
def excursionRule (s : State) : State :=
  if 1000 < s.tps.p100 then
    if s.tps.excursion then s
    else raise .tps 8 {} { s with tps := { s.tps with
      excursion := true, excAt := now s, excSteps := 0, excCount := sat 0xFFFFFFFF (s.tps.excCount + 1) } }
  else if s.tps.excursion then
    { s with tps := { s.tps with excursion := false, pkExc := max s.tps.pkExc (excLength s), calmAt := now s } }
  else s

/-- The input's range (R373): each entry below 40 V or above 60 V is reported. -/
def inputRange (v : Nat) (s : State) : State :=
  let low := decide (v < 4000)
  let high := decide (6000 < v)
  let s' := { s with tps := { s.tps with inputLow := low, inputHigh := high } }
  let s' := if low && !s.tps.inputLow then raise .tps 12 {} s' else s'
  if high && !s.tps.inputHigh then raise .tps 13 {} s' else s'

/-- TELEMETRY_SAMPLE (R379, R380): averages of 10 us in 10 mV and 10 mA. -/
def execTelemetrySample (v i : Nat) (s : State) : Out :=
  if s.msc.mode = .off ∨ 65536 ≤ v ∨ 65536 ≤ i then .next s
  else
    let powers := (v * i :: s.tps.powers).take 10
    let p := sat 0xFFFF (powers.sum / (10000 * powers.length))
    let s := { s with tps := { s.tps with
      inV := v, inI := i, isoOk := true, msPower := (s.tps.msPower.1 + v * i, s.tps.msPower.2 + 1), currents := (i :: s.tps.currents).take 100, powers := powers, p100 := p
      pkP100 := max s.tps.pkP100 p
      overAt := if 1150 < p then some (s.tps.overAt.getD (now s)) else none } }
    let s := excursionRule (inputRange v s)
    if 1100 < p ∧ since s s.tps.fastAt 100000 then
      .next (raiseLp { s with tps := { s.tps with fastAt := some (now s) } })
    else .next s

/-- Sums and counts of the last 1 s with the ms that ends (R379). -/
def lastSecond (s : State) : List (Nat × Nat) := (s.tps.msPower :: s.tps.secPower).take 1000

/-- Their mean in W (R379; log 96). -/
def meanPower (l : List (Nat × Nat)) : Nat := (l.map (fun q => q.1)).sum / (10000 * (l.map (fun q => q.2)).sum)

/-- P1s as the TPS forms it of the 1 MHz samples, `p`: it lies within 1.5 % and 2 W of the mean of the averages that have arrived, else it is that
mean (R379; log 96). -/
def figureP1s (p mean : Nat) : Nat := if 200 * ((p : Int) - mean).natAbs ≤ 3 * mean + 400 then p else mean

/-- P1S_UPDATE (R379, R380): the ms ends; the sustained rule and the release rule. -/
def execP1sUpdate (p : Nat) (s : State) : Out :=
  if s.msc.mode = .off then .next s
  else
    let l := lastSecond s
    let p := figureP1s p (meanPower l)
    let s := { s with tps := { s.tps with msPower := (0, 0), secPower := l, p1s := sat 0xFFFF p } }
    if 985 < p then
      if since s s.tps.sustAt 50000000 then .next (raiseLp { s with tps := { s.tps with sustAt := some (now s) } }) else .next s
    else if p ≤ 940 ∧ ¬ s.tps.excursion ∧ s.tps.calmAt + 100000000 ≤ now s ∧ since s s.tps.fallAt 100000000
        ∧ ¬ s.tps.isoLost ∧ 0 < s.tps.lp then
      .next (withLevel (fun s => raise .tps 10 {} { s with tps := { s.tps with lp := s.tps.lp - 1, fallAt := some (now s) } }) s)
    else .next s

/-- EXCURSION_STEP (R380): an excursion reaches 10 ms, or a further 5 ms. -/
def execExcursionStep (s : State) : Out :=
  if s.tps.excursion then
    let s := advanceTo (s.tps.excAt + 10000000 + 5000000 * s.tps.excSteps) s
    .next (raiseLp { s with tps := { s.tps with excSteps := s.tps.excSteps + 1 } })
  else .next s

/-- ENERGY_LIMIT_SHUTDOWN (R381): with L_p at 3 an excursion reaches 20 ms, or P100 has exceeded 1,150 W for 1 ms. -/
def execEnergyLimitShutdown (s : State) : Out :=
  if s.tps.excursion ∧ s.tps.lp = 3 then
    let e := s.tps.excAt + 20000000
    let t := match s.tps.overAt with | some o => min e (o + 1000000) | none => e
    .next (inputInterruption 5 0xFF (advanceTo t s))
  else .next s

/-- TELEMETRY_LOSS (R382): L_p goes to 3. -/
def execTelemetryLoss (s : State) : Out :=
  if s.msc.mode = .off then .next s
  else
    let s' := { s with tps := { s.tps with isoOk := false, isoLost := true } }
    let s' := if s.tps.lp = 3 then s' else withLevel (fun s => raise .tps 9 {} { s with tps := { s.tps with lp := 3 } }) s'
    .next (raise .tps 11 {} s')

/-- TELEMETRY_RETURN (R382): telemetry has been back for 10 ms, and the release rule applies again. -/
def execTelemetryReturn (s : State) : Out :=
  if s.msc.mode = .off then .next s else .next { s with tps := { s.tps with isoOk := true, isoLost := false } }

/-! ### The backup domain and the calendar (R385 to R388) -/

/-- BACKUP_DOMAIN_POWER_ON (R387, R389): the calendar restarts from 0; in OFF the report waits for the next start. -/
def execBackupDomainPowerOn (s : State) : Out :=
  let s := { s with msc := { s.msc with calS := 0, calNs := 0, calSet := false }, tps := { s.tps with trip := none } }
  if s.msc.mode = .off then .next { s with tps := { s.tps with calLost := true } } else .next (raise .tps 16 {} s)

/-- SUPERCAP_LOW (R385): voltages in mV. -/
def execSupercapLow (cap ext : Nat) (s : State) : Out :=
  let s := { s with tps := { s.tps with bkCap := sat 4095 cap, bkExt := sat 4095 ext } }
  if cap < 2200 ∧ ext < 2500 ∧ s.msc.mode ≠ .off then .next (raise .tps 17 {} s) else .next s

/-- CALENDAR_SET as the MSC executes it (R388). -/
def setCalendar (secs ns : Nat) (s : State) : State :=
  let old := s.msc.calS
  raise .tps 15 { detail := some (le 8 old ++ le 8 secs) } { s with msc := { s.msc with calS := secs, calNs := ns, calSet := true } }

/-! ### The hardware trip (R367) -/

/-- HARDWARE_TRIP (R367): a valid sensor at 115 degrees: the supplies are gone, and the trip is latched in the backup domain. -/
def execHardwareTrip (i : Nat) (t : Int) (s : State) : Out :=
  let x := sensorAt s i
  if 278 ≤ i ∨ s.msc.mode = .off ∨ t < 1840 ∨ 2400 < t ∨ ¬ domainPowered s (sensorDomain i) ∨ (x.sampled ∧ ¬ x.valid) then .next s
  else .next (poweredOff { s with tps := { s.tps with trip := some (i, t, s.msc.calS, s.msc.calNs) } })

end Sys2Proof.Machine
end

