-- ==== Sys2Proof/Machine/Resets.lean ====
section
/-! DEFINITION. Resets, transitions between states, unit faults and the MSC watchdog (R391 to R408, R442, R451). -/

namespace Sys2Proof.Machine

/-! ### What a reset command may do (R324, R368, R396, R399, R407) -/

/-- THAW would be accepted (R324): in FROST, every powered domain's maximum below 85 degrees. -/
def thawable (s : State) : Bool :=
  s.msc.mode = .frost && s.msc.resetting.isNone
    && (List.range 7).all (fun d => !domainPowered s d || (match domainReading s d with | some t => decide (t < 1360) | none => true))

/-- Blocks that a subsystem reset may name (R399). -/
def blockAllowed (b : Nat) : Bool := [0, 2, 3, 4, 5, 6, 11, 12, 13].contains b

/-- The state forbids a RESET of this type (R396, R429). -/
def resetForbidden (s : State) (type : Nat) : Bool :=
  match s.msc.mode with
  | .frost => decide (3 ≤ type) || !thawable s
  | .standby => decide (3 ≤ type)
  | .recovery => decide (type ≠ 1)
  | .off => true
  | _ => !resetLight s

/-- What RESET answers (R323, R325, R396, R399, R407). -/
def resetStatus (s : State) (type block : Nat) : BitVec 16 :=
  if type = 0 ∨ 5 < type ∨ (type = 5 ∧ ¬ blockAllowed block) then Status.paramInvalid
  else if s.msc.action.isSome ∨ resetForbidden s type then Status.notReady
  else Status.ok

/-- The action of an accepted RESET (R394, R396). -/
def resetAction (s : State) (type block : Nat) : Action :=
  if s.msc.mode = .frost then .thaw
  else match type with
    | 1 => .reset .powerOn 1
    | 2 => .reset .cold 1
    | 3 => .reset .warm 1
    | 4 => .reset .function 1
    | _ => .reset (.subsystem block) 1

/-! ### The beginning of a reset (R394 to R400) -/

/-- The entry is on half or engine `half` of block `block` (R180, R402): a stall entry is on the TDW and PSR half above the stall. -/
def entryOnUnit (block half : Nat) (e : AlmanacEntry) : Bool :=
  match block with
  | 4 => e.unit == uSqu half
  | 5 => e.unit == uLge half
  | 6 => e.unit == uXl half
  | 11 => e.unit == uOle half
  | _ => decide (block ≤ 3) && decide (e.unit < 768) && bool (dieOfLogical e.unit) == half

/-- The tasks of the page in force with an entry that has property `p`. -/
def tasksWith (s : State) (p : AlmanacEntry → Bool) : List (Nat × Nat) :=
  ((s.seq.page.entries.filter p).filterMap (fun e => e.task)).eraseDups

/-- These tasks end with HW_UNIT_FAULT, where they have not ended. -/
def endFaulted (ts : List (Nat × Nat)) (s : State) : State := each ts (fun q s => taskEnd q.1 q.2 Status.hwUnitFault 0 0 s) s

/-- Tasks of runs in progress that the current page gives an entry on the unit during the reset, whose bound is 4 us, end with HW_UNIT_FAULT
(R394, R399; log 34). -/
def endOnUnit (block half : Nat) (s : State) : State :=
  endFaulted (tasksWith s (fun e => entryOnUnit block half e && overlaps e.start e.len (epochWork s) 8000)) s

/-- Tasks that write a host window end with HW_UNIT_FAULT (R352). -/
def endWindowTasks (s : State) : State :=
  each s.seq.graphs (fun g s =>
    each ((List.range g.tasks.length).zip g.tasks) (fun p s =>
      if (taskRanges s g p.1 p.2).any (fun r => r.2.2 && decide (windowBase ≤ r.1)) then taskEnd g.slot p.1 Status.hwUnitFault 0 0 s
      else s) s) s

/-- The effect of a subsystem reset of block `b` (R399). -/
def resetBlock (b : Nat) (s : State) : State :=
  let bs := if b = 0 ∨ b = 2 then [0, 2] else [b]
  let s := each bs (fun b s => each [0, 1, 2, 3] (endOnUnit b) s) s
  let s := clearBlocks bs { s with msc := { s.msc with units := s.msc.units.filter (fun u => !bs.contains u.1) } }
  match b with
  | 0 => resetArray s
  | 2 => resetArray s
  | 3 => resetPsr s
  | 4 => resetSqu s
  | 5 => resetLge s
  | 6 => resetXl s
  | 11 =>
    let s := match liveColl s with
      | some (c, _) => taskEnd c.slot c.task Status.hwLinkFailed 0 0 s
      | none => s
    resetLinks s
  | 12 => resetHif s
  | _ => resetCal s

/-- The contents of a warm reset (R394, R395, R397, R398, R407). -/
def resetWarm (s : State) : State :=
  let s := abortBulk s
  let s := leaveAll (if s.seq.graphs.isEmpty then s else stopNow s)
  let s := if s.msc.mode = .active then enterMode .idle s else s
  let s := abandonPreparations s
  let s := resetXl (resetLge (resetArray s))
  let s := resetCal (resetLinks (resetMemories (resetSeq (resetCls s))))
  let s := clearBlocks [0, 1, 2, 3, 4, 5, 6, 7, 9, 10, 11, 13] { s with psr := {}, squ := {} }
  loseStaging { s with msc := { s.msc with units := [] } }

/-- A reset begins (R394): its contents are gone at once, and it lasts until RESET_END. The update lock ends with every reset (R420). -/
def beginReset (k : ResetKind) (source : Nat) (s : State) : State :=
  let s := abandonStep (endUpdate s)
  let mark (s : State) : State := { s with msc := { s.msc with resetting := some (.reset k source) } }
  match k with
  | .powerOn =>
    let t := flashOnly s
    mark { t with tps := { t.tps with groups := 1 }, msc := { t.msc with mode := .standby, prev := s.msc.mode, running := false } }
  | .cold =>
    let t := coldContents (endBulk (dropWorkAll s))
    mark { t with msc := { t.msc with running := false } }
  | .warm => mark (resetWarm s)
  | .function => mark (endWindowTasks (resetFunction s))
  | .subsystem b => mark (resetBlock b s)

/-- The function reset of the PCI Express port (R394, R407): part of a reset that is under way. -/
def portReset (source : Nat) (s : State) : State :=
  if s.msc.mode = .off ∨ s.msc.strapPcieOff then s
  else match s.msc.resetting with
    | some _ => endWindowTasks (resetFunction s)
    | none => beginReset .function source s

/-! ### Actions (R323, R365, R392) -/

/-- The action of a completed command begins. -/
def beginAction (a : Action) (s : State) : State :=
  match a with
  | .reset k source => beginReset k source s
  | .thaw =>
    let s := beginReset .cold 5 s
    { s with msc := { s.msc with resetting := some .thaw } }
  | .powerOff => inputInterruption 4 0xFF { s with tps := { s.tps with offLatch := true } }
  | .frost =>
    if s.msc.mode = .frost then s
    else if frostable s then
      match moduleMax s with
      | some (t, _, i) => enterFrost 2 i t s
      | none => enterFrost 2 0 0 s
    else raise .msc 2 {} s
  | .recovery => enterRecovery s

/-- MSC_ACTION_START (R323): 1 ms after the completion. -/
def execMscActionStart (s : State) : Out :=
  match s.msc.action with
  | none => .next s
  | some a =>
    let s := advanceTo s.msc.actionAt s
    .next (beginAction a { s with msc := { s.msc with action := none } })

/-! ### The end of a reset, and bring-up (R392, R394) -/

/-- MSC_RESET_CAUSE of a reset that has ended, with its event (R408). -/
def resetDone (type source block : Nat) (half1 half0 : Bool) (s : State) : State :=
  raise .msc 1 {} { s with msc := { s.msc with
    resetting := none, rcType := type, rcSource := source, rcBlock := block, rcHalf1 := half1, rcHalf0 := half0
    rcCount := sat 0xFFFF (s.msc.rcCount + 1) } }

/-- Groups G2 to G5 up, memory training, sources and start-up calibration, to IDLE (R227, R232, R267, R293, R392). -/
def bringUp (o : BringUp) (s : State) : State :=
  let s := firmwareTraining { s with tps := { s.tps with groups := 63 } }
  let s := bringUpSources o.lockFails o.starts s
  let s := each o.stackFails failStack s
  let s := each o.pkgFails failPackage (if o.pkgFails.isEmpty then s else loseLpddr s)
  let s := startupCalibration o.cal s
  let s := if o.cal.slow then trialRevert 2 s else s
  if s.msc.mode = .idle then s else enterMode .idle s

/-- The end of the reset under way (R392, R394): measured boot may lead to RECOVERY instead. -/
def resetEnd (o : BringUp) (s : State) : State :=
  let boot (source : Nat) (s : State) : State :=
    let s := measuredBoot { s with msc := { s.msc with running := true } }
    if s.msc.mode = .recovery then s else bringUp o (resetDone 2 source 0 false false s)
  match s.msc.resetting with
  | some (.reset .powerOn source) => powerOn source s
  | some (.reset .cold source) => boot source s
  | some .thaw => boot 5 s
  | some (.reset .warm source) =>
    if s.msc.mode = .dormant then
      let s := sourcesResume { s with tps := { s.tps with groups := 63 }, cal := { s.cal with retention := false } }
      enterMode .idle (reacquire o.cal (resetDone 3 source 0 false false s))
    else resetDone 3 source 0 false false s
  | some (.reset .function source) => resetDone 4 source 0 false false s
  | some (.reset (.subsystem b) source) =>
    let halves := decide (b ≠ 11) && decide (b ≠ 12) && decide (b ≠ 13)
    resetDone 5 source b halves halves s
  | _ => s

/-- STANDBY_EXIT (R392): measured boot, then the bring-up to IDLE, unless the reset input is held. -/
def execStandbyExit (o : BringUp) (s : State) : Out :=
  if s.msc.mode ≠ .standby ∨ s.msc.resetHeld ∨ s.msc.resetting.isSome ∨ s.msc.running = false then .next s
  else
    let s := measuredBoot s
    if s.msc.mode = .recovery then .next s else .next (bringUp o s)

/-! ### The mezzanine's pins (R394, R451) -/

/-- RESET_N_PULSE (R394, R451): a cold reset in IDLE and ACTIVE; in STANDBY the input is taken as held until its release (log 16). -/
def execResetNPulse (s : State) : Out :=
  match s.msc.mode with
  | .idle => if resetLight s then .next (beginReset .cold 2 s) else .next s
  | .active => if resetLight s then .next (beginReset .cold 2 s) else .next s
  | .standby => .next { s with msc := { s.msc with resetHeld := true } }
  | _ => .next s

/-- RESET_N_RELEASE (R392, R451): the transition to IDLE may begin. -/
def execResetNRelease (s : State) : Out := .next { s with msc := { s.msc with resetHeld := false } }

/-- PERST_ASSERT (R451). -/
def execPerstAssert (s : State) : Out := .next (portReset 4 s)

/-- PCIE_FLR (R394, R400). -/
def execPcieFlr (s : State) : Out := .next (portReset 3 s)

/-- PCIE_HOT_RESET (R394, R400). -/
def execPcieHotReset (s : State) : Out := .next (portReset 4 s)

/-! ### DORMANT (R393) -/

/-- A request to enter DORMANT: refused outside IDLE, with a system calibration step pending or the update lock held. -/
def dormantRequest (s : State) : State :=
  if s.msc.mode ≠ .idle ∨ s.cal.stage ≠ 0 ∨ s.cal.sysRun.isSome ∨ s.msc.update.isSome ∨ s.msc.resetting.isSome then raise .msc 2 {} s
  else
    let s := portsDark (dischargeAll (sourcesOff (abandonPreparations (abortBulk s))))
    let s := stopEpochs (loseStaging { s with
      tps := { s.tps with groups := 15 }
      tdw := { s.tdw with trimPending := false }
      cal := { s.cal with retention := true, pending := none, phase := 0, trimsPending := s.cal.trims } })
    purgeWaiting (enterMode .dormant s)

/-! ### Unit faults (R402, R403) -/

/-- A half of blocks 2 to 6, or a link engine. -/
def unitExists (block half : Nat) : Bool := (2 ≤ block && block ≤ 6 && half < 2) || (block == 11 && half < 4)

/-- Faults of a unit within the last 16 epochs. -/
def unitFaults (s : State) (block half : Nat) : Nat :=
  (s.msc.unitHist.filter (fun u => decide (u.1 = block) && decide (u.2.1 = half) && decide (s.seq.epoch < u.2.2 + 16))).length

/-- UNIT_WATCHDOG_EXPIRY (R402): the unit is FAULTED, and the tasks with an entry on it in the current page end with HW_UNIT_FAULT. -/
def execUnitWatchdogExpiry (block half : Nat) (s : State) : Out :=
  if !running s ∨ !unitExists block half ∨ s.msc.units.contains (block, half) then .next s
  else
    let again := decide (1 ≤ unitFaults s block half) && decide (block ≠ 11)
    let s := { s with msc := { s.msc with
      units := s.msc.units ++ [(block, half)]
      unitHist := (block, half, s.seq.epoch) :: s.msc.unitHist
      refault0 := if again && half == 0 then sat 255 (s.msc.refault0 + 1) else s.msc.refault0
      refault1 := if again && half == 1 then sat 255 (s.msc.refault1 + 1) else s.msc.refault1 } }
    let s := raise .msc 5 { unit := some (Config.unitCode block half).toNat, status := Status.hwUnitFault } s
    .next (endFaulted (tasksWith s (entryOnUnit block half)) s)

/-- The automatic resets of a fallow slot (R403): each FAULTED unit, but for one FAULTED twice within 16 epochs, and those that `stuck` names,
whose reset does not complete. -/
def unitResets (stuck : List (Nat × Nat)) (s : State) : State :=
  each s.msc.units (fun u s =>
    if 2 ≤ unitFaults s u.1 u.2 ∨ stuck.contains u then s
    else
      let s := resetHalf u.1 u.2 { s with msc := { s.msc with units := s.msc.units.filter (fun v => v ≠ u) } }
      let old := s.msc.resetting
      let s := resetDone 5 6 u.1 (decide (u.2 = 1)) (decide (u.2 = 0)) s
      { s with msc := { s.msc with resetting := old } }) s

/-- Tasks with an entry on a unit which stays FAULTED end with HW_UNIT_FAULT in the page that holds them; LGE and XL entries are placed on the other
half while it serves (R403). -/
def endOnFaulted (s : State) : State := each s.msc.units (fun u s => endFaulted (tasksWith s (entryOnUnit u.1 u.2)) s) s

/-! ### The MSC core (R404, R406, R424) -/

/-- MSC_WATCHDOG_EXPIRY (R404, R424): the core restarts from its active slot, a slot in trial reverting; a third restart within 60 s is RECOVERY. -/
def execMscWatchdogExpiry (s : State) : Out :=
  if s.msc.running = false ∨ s.msc.mode = .off ∨ s.msc.mode = .recovery then .next s
  else
    let recent := s.msc.wdTimes.filter (fun t => decide (now s < t + 60000000000))
    if 2 ≤ recent.length then .next (enterRecovery s)
    else
      let s := { s with msc := { s.msc with wdTimes := now s :: recent, wdTotal := sat 255 (s.msc.wdTotal + 1) } }
      .next (raise .msc 4 {} (mscRestart (trialRevert 0 s)))

/-- The action that the front end carries out for a waiting command (R406): a RESET 0x01 or 0x02 as a power-on reset. -/
def fallbackAction (s : State) : Job → Option Action
  | .frostEnter => some .frost
  | .powerOff => some .powerOff
  | .reset type _ =>
    if type = 1 ∨ type = 2 then some (if s.msc.mode = .frost then .thaw else .reset .powerOn 7) else none
  | _ => none

/-- FRONT_END_FALLBACK (R406): the MSC is silent 10 ms after it accepted one of these commands: the front end completes it and acts. -/
def execFrontEndFallback (s : State) : Out :=
  if s.msc.running then .next s
  else match s.msc.waiting.find? (fun w => (fallbackAction s w.2).isSome) with
    | none => .next s
    | some w =>
      let s := { s with msc := { s.msc with waiting := s.msc.waiting.filter (fun v => v ≠ w) } }
      match fallbackAction s w.2 with
      | none => .next s
      | some a => .next (beginAction a (complete w.1 (Status.ok, 0, []) s))

/-- The restart of the MSC core is done (R404, R408): its length, and the measured boot that every start runs. -/
def mscRestartDone (s : State) : State :=
  let t := sat 0xFFFF ((now s - s.msc.restartAt) / 100000)
  drainCopies (measuredBoot { s with msc := { s.msc with running := true, wdLongest := max s.msc.wdLongest t } })

end Sys2Proof.Machine
end

