-- ==== Sys2Proof/Machine/RegRead.lean ====
section
/-! DEFINITION. What every register of the map reads as (R9, R10, R433 to R446 and the register tables of each chapter). -/

namespace Sys2Proof.Machine

/-! ### Codes -/

/-- State code of a stall (R73). -/
def stallCode : StallState → Nat
  | .unloaded => 0 | .loaded => 1 | .suspect => 2 | .spare => 3 | .failed => 4 | .retired => 5

/-- Code of PMA_DROP (R75). -/
def dropCode : Drop → Nat
  | .parked => 0 | .half => 1 | .full => 2

/-- State code of a source (R292). -/
def sourceCode : SrcState → Nat
  | .off => 0 | .warm => 1 | .locking => 2 | .locked => 3 | .serving => 4 | .worn => 5 | .failed => 6

/-- State code of a port (R244). -/
def portCode : PortState → Nat
  | .dark => 0 | .training => 1 | .up => 2 | .express => 3 | .down => 4

/-- State code of a lane (R263). -/
def laneCode : LaneState → Nat
  | .idle => 0 | .active => 1 | .dropped => 2 | .dark => 3

/-- State code of a stack (R234), of the tier (R235) and of a ring (R353). -/
def stackCode : StackState → Nat
  | .inService => 0 | .failing => 1 | .failed => 2
def tierCode : TierState → Nat
  | .inService => 0 | .spillReserved => 1 | .failed => 2
def ringCode : RingState → Nat
  | .disabled => 0 | .enabled => 1 | .faulted => 2

/-- TSL_SYNC_STATE (R193). -/
def syncCode : SyncState → Nat
  | .free => 0 | .acquiring => 1 | .locked => 2 | .holdover => 3

/-- State code of the module (R323, R391); 0 is OFF. -/
def modeCode : Mode → Nat
  | .off => 0 | .standby => 1 | .dormant => 2 | .idle => 3 | .active => 4 | .frost => 5 | .recovery => 6

/-- A counter shown in 32 bits, and the two words of a 64-bit one, saturating. -/
def shown32 (n : Nat) : Word := BitVec.ofNat 32 (sat 0xFFFFFFFF n)
def shownLo (n : Nat) : Word := BitVec.ofNat 32 (sat 0xFFFFFFFFFFFFFFFF n)
def shownHi (n : Nat) : Word := BitVec.ofNat 32 (sat 0xFFFFFFFFFFFFFFFF n / 2 ^ 32)

/-- Index of a repeated register: offset `o` from `base` at a stride, below `n`. -/
def indexOf (base stride n o : Nat) : Option Nat :=
  if base ≤ o ∧ o < base + stride * n ∧ (o - base) % stride = 0 then some ((o - base) / stride) else none

/-- Bits of a word from flags, bit 0 first. -/
def flagBits (fs : List Bool) : Nat := fs.foldr (fun b n => bool b + 2 * n) 0

/-! ### Blocks 0 to 2 -/

/-- Spare row `r` of a stall as PMA_ROW_MAP shows it, without its shift (R75). -/
def spareRowField (st : Stall) (r : Nat) : Nat :=
  match st.rowMap.find? (fun q => decide (q.1 = r) && decide (q.2 < 64)) with
  | some q => 0x80 + q.2
  | none => 0

/-- Block 0 (R75). -/
def readPma (s : State) (o : Nat) : Word :=
  if o = 0x0000 then 0x40448B04
  else if o = 0x0004 then
    pack [(16, stallsInService s), (10, (s.stalls.filter (fun st => st.state = .spare)).length),
      (0, (s.stalls.filter (fun st => decide (st.state = .unloaded) && st.logical.isSome)).length)]
  else if o = 0x0008 then s.ev.pma
  else match indexOf 0x1000 4 816 o, indexOf 0x2000 4 816 o, indexOf 0x3000 4 768 o with
    | some g, _, _ =>
      let st := stallAt s g
      pack [(22, st.logical.getD 0x3FF), (18, st.line), (16, dropCode st.drop), (12, sat 15 (suspectCount s st)),
        (9, (st.rowMap.filter (fun q => decide (q.2 < 64))).length), (6, setCode st.front.mset), (0, stallCode st.state)]
    | _, some g, _ =>
      let st := stallAt s g
      pack [(24, spareRowField st 67), (16, spareRowField st 66), (8, spareRowField st 65), (0, spareRowField st 64)]
    | _, _, some l =>
      (match servedBy s l with
       | some g => pack [(31, 1), (0, g)]
       | none => 0x3FF)
    | _, _, _ => 0

/-- Block 1 (R304). -/
def readCls (s : State) (o : Nat) : Word :=
  if o = 0x0000 then 0x3810085A
  else if o = 0x0008 then s.ev.cls
  else if o = 0x000C then clsLastTakeoverWord s
  else if o = 0x0010 then shown32 s.cls.hold
  else match indexOf 0x1000 4 56 o with
    | some i =>
      let x := sourceAt s i
      pack [(29, sourceCode x.state), (16, sat 255 x.bias), (8, sat 255 x.power), (0, twos 8 (clamp (-128) 127 x.offset).1)]
    | none => 0

/-- Block 2 (R77). A shadow hold that is not valid goes on showing the set it was last loaded under, also in TDW_RANGE_PENDING, which is 0 while a
hold has no set (log 82). -/
def readTdw (s : State) (o : Nat) : Word :=
  if o = 0x0000 then pack [(8, bool s.tdw.deglitchNext)]
  else if o = 0x0004 then s.ev.tdw
  else if o = 0x0008 then pack [(16, s.tdw.errCount), (0, s.tdw.errPhys)]
  else if o = 0x000C then pack [(16, s.tdw.edition.toNat), (0, bool s.tdw.trimPending)]
  else if o = 0x0010 then pack [(0, sat 0xFFFF s.tdw.refreshMax)]
  else match indexOf 0x1000 4 816 o with
    | some g =>
      let st := stallAt s g
      pack [(31, bool st.front.valid), (30, bool (st.shadow.valid && !st.loading)), (29, bool st.loading),
        (28, bool (st.shadow.mset.isSome && st.front.mset.isSome && decide (st.shadow.mset ≠ st.front.mset))),
        (25, setCode st.front.mset), (22, setCode st.shadow.mset), (0, st.swaps.toNat)]
    | none => 0

/-! ### Blocks 3 to 6 -/

/-- Block 3 (R103); PSR_EDITION is the edition in force (R423). -/
def readPsr (s : State) (o : Nat) : Word :=
  let c := s.psr.shown
  match o with
  | 0x0000 => pack [(12, 0x4010F), (0, edition s % 256)]
  | 0x0004 => pack [(0, bool s.psr.optEnNext)]
  | 0x0008 => s.ev.psr
  | 0x000C => psrLastFailWord s
  | 0x0010 => shownLo c.passes
  | 0x0014 => shownHi c.passes
  | 0x0018 => shown32 c.opt
  | 0x001C => shown32 c.elec
  | 0x0020 => shown32 c.tally
  | 0x0024 => shown32 c.range
  | 0x0028 => shown32 c.slice
  | 0x002C => shown32 c.hold
  | 0x0030 => pack [(0, sat 0xFFFF c.rate)]
  | 0x0034 => pack [(8, sat 255 c.peak1), (0, sat 255 c.peak0)]
  | _ => 0

/-- Bytes of the scale register that SQU_SCALE_SEL names (R119, R135). -/
def scaleWords (s : State) : List Word :=
  let b := match s.squ.regs.find? (fun r => decide (r.die = bool s.squ.selDie) && decide (r.index = s.squ.selIndex.toNat)) with
    | some r => r.record
    | none => []
  (List.range 4).map (fun k => BitVec.ofNat 32 (field (fit 16 b) (4 * k) 4))

/-- Block 4 (R135). SQU_SCALE_DATA0 reads the selected register, the other three what its last read captured. -/
def readSqu (s : State) (o : Nat) : Word :=
  let c := s.squ.shown
  match o with
  | 0x0000 => 0x200087FF
  | 0x0008 => s.ev.squ
  | 0x000C => shown32 c.sat
  | 0x0010 => shown32 c.under
  | 0x0014 => shown32 c.constCh
  | 0x0018 => shown32 c.nonfin
  | 0x001C => lastEventWord s.squ.last
  | 0x0020 => pack [(31, bool s.squ.selDie), (0, s.squ.selIndex.toNat)]
  | 0x0024 => (scaleWords s).getD 0 0
  | 0x0028 => s.squ.capture.getD 1 0
  | 0x002C => s.squ.capture.getD 2 0
  | 0x0030 => s.squ.capture.getD 3 0
  | _ => 0

/-- Block 5 (R160). -/
def readLge (s : State) (o : Nat) : Word :=
  let c := s.lge.shown
  match o with
  | 0x0000 => 0x8080801F
  | 0x0008 => s.ev.lge
  | 0x000C => shownLo c.lookups
  | 0x0010 => shownHi c.lookups
  | 0x0014 => shown32 c.passes
  | 0x0018 => shown32 c.cycles
  | _ => 0

/-- Block 6 (R161, R423). -/
def readXl (s : State) (o : Nat) : Word :=
  match o with
  | 0x0000 => pack [(16, 0x7D40), (0, edition s % 256)]
  | 0x0008 => s.ev.xl
  | 0x000C => shown32 s.xl.shown.nonfin
  | 0x0010 => shown32 s.xl.shown.overflow
  | 0x0014 => lastEventWord s.xl.last
  | _ => 0

/-! ### Blocks 7 to 11 -/

/-- Block 7 (R192). -/
def readSeq (s : State) (o : Nat) : Word :=
  let p := s.seq.page
  let runs (m : MSet) : Bool := p.plan.any (fun q => decide (q.2.2.1 = m))
  match o with
  | 0x0000 => 0xFFFFFF08
  | 0x0004 => pack [(16, s.seq.dumpRing.toNat)]
  | 0x0008 => s.ev.seq
  | 0x000C => pack [(0, s.seq.admitStatus.toNat)]
  | 0x0010 => s.seq.admitDetail
  | 0x0014 => BitVec.ofNat 32 s.seq.epoch
  | 0x0018 => BitVec.ofNat 32 (s.seq.epoch / 2 ^ 32)
  | 0x001C => shown32 s.seq.lag
  | 0x0020 => pack [(28, flagBits [runs .a, runs .b, runs .c, runs .d]), (23, (p.plan.map (fun q => q.2.2.2)).foldl max 0), (0, p.tasks.length)]
  | 0x0024 => shown32 p.length
  | 0x0028 => BitVec.ofNat 32 p.digest.toNat
  | 0x002C => BitVec.ofNat 32 (p.digest.toNat / 2 ^ 32)
  | 0x0030 => shown32 s.seq.overruns
  | 0x0034 => shown32 s.seq.lapses
  | 0x0038 => pack [(22, p.stalls), (0, s.seq.graphs.length)]
  | _ => 0

/-- Register `k` of a lane (R193). -/
def readLane (l : Lane) (k : Nat) : Word :=
  match k with
  | 0 => pack [(31, bool l.en), (30, bool l.dir), (29, bool l.dropLate), (26, l.priority.toNat), (0, l.unitBytes.toNat)]
  | 1 => l.baseLo
  | 2 => l.baseHi
  | 3 => pack [(0, l.units.toNat)]
  | 4 => l.delay
  | 5 => l.period
  | 6 => pack [(16, sat 0xFFFF l.late), (0, sat 0xFFFF l.discarded)]
  | _ => 0

/-- Block 8 (R193). TSL_LEN reads the last value written (R9). -/
def readTsl (s : State) (o : Nat) : Word :=
  if o = 0x0000 then 0x300005C8
  else if o = 0x0004 then pack [(0, s.tsl.lenNext.toNat)]
  else if o = 0x0008 then s.ev.tsl
  else if o = 0x000C then pack [(16, twos 16 (clamp (-32768) 32767 s.tsl.offset).1), (0, syncCode s.tsl.sync)]
  else if o = 0x0010 then BitVec.ofNat 32 (now s)
  else if o = 0x0014 then BitVec.ofNat 32 (now s / 2 ^ 32)
  else if 0x1000 ≤ o ∧ o < 0x1000 + 32 * 48 ∧ o % 4 = 0 then readLane (laneAt s ((o - 0x1000) / 32)) (o % 32 / 4)
  else 0

/-- Block 9 (R234). -/
def readHms (s : State) (o : Nat) : Word :=
  let h := s.hms
  if o = 0x0000 then 0xA24A17E0
  else if o = 0x0008 then s.ev.hms
  else if o = 0x000C then shown32 h.retriesShown
  else if o = 0x0010 then shown32 h.persistShown
  else if o = 0x0014 then hmsLastErrLo s
  else if o = 0x0018 then hmsLastErrHi s
  else if o = 0x001C then pack [(31, bool h.spill.isSome), (30, bool h.outOfService), (0, h.spill.getD 0xF)]
  else if o = 0x0020 then shown32 h.stgShown
  else if o = 0x0024 then (match h.stgLastErr with | some a => pack [(31, 1), (0, a % 2 ^ 29)] | none => 0)
  else match indexOf 0x1000 4 10 o with
    | some n =>
      let k := h.hbm.getD n {}
      pack [(30, stackCode k.state), (16, sat 255 (k.persist.filter (fun e => decide (s.seq.epoch < e + 16))).length), (0, sat 0xFFFF k.shown)]
    | none => 0

/-- Block 10 (R235). -/
def readLms (s : State) (o : Nat) : Word :=
  match o with
  | 0x0000 => 0xC20A0178
  | 0x0008 => s.ev.lms
  | 0x000C => shown32 s.lms.retriesShown
  | 0x0010 => shown32 s.lms.persistShown
  | 0x0014 => lmsLastErrLo s
  | 0x0018 => lmsLastErrHi s
  | 0x001C => pack [(30, tierCode s.lms.tier), (0, s.lms.failed.toNat)]
  | _ => 0

/-- Block 11 (R263). -/
def readOle (s : State) (o : Nat) : Word :=
  let x := s.ole
  let c := x.shown
  if o = 0x0000 then 0x20441020
  else if o = 0x0004 then pack [(24, x.trainPorts.toNat)]
  else if o = 0x0008 then s.ev.ole
  else if o = 0x000C then pack [(16, x.groupId.toNat), (8, x.index.toNat), (0, x.size.toNat)]
  else if o = 0x0010 then pack [(30, x.gsState.toNat), (0, x.reached.toNat)]
  else if o = 0x0014 then pack [(0, x.switch.toNat)]
  else if o = 0x0018 then pack [(0, x.restSwitch.toNat)]
  else if o = 0x002C then shownLo c.frames
  else if o = 0x0030 then shownHi c.frames
  else if o = 0x0034 then shown32 c.crc
  else if o = 0x0038 then shown32 c.resends
  else if o = 0x003C then shown32 c.hold
  else if o = 0x0040 then oleLastHoldWord s
  else match indexOf 0x001C 4 4 o, indexOf 0x1000 4 4 o, indexOf 0x2000 4 32 o with
    | some j, _, _ => x.restLanes.getD j 0
    | _, some p, _ =>
      let q := portOf s p
      pack [(29, portCode q.state), (27, q.reason.toNat), (21, (activeOn s p).length), (17, q.peer.toNat), (15, q.peerPort.toNat),
        (0, q.rtt.toNat)]
    | _, _, some l =>
      let k := linkLane s l
      pack [(30, laneCode k.state), (28, k.port.toNat), (22, k.replaces.getD 0x3F), (0, sat 0xFFFF k.failsShown)]
    | _, _, _ => 0

/-! ### Block 12 -/

/-- The control-port registers (R328). -/
def readCp (s : State) (o : Nat) : Word :=
  let c := s.cp
  let flags (f : Session → Bool) : Nat := flagBits (c.sessions.map f)
  match o with
  | 0x0100 => pack [(30, bool c.tagTx), (27, c.pcpImm.toNat), (24, c.pcpOther.toNat), (0, c.vid.toNat)]
  | 0x0104 => s.ev.cp
  | 0x0108 => BitVec.ofNat 32 Config.macAddress.toNat
  | 0x010C => BitVec.ofNat 32 (Config.macAddress.toNat / 2 ^ 32)
  | 0x0110 => pack [(31, bool c.linkUp), (30, bool s.msc.strapMaster), (8, c.sqi.toNat), (0, sat 255 c.linkDrops)]
  | 0x0114 => shown32 c.dropped
  | 0x0118 => shown32 c.authFails
  | 0x011C => shown32 c.evDropped
  | 0x0120 => pack [(16, flags (fun x => x.state = .pending)), (8, flags (fun x => x.state = .isOpen)),
      (0, flags (fun x => decide (x.state = .isOpen) && decide (x.role = 3)))]
  | 0x0124 => pack [(31, bool c.qbvEn), (0, c.qbvCount.toNat)]
  | 0x0128 => c.qbvBaseLo
  | 0x012C => c.qbvBaseHi
  | 0x0130 => c.qbvCycle
  | _ =>
    match indexOf 0x0200 4 64 o with
    | some i =>
      let e := c.qbv.getD i {}
      pack [(31, bool e.imm), (30, bool e.other), (0, e.interval.toNat)]
    | none => 0

/-- Register `k` of ring `i` (R353). -/
def readRing (s : State) (i k : Nat) : Word :=
  let r := ringOf s i
  match k with
  | 0 => pack [(31, bool (r.state ≠ .disabled)), (28, ringTypeCode r.type), (24, r.size.toNat)]
  | 1 => r.baseLo
  | 2 => r.baseHi
  | 3 => pack [(18, r.linked.toNat), (17, bool r.intEn), (11, r.vector.toNat)]
  | 4 => pack [(16, r.modCount.toNat), (0, r.modTime.toNat)]
  | 5 => r.prod
  | 6 => r.cons
  | _ => pack [(30, ringCode r.state), (27, r.cause.toNat), (0, sat 0xFFFF r.lost)]

/-- Block 12 (R328, R353, R443); doorbells read 0. -/
def readHif (s : State) (o : Nat) : Word :=
  let h := s.hif
  if 0x0100 ≤ o ∧ o < 0x0300 then readCp s o
  else if 0x10000 ≤ o ∧ o < 0x10000 + 32 * 16384 then (if o % 4 = 0 then readRing s ((o - 0x10000) / 32) (o % 32 / 4) else 0)
  else if o = 0x0000 then 0x40004040
  else if o = 0x0008 then s.ev.hif
  else if o = 0x000C then pack [(31, bool h.evRingEn), (0, h.evRing.toNat)]
  else if o = 0x0010 then pack [(31, bool h.tcEn), (24, h.tcPeriod.toNat), (0, h.tcRing.toNat)]
  else if o = 0x0014 then pack [(31, bool h.plUp), (28, h.plSpeed.toNat), (24, h.plWidth.toNat), (20, h.plMps.toNat)]
  else if o = 0x0018 then shown32 h.eventsLost
  else if o = 0x0800 then BitVec.ofNat 32 (flagBits ((List.range 17).map (fun n => irqPending s (srcOf n))))
  else if o = 0x0804 then pack [(31, bool h.irqGlobal)]
  else match indexOf 0x0300 4 16 o, indexOf 0x0880 4 17 o, indexOf 0x0900 4 17 o with
    | some n, _, _ => let a := h.aper.getD n (false, 0); pack [(31, bool a.1), (0, a.2.toNat)]
    | _, some n, _ => h.irqEn.getD n 0
    | _, _, some n => pack [(0, (h.irqVec.getD n 0).toNat)]
    | _, _, _ =>
      if 0x0400 ≤ o ∧ o < 0x0800 then
        let w := h.wins.getD ((o - 0x0400) / 16) {}
        match o % 16 with
        | 0 => pack [(31, bool w.en), (30, bool w.read), (29, bool w.write), (0, w.size.toNat)]
        | 4 => w.hostLo
        | 8 => w.hostHi
        | _ => 0
      else 0

/-! ### Blocks 13 to 15 -/

/-- Raw code and value of the input that CAL_MON_SEL names (R281, R288): of its latest sample, or of the mean of its last 8. -/
def readMon (s : State) : Word :=
  let n := s.cal.selInput.toNat
  let m := monOf s n
  let raw := if s.cal.selMean && !m.hist.isEmpty then m.hist.sum / m.hist.length else m.raw
  pack [(16, m.raw), (0, if m.faulted then 0xFFFF else twos 16 (calibrated s n raw))]

/-- Calendar time of the monitor calibration record in force, 0 without one (R285, R288). -/
def recordTime (s : State) : Nat := (s.cal.record.map (fun r => r.time)).getD 0

/-- Weak rows of physical stall `g` that serve (R279, R288). -/
def weakRows (s : State) (g : Nat) : Nat :=
  let st := stallAt s g
  if st.logical.isSome then ((servedRows st).filter st.weak.contains).length else 0

/-- Block 13 (R288). -/
def readCal (s : State) (o : Nat) : Word :=
  let c := s.cal
  if o = 0x0000 then 0x80041040
  else if o = 0x0004 then pack [(28, c.step.toNat), (7, bool c.selfTrimNext), (6, bool c.urgentEn)]
  else if o = 0x0008 then s.ev.cal
  else if o = 0x000C then pack [(28, calPhase s), (26, c.stage.toNat), (25, bool (c.record.any (fun r => r.ref.any (fun w => w != 0)))), (0, sat 0xFFFF c.startFails)]
  else if o = 0x0010 then pack [(24, sat 255 c.epbModule), (16, sat 255 c.epbTable), (0, c.epbArcade)]
  else if o = 0x0014 then pack [(16, c.edCount.toNat), (0, c.edCause.toNat)]
  else if o = 0x0018 then c.power
  else if o = 0x002C then BitVec.ofNat 32 (recordTime s)
  else if o = 0x0030 then BitVec.ofNat 32 (recordTime s / 2 ^ 32)
  else if o = 0x0034 then pack [(11, bool c.selMean), (0, c.selInput.toNat)]
  else if o = 0x0038 then readMon s
  else match indexOf 0x001C 4 4 o, indexOf 0x1000 4 24 o, indexOf 0x2000 4 192 o, indexOf 0x3000 4 816 o with
    | some j, _, _, _ => c.refId.getD j 0
    | _, some a, _, _ =>
      let q := c.arcs.getD a {}
      let weak := ((List.range 34).map (fun p => weakRows s (34 * a + p))).sum
      pack [(24, sat 255 q.epb), (16, sat 255 q.power), (8, sat 255 weak),
        (0, flagBits ((List.range 8).map (fun z => (zoneAt s (8 * a + z)).loop)))]
    | _, _, some z, _ =>
      let x := zoneAt s z
      pack [(31, bool x.loop), (30, bool x.sensorBad), (29, bool x.noSentinel), (0, twos 16 (clamp (-32768) 32767 x.error).1)]
    | _, _, _, some g =>
      let x := stallCal s g
      pack [(24, sat 255 x.readings), (16, sat 255 x.maxCorr), (8, sat 255 x.epb), (0, x.read.toNat)]
    | _, _, _, _ => 0

/-- TPS_MODULE_MAX (R356, R370); all zero while no sensor has a reading. -/
def readModuleMax (s : State) : Word :=
  match moduleMax s with
  | some (t, d, i) => pack [(16, twos 16 t), (13, d), (10, (thermalLevel s).1), (0, i)]
  | none => pack [(10, (thermalLevel s).1)]

/-- TPS_DOMAIN_MAX of domain `d`. -/
def readDomainMax (s : State) (d : Nat) : Word :=
  pack [(16, twos 16 (maxTemp s d)), (13, d), (12, bool (domainAt s d).fast), (10, (domainAt s d).level), (9, bool (noSensor s d)),
    (0, match domainMax s d with | some m => m.2 | none => 0)]

/-- Sensor `i` is sampled at 16 kHz: with its domain, or for the 100 ms after a change (R357). -/
def sensorFast (s : State) (i : Nat) : Bool := (domainAt s (sensorDomain i)).fast || decide (now s < (sensorAt s i).fastUntil)

/-- Block 14 (R370, R390). VBAT_EXT is the highest source when its voltage exceeds the supercapacitor's (R385). -/
def readTps (s : State) (o : Nat) : Word :=
  let t := s.tps
  if o = 0x0000 then 0x8B773000
  else if o = 0x0004 then pack [(0, t.floor.toNat)]
  else if o = 0x0008 then s.ev.tps
  else if o = 0x000C then
    pack [(30, levelInForce s), (28, (thermalLevel s).1), (26, t.lp), (24, (domainAt s 3).level), (6, (thermalLevel s).2), (0, t.k)]
  else if o = 0x0010 then readModuleMax s
  else if o = 0x0030 then shown32 t.skipped
  else if o = 0x0034 then shown32 t.frosts
  else if o = 0x0038 then (match t.trip with | some (i, x, _) => pack [(31, 1), (16, i), (0, twos 16 x)] | none => 0)
  else if o = 0x0104 then
    pack [(30, t.lp), (29, bool t.excursion), (28, bool t.isoOk), (22, t.groups.toNat), (0, if t.excursion then excLength s else 0)]
  else if o = 0x0108 then pack [(16, sat 0xFFFF t.inV), (0, sat 0xFFFF t.inI)]
  else if o = 0x010C then pack [(16, sat 0xFFFF t.p1s), (0, sat 0xFFFF t.p100)]
  else if o = 0x0110 then pack [(16, sat 0xFFFF t.pkExc), (0, sat 0xFFFF t.pkP100)]
  else if o = 0x0114 then shown32 t.excCount
  else if o = 0x0118 then pack [(20, sat 4095 t.bkCap), (8, sat 4095 t.bkExt), (7, bool (decide (t.bkCap < t.bkExt))), (6, bool s.msc.calSet)]
  else if o = 0x011C then BitVec.ofNat 32 s.msc.calS
  else if o = 0x0120 then BitVec.ofNat 32 (s.msc.calS / 2 ^ 32)
  else if o = 0x0124 then BitVec.ofNat 32 s.msc.calNs
  else match indexOf 0x0014 4 7 o, indexOf 0x1000 4 278 o with
    | some d, _ => readDomainMax s d
    | _, some i =>
      let x := sensorAt s i
      pack [(16, twos 16 x.temp), (15, bool (x.valid && x.sampled)), (14, bool (sensorFast s i)), (0, sensorDomain i)]
    | _, _ => 0

/-- The LED pattern now shown (R442). -/
def ledShown (s : State) : Nat :=
  if s.msc.mode = .off then 0
  else if s.msc.ledOverride then s.msc.ledPattern.toNat
  else match s.msc.mode with
    | .off => 0
    | .idle => 1
    | .active => 1
    | .standby => 2
    | .frost => 3
    | .recovery => 3
    | .dormant => 4

/-- MSC_UPDATE (R432). -/
def updateWord (s : State) : Word :=
  match s.msc.update with
  | none => 0
  | some u =>
    let c := u.man.component.toNat
    match u.who with
    | .cp n _ _ _ _ => pack [(31, 1), (27, c % 8), (0, n)]
    | .ring i _ => pack [(31, 1), (30, 1), (27, c % 8), (0, i)]

/-- MSC_UNIT_STATE (R408). -/
def unitWord (s : State) : Word :=
  BitVec.ofNat 32 ((List.range 32).foldl (fun a n =>
    let on := (decide (2 ≤ n ∧ n ≤ 6) && s.msc.units.contains (n, 0)) || (decide (12 ≤ n ∧ n ≤ 15) && s.msc.units.contains (11, n - 12))
      || (decide (18 ≤ n ∧ n ≤ 22) && s.msc.units.contains (n - 16, 1))
    a + bool on * 2 ^ n) 0)

/-- Die faults of a die in the last 16 epochs (R403, R408). -/
def recentDieFaults (s : State) (die : Nat) : Nat :=
  (s.msc.dieFaults.filter (fun f => decide (f.1 = die) && decide (s.seq.epoch < f.2 + 16))).length

/-- Block 15 (R408, R432, R441). -/
def readMsc (s : State) (o : Nat) : Word :=
  let m := s.msc
  match o with
  | 0x0000 => pack [(24, 0x57), (12, 0x512), (8, 1), (0, Config.boardRevision.toNat)]
  | 0x0004 => pack [(31, bool m.ledOverride), (28, m.ledPattern.toNat), (24, ledShown s)]
  | 0x0008 => s.ev.msc
  | 0x000C => Config.silicon
  | 0x0010 => pack [(4, m.strapSlot.toNat), (1, bool m.strapPcieOff), (0, bool m.strapMaster)]
  | 0x0100 => pack [(28, modeCode m.mode), (24, modeCode m.prev), (0, sat 0xFFFFFF ((now s - m.modeAt) / 1000000000))]
  | 0x0108 => pack [(28, m.rcType), (24, m.rcSource), (20, m.rcBlock), (19, bool m.rcHalf1), (18, bool m.rcHalf0), (0, sat 0xFFFF m.rcCount)]
  | 0x010C => unitWord s
  | 0x0110 => pack [(24, sat 255 (recentDieFaults s 1)), (16, sat 255 (recentDieFaults s 0)), (8, sat 255 m.refault1), (0, sat 255 m.refault0)]
  | 0x0114 => pack [(24, sat 255 (m.wdTimes.filter (fun t => decide (now s < t + 60000000000))).length), (16, sat 255 m.wdTotal),
      (0, sat 0xFFFF m.wdLongest)]
  | 0x0200 => updateWord s
  | 0x0234 => BitVec.ofNat 32 m.journalHead
  | 0x0238 => BitVec.ofNat 32 (m.journalHead / 2 ^ 32)
  | 0x023C => pack [(24, m.ledgerSlot), (23, bool (!m.ownerKey.isEmpty)), (16, sat 64 (m.hostKeys.filter (fun k => decide (k.role ≠ 0))).length), (0, bool m.identityOk)]
  | 0x0240 => pack [(29, m.rcvState.toNat), (0, m.rcvStatus.toNat)]
  | _ =>
    match indexOf 0x0204 4 4 o, indexOf 0x0214 4 8 o, indexOf 0x0280 4 6 o, indexOf 0x02C0 4 6 o, indexOf 0x10000 4 786 o with
    | some n, _, _, _, _ => BitVec.ofNat 32 (field deviceBytes (4 * n) 4)
    | _, some n, _, _, _ => if m.booted then BitVec.ofNat 32 (field m.chain (4 * n) 4) else 0
    | _, _, some c, _, _ =>
      let f := fwOf s c
      pack [(31, bool (f.active && decide (c ≠ 5))), (30, bool f.aValid), (29, bool f.bValid), (28, bool f.pending.isSome),
        (27, bool f.trial.isSome), (26, bool f.editionWait), (0, f.counter.toNat % 65536)]
    | _, _, _, some c, _ =>
      if c = 5 then BitVec.ofNat 32 ((m.configSeqs.map (fun q => q.2)).foldl max 0)
      else (fwOf s c).version.getD (fwIndex (fwOf s c).active) 0
    | _, _, _, _, some j => BitVec.ofNat 32 (field certificate (4 * j) 4)
    | _, _, _, _, _ => 0

/-! ### The map (R433, R436) -/

/-- The word at BAR0 offset `off`: block and offset in it; a reserved word reads 0. -/
def readWord (s : State) (off : Nat) : Word :=
  let o := off % 0x100000
  match off / 0x100000 with
  | 0 => readPma s o | 1 => readCls s o | 2 => readTdw s o | 3 => readPsr s o | 4 => readSqu s o | 5 => readLge s o
  | 6 => readXl s o | 7 => readSeq s o | 8 => readTsl s o | 9 => readHms s o | 10 => readLms s o | 11 => readOle s o
  | 12 => readHif s o | 13 => readCal s o | 14 => readTps s o | 15 => readMsc s o | _ => 0

/-- The high words that a read of a low word latches (R390, R438). -/
def latchedBy (off : Nat) : List Nat :=
  match off with
  | 0x300010 => [0x300014] | 0x50000C => [0x500010] | 0x700014 => [0x700018] | 0x700028 => [0x70002C] | 0x800010 => [0x800014]
  | 0x900014 => [0x900018] | 0xA00014 => [0xA00018] | 0xB0002C => [0xB00030] | 0xD0002C => [0xD00030]
  | 0xE0011C => [0xE00120, 0xE00124] | 0xF00234 => [0xF00238]
  | _ => []

/-- What source `src` (0 BAR0, n session n) reads at `off`: its latch of a high word, else the live value (R438). -/
def readAs (s : State) (src off : Nat) : Word :=
  match s.hif.latches.find? (fun l => decide (l.1 = src) && decide (l.2.1 = off)) with
  | some l => l.2.2
  | none => readWord s off

/-- What a read does beside its answer: the latches of a low word, and the capture of SQU_SCALE_DATA0 (R135, R438). -/
def readEffect (src off : Nat) (s : State) : State :=
  let hs := latchedBy off
  let new := hs.map (fun h => (src, h, readWord s h))
  let s' := { s with hif := { s.hif with
    latches := new ++ s.hif.latches.filter (fun l => !(decide (l.1 = src) && hs.contains l.2.1)) } }
  if off = 0x400024 then { s' with squ := { s'.squ with capture := scaleWords s } } else s'

end Sys2Proof.Machine
end

