-- ==== Sys2Proof/Machine/RegWrite.lean ====
section
/-! DEFINITION. What a write to every register of the map does (R9 to R12, R437, R444 and the register tables of each chapter). -/

namespace Sys2Proof.Machine

/-- A write held an invalid encoding (R11, R437): no field changes. -/
def invalidWrite (c : Src) (s : State) : State := raise c (invalidBit c) {} s

/-- A write of 1s to an event-status register (R9, R12, R444): bits that hardware sets in the same clock, `hw`, stay set, and a source
left pending sends its vector. -/
def clearEvents (c : Src) (w hw : Word) (s : State) : State :=
  irqIfPending c { s with ev := s.ev.write c (s.ev.read c &&& ~~~(w &&& ~~~hw)) }

/-! ### Blocks 0 to 6 -/

/-- PMA_MAP_REQ (R75, R76). -/
def writeMapReq (w : Word) (s : State) : State :=
  let action := bits w 12 10
  if 1 < action then invalidWrite .pma s
  else if bit w 31 then mapRequest (action == 1) (bits w 9 0) s
  else s

/-- CLS_CTRL (R302, R304). -/
def writeClsCtrl (w : Word) (s : State) : State :=
  if 55 < bits w 5 0 then invalidWrite .cls s
  else
    let s := if bit w 30 then { s with cls := { s.cls with hold := 0, last := {} } } else s
    if bit w 31 then takeoverRequest (bits w 5 0) s else s

/-- TDW_CTRL (R47, R77). -/
def writeTdwCtrl (w : Word) (s : State) : State :=
  let t := { s.tdw with deglitchNext := bit w 8 }
  { s with tdw := if bit w 0 then { t with refreshMax := 0, errCount := 0 } else t }

/-- SQU_CTRL, LGE_CTRL and XL_CTRL (R135, R160, R161, R467): the registers only, not the counts being gathered. -/
def writeSquCtrl (w : Word) (s : State) : State := if bit w 0 then { s with squ := { s.squ with shown := {}, last := {} } } else s
def writeLgeCtrl (w : Word) (s : State) : State := if bit w 0 then { s with lge := { s.lge with shown := {} } } else s
def writeXlCtrl (w : Word) (s : State) : State := if bit w 0 then { s with xl := { s.xl with shown := {}, last := {} } } else s

/-! ### Blocks 7 to 11 -/

/-- SEQ_CTRL (R180, R192). -/
def writeSeqCtrl (w : Word) (s : State) : State :=
  let r := BitVec.ofNat 14 (bits w 29 16)
  let q := { s.seq with dumpRing := r }
  let q := if bit w 31 then { q with dumpTo := some r.toNat } else q
  { s with seq := if bit w 0 then { q with overruns := 0, lapses := 0 } else q }

/-- TSL_EPOCH_LEN (R181, R193): with no graph resident the new length takes effect at its first multiple after the write. -/
def writeEpochLen (w : Word) (s : State) : State :=
  let n := bits w 7 0
  if n < 5 ∨ 200 < n then invalidWrite .tsl s
  else if !s.seq.graphs.isEmpty then raise .tsl 0 {} s
  else
    let l := n * 50000
    { s with
      tsl := { s.tsl with lenNext := BitVec.ofNat 8 n, lenAt := (now s / l + 1) * l } }

/-- A resident graph binds lane `n` (R193). -/
def laneBound (s : State) (n : Nat) : Bool := s.seq.graphs.any (fun g => g.tasks.any (fun t => decide (t.lane.toNat = n)))

/-- Register `k` of lane `n` (R193); TSL_LANE_STATE is read only. An invalid encoding is found before the refusal of a lane in use (log 55). -/
def writeLane (n k : Nat) (w : Word) (s : State) : State :=
  if 6 ≤ k then s
  else if k = 0 ∧ bit w 31 ∧ (laneAt s n).units = 0 then invalidWrite .tsl s
  else if laneBound s n then raise .tsl 4 {} s
  else modLane n (fun l =>
    match k with
    | 0 => { l with en := bit w 31, dir := bit w 30, dropLate := bit w 29, priority := BitVec.ofNat 3 (bits w 28 26)
                    unitBytes := BitVec.ofNat 24 (bits w 23 0) }
    | 1 => { l with baseLo := w }
    | 2 => { l with baseHi := w }
    | 3 => { l with units := BitVec.ofNat 16 (bits w 15 0) }
    | 4 => { l with delay := w }
    | _ => { l with period := w }) s

/-- HMS_CTRL and LMS_CTRL (R234, R235, R467). -/
def writeHmsCtrl (w : Word) (s : State) : State :=
  if bit w 0 then
    { s with hms := { s.hms with retriesShown := 0, persistShown := 0, stgShown := 0, lastErr := none
                                 hbm := s.hms.hbm.map (fun k => { k with shown := 0 }) } }
  else s
def writeLmsCtrl (w : Word) (s : State) : State :=
  if bit w 0 then { s with lms := { s.lms with retriesShown := 0, persistShown := 0, lastErr := none } } else s

/-- OLE_TRAIN_GO and LINK_TRAIN (R243, R263). -/
def trainRequest (mask : BitVec 4) (s : State) : State := if groupBusy s then raise .ole 8 {} s else trainPorts mask s

/-- OLE_CTRL (R263). -/
def writeOleCtrl (w : Word) (s : State) : State :=
  let mask := BitVec.ofNat 4 (bits w 27 24)
  let o := { s.ole with trainPorts := mask }
  let o := if bit w 0 then { o with shown := {}, lastHold := {}, lanes := o.lanes.map (fun l => { l with failsShown := 0 }) } else o
  let s := { s with ole := o }
  if bit w 31 then trainRequest mask s else s

/-- A group of `n` modules with this one at `i` (R242): a valid write takes effect and trains the ports (R243). -/
def writeGroup (id : BitVec 16) (n i : Nat) (s : State) : State :=
  if n = 0 ∨ 16 < n ∨ n ≤ i then invalidWrite .ole s
  else if groupBusy s then raise .ole 8 {} s
  else trainPorts 0xF { s with ole := { s.ole with groupId := id, size := BitVec.ofNat 5 n, index := BitVec.ofNat 4 i } }

/-- A switch setting is symmetric (R245). -/
def switchValid (sw : BitVec 12) : Bool :=
  (List.range 4).all (fun p => match switchPort sw p with | some q => q != p && switchPort sw q == some p | none => true)

/-- Register `k` of the rest setting (R246, R249): 0 the switch, 1 to 4 the lane map. -/
def writeRest (k : Nat) (w : Word) (s : State) : State :=
  if k = 0 then
    let sw := BitVec.ofNat 12 (bits w 11 0)
    if !switchValid sw then invalidWrite .ole s
    else if groupBusy s then raise .ole 8 {} s
    else restWritten { s with ole := { s.ole with restSwitch := sw } }
  else if (List.range 8).any (fun j => let v := bits w (4 * j + 3) (4 * j); decide (4 ≤ v) && decide (v ≠ 15)) then invalidWrite .ole s
  else if groupBusy s then raise .ole 8 {} s
  else restWritten { s with ole := { s.ole with restLanes := update s.ole.restLanes (k - 1) (fun _ => w) } }

/-! ### Block 12 -/

/-- The IMM gate is open in one of the first `n` entries (R314). -/
def gateOpens (s : State) (n : Nat) : Bool := (s.cp.qbv.take n).any (fun e => e.imm)

/-- HIF_QBV_CTRL (R314, R328): while the list is enabled only a write that disables it is taken. -/
def writeQbvCtrl (w : Word) (s : State) : State :=
  let en := bit w 31
  let n := bits w 6 0
  if n = 0 ∨ 64 < n ∨ (en ∧ (!gateOpens s n ∨ (s.cp.qbv.take n).any (fun e => decide (e.interval = 0)))) then invalidWrite .cp s
  else if s.cp.qbvEn ∧ en then raise .cp 3 {} s
  else { s with cp := { s.cp with qbvEn := en, qbvCount := BitVec.ofNat 7 n, gateInForce := s.cp.gateInForce && en } }

/-- A write to another register of the gate list (R314). -/
def writeQbv (r : QbvReg) (w : Word) (s : State) : State :=
  match r with
  | .ctrl => writeQbvCtrl w s
  | .baseLo => if s.cp.qbvEn then raise .cp 3 {} s else { s with cp := { s.cp with qbvBaseLo := w } }
  | .baseHi => if s.cp.qbvEn then raise .cp 3 {} s else { s with cp := { s.cp with qbvBaseHi := w } }
  | .cycle =>
    if w.toNat < 1000 ∨ 1000000000 < w.toNat then invalidWrite .cp s
    else if s.cp.qbvEn then raise .cp 3 {} s
    else { s with cp := { s.cp with qbvCycle := w } }
  | .entry i =>
    if bits w 23 0 = 0 ∧ i.val < s.cp.qbvCount.toNat then invalidWrite .cp s
    else if s.cp.qbvEn then raise .cp 3 {} s
    else { s with cp := { s.cp with
      qbv := update s.cp.qbv i.val (fun _ => { imm := bit w 31, other := bit w 30, interval := BitVec.ofNat 24 (bits w 23 0) }) } }

/-- HIF_CP_CTRL (R328). -/
def writeCpCtrl (w : Word) (s : State) : State :=
  let c := { s.cp with tagTx := bit w 30, pcpImm := BitVec.ofNat 3 (bits w 29 27), pcpOther := BitVec.ofNat 3 (bits w 26 24)
                       vid := BitVec.ofNat 12 (bits w 11 0) }
  { s with cp := if bit w 31 then { c with dropped := 0, authFails := 0, evDropped := 0 } else c }

/-- Every source found pending sends its vector (R444). -/
def sendPending (s : State) : State := each (List.range 17) (fun n s => irqIfPending (srcOf n) s) s

/-- An interrupt register (R443, R444): HIF_IRQ_EN of a source, or HIF_IRQ_CTRL. -/
def writeIrq (src : Option Nat) (w : Word) (s : State) : State :=
  match src with
  | some n => irqIfPending (srcOf n) { s with hif := { s.hif with irqEn := update s.hif.irqEn n (fun _ => w) } }
  | none => sendPending { s with hif := { s.hif with irqGlobal := bit w 31 } }

/-- HIF_TELEM_CFG (R353): a period of 0 is not listed. -/
def writeTelemCfg (w : Word) (s : State) : State :=
  if bits w 30 24 = 0 then invalidWrite .hif s
  else { s with hif := { s.hif with tcEn := bit w 31, tcPeriod := BitVec.ofNat 7 (bits w 30 24), tcRing := BitVec.ofNat 14 (bits w 13 0) } }

/-- Register `k` of ring `i`: the configuration, the others that are written, or a read-only one. -/
def writeRing (i k : Nat) (w : Word) (s : State) : State :=
  if k = 0 then writeRingCfg i w s else if k ≤ 4 then writeRingReg i k w s else s

/-- Block 12 (R328, R353, R443). -/
def writeHif (o : Nat) (w hw : Word) (s : State) : State :=
  if 0x10000 ≤ o ∧ o < 0x10000 + 32 * 16384 then (if o % 4 = 0 then writeRing ((o - 0x10000) / 32) (o % 32 / 4) w s else s)
  else if 0xA0000 ≤ o ∧ o < 0xA0000 + 4 * 16384 then (if o % 4 = 0 then doorbell ((o - 0xA0000) / 4) w s else s)
  else if o = 0x0004 then (if bit w 0 then { s with hif := { s.hif with eventsLost := 0 } } else s)
  else if o = 0x0008 then clearEvents .hif w hw s
  else if o = 0x000C then { s with hif := { s.hif with evRingEn := bit w 31, evRing := BitVec.ofNat 14 (bits w 13 0) } }
  else if o = 0x0010 then writeTelemCfg w s
  else if o = 0x0100 then writeCpCtrl w s
  else if o = 0x0104 then clearEvents .cp w hw s
  else if o = 0x0124 then writeQbv .ctrl w s
  else if o = 0x0128 then writeQbv .baseLo w s
  else if o = 0x012C then writeQbv .baseHi w s
  else if o = 0x0130 then writeQbv .cycle w s
  else if o = 0x0804 then writeIrq none w s
  else match indexOf 0x0200 4 64 o, indexOf 0x0300 4 16 o, indexOf 0x0880 4 17 o, indexOf 0x0900 4 17 o with
    | some i, _, _, _ => writeQbv (.entry (Fin.ofNat 64 i)) w s
    | _, some n, _, _ =>
      { s with hif := { s.hif with aper := update s.hif.aper n (fun _ => (bit w 31, BitVec.ofNat 14 (bits w 13 0))) } }
    | _, _, some n, _ => writeIrq (some n) w s
    | _, _, _, some n => { s with hif := { s.hif with irqVec := update s.hif.irqVec n (fun _ => BitVec.ofNat 6 (bits w 5 0)) } }
    | _, _, _, _ =>
      if 0x0400 ≤ o ∧ o < 0x0800 ∧ o % 4 = 0 ∧ o % 16 < 12 then writeWindow ((o - 0x0400) / 16) (o % 16 / 4) w s else s

/-! ### Blocks 13 to 15 -/

/-- CAL_CTRL (R284, R288): a step code of 0, the field's reset value, asks for nothing; with CAL_SYSCAL_GO it is no step (log 46). -/
def writeCalCtrl (w : Word) (o : SysObs) (s : State) : State :=
  let step := bits w 30 28
  if 4 < step ∨ (step = 0 ∧ bit w 31) then invalidWrite .cal s
  else
    let c := { s.cal with step := BitVec.ofNat 3 step, selfTrimNext := bit w 7, urgentEn := bit w 6 }
    let c := if bit w 0 then { c with startFails := 0, stalls := c.stalls.map (fun x => { x with readings := 0 }) } else c
    let s := { s with cal := c }
    if bit w 31 then (sysStep none step o s).2 else s

/-- TPS_CTRL (R363, R370). -/
def writeTpsCtrl (w : Word) (s : State) : State :=
  let s := if bit w 31 then { s with tps := { s.tps with skipped := 0, frosts := 0 } } else s
  withLevel (fun s => { s with tps := { s.tps with floor := BitVec.ofNat 2 (bits w 1 0) } }) s

/-- MSC_CTRL (R441, R442). -/
def writeMscCtrl (w : Word) (s : State) : State :=
  if 4 < bits w 30 28 then invalidWrite .msc s
  else { s with msc := { s.msc with ledOverride := bit w 31, ledPattern := BitVec.ofNat 3 (bits w 30 28) } }

/-- MSC_STATE_CTRL (R393, R408). -/
def writeStateCtrl (w : Word) (s : State) : State :=
  if bits w 30 28 ≠ 1 then invalidWrite .msc s else if bit w 31 then dormantRequest s else s

/-! ### The map -/

/-- Block 13. -/
def writeCal (o : Nat) (w hw : Word) (obs : SysObs) (s : State) : State :=
  if o = 0x0004 then writeCalCtrl w obs s
  else if o = 0x0008 then clearEvents .cal w hw s
  else if o = 0x0018 then { s with cal := { s.cal with power := w } }
  else if o = 0x0034 then { s with cal := { s.cal with selMean := bit w 11, selInput := BitVec.ofNat 11 (bits w 10 0) } }
  else match indexOf 0x001C 4 4 o with
    | some j => { s with cal := { s.cal with refId := update s.cal.refId j (fun _ => w) } }
    | none => s

/-- Block 8. -/
def writeTsl (o : Nat) (w hw : Word) (s : State) : State :=
  if o = 0x0004 then writeEpochLen w s
  else if o = 0x0008 then clearEvents .tsl w hw s
  else if 0x1000 ≤ o ∧ o < 0x1000 + 32 * 48 ∧ o % 4 = 0 then writeLane ((o - 0x1000) / 32) (o % 32 / 4) w s
  else s

/-- Block 11. -/
def writeOle (o : Nat) (w hw : Word) (s : State) : State :=
  match o with
  | 0x0004 => writeOleCtrl w s
  | 0x0008 => clearEvents .ole w hw s
  | 0x000C => writeGroup (BitVec.ofNat 16 (bits w 31 16)) (bits w 4 0) (bits w 11 8) s
  | 0x0018 => writeRest 0 w s
  | 0x001C => writeRest 1 w s
  | 0x0020 => writeRest 2 w s
  | 0x0024 => writeRest 3 w s
  | 0x0028 => writeRest 4 w s
  | _ => s

/-- Word `w` written at BAR0 offset `off` (R433, R436, R437): a reserved or read-only word ignores it. `obs` is what a system calibration
step that it starts meets. -/
def writeWordObs (off : Nat) (w hw : Word) (obs : SysObs) (s : State) : State :=
  let o := off % 0x100000
  match off / 0x100000 with
  | 0 => if o = 0x0008 then clearEvents .pma w hw s else if o = 0x000C then writeMapReq w s else s
  | 1 => if o = 0x0004 then writeClsCtrl w s else if o = 0x0008 then clearEvents .cls w hw s else s
  | 2 => if o = 0x0000 then writeTdwCtrl w s else if o = 0x0004 then clearEvents .tdw w hw s else s
  | 3 => if o = 0x0004 then { s with psr := { s.psr with optEnNext := bit w 0 } } else if o = 0x0008 then clearEvents .psr w hw s else s
  | 4 =>
    if o = 0x0004 then writeSquCtrl w s else if o = 0x0008 then clearEvents .squ w hw s
    else if o = 0x0020 then { s with squ := { s.squ with selDie := bit w 31, selIndex := BitVec.ofNat 13 (bits w 12 0) } } else s
  | 5 => if o = 0x0004 then writeLgeCtrl w s else if o = 0x0008 then clearEvents .lge w hw s else s
  | 6 => if o = 0x0004 then writeXlCtrl w s else if o = 0x0008 then clearEvents .xl w hw s else s
  | 7 => if o = 0x0004 then writeSeqCtrl w s else if o = 0x0008 then clearEvents .seq w hw s else s
  | 8 => writeTsl o w hw s
  | 9 => if o = 0x0004 then writeHmsCtrl w s else if o = 0x0008 then clearEvents .hms w hw s else s
  | 10 => if o = 0x0004 then writeLmsCtrl w s else if o = 0x0008 then clearEvents .lms w hw s else s
  | 11 => writeOle o w hw s
  | 12 => writeHif o w hw s
  | 13 => writeCal o w hw obs s
  | 14 =>
    if o = 0x0004 then writeTpsCtrl w s else if o = 0x0008 then clearEvents .tps w hw s
    else if o = 0x0100 then
      (if bit w 31 then { s with tps := { s.tps with pkExc := 0, pkP100 := 0, excCount := 0 } } else s)
    else s
  | 15 =>
    if o = 0x0004 then writeMscCtrl w s else if o = 0x0008 then clearEvents .msc w hw s
    else if o = 0x0104 then writeStateCtrl w s else s
  | _ => s

/-- Word `w` written at BAR0 offset `off`. -/
def writeWord (off : Nat) (w : Word) (s : State) : State := writeWordObs off w 0 {} s

end Sys2Proof.Machine
end

