-- ==== Sys2Proof/Machine/Regs.lean ====
section
/-! DEFINITION. Register accesses by their paths, the rows of the table that are register accesses, and the BAR2 aperture
(R217, R333, R344, R345, R430, R433 to R440). -/

namespace Sys2Proof.Machine

/-! ### Paths -/

/-- What becomes of an access as it arrives. -/
inductive Gate where
  | take | wait | unsupported | denied | drop
deriving DecidableEq, Repr

/-- The module's state lets BAR0 reach block `b` (R433). -/
def reachable (m : Mode) (b : Nat) : Bool :=
  match m with
  | .off => false
  | .idle => true
  | .active => true
  | .recovery => b == 12 || b == 14 || b == 15
  | .dormant => 8 ≤ b && b != 13
  | _ => 8 ≤ b && b != 9 && b != 13

/-- Block `b` is in a reset under way that leaves it addressed: a subsystem reset (R399, R440), or a warm reset that covers it (R397). -/
def blockInReset (s : State) (b : Nat) : Bool :=
  match s.msc.resetting with
  | some (.reset (.subsystem k) _) => if k = 0 ∨ k = 2 then b == 0 || b == 2 else b == k
  | some (.reset .warm _) => b ≤ 7 || b == 9 || b == 10 || b == 11 || b == 13
  | _ => false

/-- A write that the mask ROM takes in RECOVERY (R430, R433): the ring-0 doorbell, and the registers of window 0, which R430 has the host
enable there (log 45). -/
def recoveryWrite (off : Nat) : Bool := off == 0xCA0000 || off == 0xC00400 || off == 0xC00404 || off == 0xC00408

/-- What becomes of an access at BAR0 offset `off` (R345, R433 to R435, R440): over BAR0, unless the bulk port is strapped off (log 17), or by REG_READ or REG_WRITE
of an open session whose role permits it, in IDLE and ACTIVE (R324). -/
def gateOf (s : State) (p : Path) (off : Nat) (write : Bool) : Gate :=
  let b := off / 0x100000
  match p with
  | .bar0 be =>
    if s.msc.mode = .off ∨ s.msc.strapPcieOff then .drop
    else if s.msc.mode = .recovery ∧ write then (if recoveryWrite off ∧ be = 0xF then .take else .drop)
    else if write ∧ b = 15 then .denied
    else if !reachable s.msc.mode b ∨ (write ∧ be ≠ 0xF) then .unsupported
    else if blockInReset s b then .wait
    else .take
  | .cp n =>
    let x := sessionAt s (n.val + 1)
    let need := if write then (if b = 15 then 3 else 2) else 1
    if x.state ≠ .isOpen ∨ x.role.toNat < need ∨ s.msc.running = false ∨ (s.msc.mode ≠ .idle ∧ s.msc.mode ≠ .active) then .drop
    else if blockInReset s b then .wait
    else .take

/-- The source number of a path (R438). -/
def pathSource : Path → Nat
  | .bar0 _ => 0
  | .cp n => n.val + 1

/-- An Unsupported Request (R345). -/
def unsupported (s : State) : State := raise .hif 0 {} (emit .ur s)

/-- An access carried out: a read over BAR0 answers with its data. -/
def performAccess (a : Path × Nat × Option Word) (s : State) : State :=
  match a.2.2 with
  | some w =>
    if s.msc.mode = .recovery ∧ a.2.1 = 0xCA0000 then
      -- the start of an install (R430)
      if w = 1 ∧ (s.msc.rcvState = 0 ∨ s.msc.rcvState = 5) then { s with msc := { s.msc with rcvState := 1, rcvAt := now s } } else s
    else writeWord a.2.1 w s
  | none =>
    let src := pathSource a.1
    let v := readAs s src a.2.1
    let s := readEffect src a.2.1 s
    match a.1 with
    | .bar0 _ => emit (.data (le 4 v.toNat)) s
    | .cp _ => s

/-- An access that passes or does not pass its gate. -/
def access (p : Path) (off : Nat) (v : Option Word) (s : State) : State :=
  match gateOf s p off v.isSome with
  | .take => performAccess (p, off, v) s
  | .wait => { s with msc := { s.msc with accesses := s.msc.accesses ++ [(p, off, v)] } }
  | .unsupported => unsupported s
  | .denied => raise .hif 1 {} s
  | .drop => s

/-- A write of `w` at `off` over path `p`. -/
def pathWrite (p : Path) (off : Nat) (w : Word) (s : State) : State := access p off (some w) s

/-- The accesses that waited for a reset are carried out in their order (R440). -/
def runAccesses (s : State) : State :=
  let as_ := s.msc.accesses
  each as_ performAccess { s with msc := { s.msc with accesses := [] } }

/-! ### CLR_STATS rows -/

/-- TDW_CLR_STATS (R77). -/
def execTdwClrStats (p : Path) (w : Word) (s : State) : Out := .next (pathWrite p 0x200000 (w ||| 1) s)

/-- SQU_CLR_STATS (R135). -/
def execSquClrStats (p : Path) (w : Word) (s : State) : Out := .next (pathWrite p 0x400004 (w ||| 1) s)

/-- LGE_CLR_STATS (R160). -/
def execLgeClrStats (p : Path) (w : Word) (s : State) : Out := .next (pathWrite p 0x500004 (w ||| 1) s)

/-- XL_CLR_STATS (R161). -/
def execXlClrStats (p : Path) (w : Word) (s : State) : Out := .next (pathWrite p 0x600004 (w ||| 1) s)

/-- SEQ_CLR_STATS (R192). -/
def execSeqClrStats (p : Path) (w : Word) (s : State) : Out := .next (pathWrite p 0x700004 (w ||| 1) s)

/-- HMS_CLR_STATS (R234). -/
def execHmsClrStats (p : Path) (w : Word) (s : State) : Out := .next (pathWrite p 0x900004 (w ||| 1) s)

/-- LMS_CLR_STATS (R235). -/
def execLmsClrStats (p : Path) (w : Word) (s : State) : Out := .next (pathWrite p 0xA00004 (w ||| 1) s)

/-- OLE_CLR_STATS (R263). -/
def execOleClrStats (p : Path) (w : Word) (s : State) : Out := .next (pathWrite p 0xB00004 (w ||| 1) s)

/-- CAL_CLR_STATS (R288). -/
def execCalClrStats (p : Path) (w : Word) (s : State) : Out := .next (pathWrite p 0xD00004 (w ||| 1) s)

/-- CLS_CLR_STATS (R304). -/
def execClsClrStats (p : Path) (w : Word) (s : State) : Out := .next (pathWrite p 0x100004 (w ||| 0x40000000) s)

/-- HIF_CP_CLR_STATS (R328). -/
def execHifCpClrStats (p : Path) (w : Word) (s : State) : Out := .next (pathWrite p 0xC00100 (w ||| 0x80000000) s)

/-- HIF_CLR_STATS (R353). -/
def execHifClrStats (p : Path) (w : Word) (s : State) : Out := .next (pathWrite p 0xC00004 (w ||| 1) s)

/-- TPS_CLR_STATS (R370). -/
def execTpsClrStats (p : Path) (w : Word) (s : State) : Out := .next (pathWrite p 0xE00004 (w ||| 0x80000000) s)

/-- TPS_PWR_CLR_STATS (R390). -/
def execTpsPwrClrStats (p : Path) (w : Word) (s : State) : Out := .next (pathWrite p 0xE00100 (w ||| 0x80000000) s)

/-! ### Requests and settings -/

/-- PMA_MAP_REQ_PROBE (R75, R76). -/
def execPmaMapReqProbe (p : Path) (phys : BitVec 10) (s : State) : Out :=
  .next (pathWrite p 0x00000C (pack [(31, 1), (0, phys.toNat)]) s)

/-- PMA_MAP_REQ_MAP_OUT (R75, R76). -/
def execPmaMapReqMapOut (p : Path) (phys : BitVec 10) (s : State) : Out :=
  .next (pathWrite p 0x00000C (pack [(31, 1), (10, 1), (0, phys.toNat)]) s)

/-- TSL_EPOCH_LEN_WRITE (R181). -/
def execTslEpochLenWrite (p : Path) (w : Word) (s : State) : Out := .next (pathWrite p 0x800004 w s)

/-- TSL_LANE_WRITE (R193). -/
def execTslLaneWrite (p : Path) (lane : Fin 48) (reg : Fin 7) (w : Word) (s : State) : Out :=
  .next (pathWrite p (0x801000 + 32 * lane.val + 4 * reg.val) w s)

/-- OLE_REST_WRITE (R246): register 0 OLE_REST_SWITCH, 1 to 4 OLE_REST_LANES0 to 3. -/
def execOleRestWrite (p : Path) (reg : Fin 5) (w : Word) (s : State) : Out := .next (pathWrite p (0xB00018 + 4 * reg.val) w s)

/-- CLS_TAKEOVER_GO (R302). -/
def execClsTakeoverGo (p : Path) (w : Word) (s : State) : Out := .next (pathWrite p 0x100004 (w ||| 0x80000000) s)

/-- HIF_RING_ENABLE (R334). -/
def execHifRingEnable (p : Path) (ring : BitVec 14) (w : Word) (s : State) : Out :=
  .next (pathWrite p (0xC10000 + 32 * ring.toNat) (w ||| 0x80000000) s)

/-- HIF_RING_DISABLE (R334). -/
def execHifRingDisable (p : Path) (ring : BitVec 14) (w : Word) (s : State) : Out :=
  .next (pathWrite p (0xC10000 + 32 * ring.toNat) (w &&& 0x7FFFFFFF) s)

/-- HIF_DOORBELL (R333, R430): BAR4's page is reached as BAR0's. -/
def execHifDoorbell (p : DbPath) (ring : BitVec 14) (v : Word) (s : State) : Out :=
  let off := 0xCA0000 + 4 * ring.toNat
  match p with
  | .bar4 => .next (pathWrite (.bar0 0xF) off v s)
  | .page q => .next (pathWrite q off v s)

/-- HIF_WINDOW_WRITE (R346): register 0 HIF_WIN_CFG, 1 and 2 the host address. -/
def execHifWindowWrite (p : Path) (win : BitVec 6) (reg : Fin 3) (w : Word) (s : State) : Out :=
  .next (pathWrite p (0xC00400 + 16 * win.toNat + 4 * reg.val) w s)

/-- Offset of a gate-list register (R328). -/
def qbvOffset : QbvReg → Nat
  | .ctrl => 0xC00124 | .baseLo => 0xC00128 | .baseHi => 0xC0012C | .cycle => 0xC00130 | .entry i => 0xC00200 + 4 * i.val

/-- HIF_QBV_WRITE (R314). -/
def execHifQbvWrite (p : Path) (reg : QbvReg) (w : Word) (s : State) : Out := .next (pathWrite p (qbvOffset reg) w s)

/-- HIF_IRQ_WRITE (R443, R444): HIF_IRQ_EN of a source, or HIF_IRQ_CTRL. -/
def execHifIrqWrite (p : Path) (src : Option (Fin 17)) (w : Word) (s : State) : Out :=
  match src with
  | some n => .next (pathWrite p (0xC00880 + 4 * n.val) w s)
  | none => .next (pathWrite p 0xC00804 w s)

/-- TPS_FLOOR_WRITE (R363). -/
def execTpsFloorWrite (p : Path) (w : Word) (s : State) : Out := .next (pathWrite p 0xE00004 w s)

/-- MSC_DORMANT_REQUEST (R393): MSC_SC_GO with MSC_SC_REQ 0b001. -/
def execMscDormantRequest (p : Path) (w : Word) (s : State) : Out := .next (pathWrite p 0xF00104 ((w &&& 0x0FFFFFFF) ||| 0x90000000) s)

/-- PLAIN_REGISTER_WRITE (R437). -/
def execPlainRegisterWrite (p : Path) (off : BitVec 24) (w : Word) (s : State) : Out := .next (pathWrite p (off.toNat / 4 * 4) w s)

/-- Offset of the event-status register of source `n` (R443). -/
def eventOffset (n : Nat) : Nat :=
  if n = 16 then 0xC00104 else if n = 2 then 0x200004 else 0x100000 * n + 8

/-- W1C_CLEAR (R9, R12, R444): `hw` are the bits that hardware sets in the same clock. -/
def execW1cClear (p : Path) (src : Fin 17) (w hw : Word) (s : State) : Out :=
  let off := eventOffset src.val
  match gateOf s p off true with
  | .take => .next (writeWordObs off w hw {} s)
  | _ => .next (pathWrite p off w s)

/-! ### Reads -/

/-- SCALE_DATA_READ (R135): a read of SQU_SCALE_DATA0. -/
def execScaleDataRead (p : Path) (s : State) : Out := .next (access p 0x400024 none s)

/-- LATCHED_LOW_READ (R438): a read of one word. -/
def execLatchedLowRead (p : Path) (off : BitVec 24) (s : State) : Out := .next (access p (off.toNat / 4 * 4) none s)

/-! ### Timeouts (R323, R440) -/

/-- REGISTER_ACCESS_TIMEOUT (R323, R440): a block has not answered within 1 ms. A BAR0 read completes with Completer Abort and a write is
discarded; a register read over the control port ends with HW_UNIT_FAULT. -/
def execRegisterAccessTimeout (p : Path) (off : BitVec 24) (write : Bool) (s : State) : Out :=
  let off := off.toNat / 4 * 4
  let waits := s.msc.accesses.filter (fun a => !(decide (a.1 = p) && decide (a.2.1 = off) && a.2.2.isSome == write))
  match p with
  | .bar0 _ =>
    if s.msc.mode = .off ∨ s.msc.strapPcieOff then .next s
    else
      let s := { s with msc := { s.msc with accesses := waits } }
      .next (raise .hif 0 {} (if write then s else emit .ca s))
  | .cp n =>
    if write then .next s
    else
      let s := { s with msc := { s.msc with accesses := waits } }
      let mine (w : Origin × Job) : Bool :=
        match w.1, w.2 with
        | .cp k _ _ _ _, .regRead a c =>
          decide (k = n.val + 1) && decide (a.toNat ≤ regBase + off) && decide (regBase + off < a.toNat + 4 * c.toNat)
        | _, _ => false
      match s.msc.waiting.find? mine with
      | none => .next s
      | some w =>
        let s := { s with msc := { s.msc with waiting := s.msc.waiting.erase w } }
        .next (complete w.1 (Status.hwUnitFault, 0, []) s)

/-! ### The aperture (R26, R222, R227, R345) -/

/-- Device address of byte `i` of an aperture access, and whether its segment is valid. -/
def apertureAddr (s : State) (off : Nat) : Option Nat :=
  let a := s.hif.aper.getD (off / 2 ^ 30) (false, 0)
  if a.1 then some (a.2.toNat * 2 ^ 30 + off % 2 ^ 30) else none

/-- A place that an aperture access cannot reach. -/
def apertureBars (p : Place) : Bool := match p with | .device _ => false | .failing => false | _ => true

/-- A BAR2 access can arrive: the module has power and the bulk port is not strapped off (log 17). -/
def apertureOpen (s : State) : Bool := s.msc.mode != .off && !s.msc.strapPcieOff

/-- APERTURE_READ (R345): a read of `len` bytes; a FAILING stack gives a Completer Abort (R227). -/
def execApertureRead (off : BitVec 34) (len : Nat) (s : State) : Out :=
  if !apertureOpen s then .next s
  else match apertureAddr s off.toNat with
    | none => .next (unsupported s)
    | some a =>
      if touches s a len false apertureBars then .next (unsupported s)
      else if touches s a len false (fun p => p == .failing) then .next (emit .ca (raise .hms 6 {} s))
      else .next (emit (.data (readBytes s a len)) s)

/-- APERTURE_WRITE (R26, R345): as a write through a memory window; a FAILING stack discards it (R227). -/
def execApertureWrite (off : BitVec 34) (data : List Byte) (s : State) : Out :=
  if !apertureOpen s then .next s
  else match apertureAddr s off.toNat with
    | none => .next (unsupported s)
    | some a =>
      if touches s a data.length true apertureBars then .next (unsupported s)
      else if touches s a data.length true (fun p => p == .failing) then .next s
      else .next (writeBytes a data s)

end Sys2Proof.Machine
end

