-- ==== Sys2Proof/Machine/Firmware.lean ====
section
/-! DEFINITION. Update sessions, signed records, recovery installs, the journal reads and the attestation report (R409 to R431). -/

namespace Sys2Proof.Machine

/-! ### Keys and manifests (R411 to R413, R418) -/

/-- The public key that an SR_SIGNER value names; no owner key before an owner record is in force, and no Woryomel key that mask ROM does not
know (R411 to R413). -/
def signerKey (s : State) (signer : Nat) : List Byte :=
  match signer with
  | 2 => s.msc.ownerKey
  | 4 => le 1793 (Config.falconPublic recordSeed).toNat
  | k => if keyTrusted k then le 1793 (Config.publicKey k).toNat else []

/-- A signature by the key that `signer` names (R411, R412). -/
def signatureValid (s : State) (signer : Nat) (msg sig : List Byte) : Bool :=
  decide (1 ≤ signer) && decide (signer ≤ 4) && !(signerKey s signer).isEmpty && Config.falconVerify (signerKey s signer) msg sig

/-- The manifest of 1,344 bytes (R418). -/
def manifestOf (b : List Byte) : Manifest :=
  { version := BitVec.ofNat 8 (field b 0 1), component := BitVec.ofNat 8 (field b 1 1), edition := BitVec.ofNat 8 (field b 2 1)
    signer := BitVec.ofNat 8 (field b 3 1), versionNo := BitVec.ofNat 32 (field b 4 4), security := BitVec.ofNat 32 (field b 8 4)
    length := BitVec.ofNat 32 (field b 12 4), digest := fit 32 (b.drop 16), device := fit 16 (b.drop 48)
    signature := fit 1280 (b.drop 64) }

/-- The signed bytes 0 to 63 of a manifest (R418). -/
def manifestBytes (m : Manifest) : List Byte :=
  [m.version, m.component, m.edition, m.signer] ++ le 4 m.versionNo.toNat ++ le 4 m.security.toNat ++ le 4 m.length.toNat
    ++ fit 32 m.digest ++ fit 16 m.device

/-- Bytes of a component's slot, or of a configuration record (R415). -/
def slotSize (c : Nat) : Nat := if c ≤ 2 then 4 * 2 ^ 20 else if c ≤ 4 then 2 * 2 ^ 20 else 64 * 2 ^ 10

/-- The slot that an image goes to (R421, R429): the inactive one; in RECOVERY the slot without a verified image, if only one is verified. -/
def targetSlot (s : State) (c : Nat) : Bool :=
  let f := fwOf s c
  if s.msc.mode = .recovery ∧ f.aValid ≠ f.bValid then f.aValid else !f.active

/-- The target slot as UPDATE_BEGIN and the journal name it: 0xFF for component 5, which has no slot (log 47). -/
def targetByte (s : State) (c : Nat) : Nat := if c = 5 then 0xFF else fwIndex (targetSlot s c)

/-- The first check of R420 that fails: its status and number. In RECOVERY checks 1 to 4 apply, and component 5 is not served (R429). -/
def manifestCheck (s : State) (m : Manifest) : Option (BitVec 16 × Nat) :=
  let c := m.component.toNat
  if m.version ≠ 1 ∨ 5 < c ∨ m.length = 0 ∨ slotSize c < m.length.toNat ∨ (4 ≤ c ∧ m.edition ≠ 0) then some (Status.paramInvalid, 1)
  else if s.msc.mode = .recovery ∧ c = 5 then some (Status.notReady, 0)
  else if (c ≤ 4 ∧ m.signer ≠ 1) ∨ !signatureValid s m.signer.toNat (manifestBytes m) m.signature then some (Status.signatureInvalid, 2)
  else if fit 16 m.device ≠ zeros 16 ∧ fit 16 m.device ≠ deviceBytes then some (Status.paramInvalid, 3)
  else if m.security.toNat < (fwOf s c).counter.toNat then some (Status.rollback, 4)
  else if s.msc.mode ≠ .recovery ∧ ((fwOf s c).pending.isSome ∨ (fwOf s c).trial.isSome) then some (Status.notReady, 5)
  else none

/-- A refusal journaled, by check 2 or 4 (R427); check 4 sets MSC_ROLLBACK_REFUSED (R432). -/
def manifestRefused (m : Manifest) (check : Nat) (s : State) : State :=
  let c := m.component.toNat
  let s := if check = 2 ∨ check = 4 then
      journalFirmware 4 c (targetByte s c) m.versionNo.toNat m.security.toNat m.digest s
    else s
  if check = 4 then raise .msc 22 { status := Status.rollback } s else s

/-! ### The update lock (R419, R420) -/

/-- The same session, or the same submission ring (R420). -/
def sameHolder (a b : Origin) : Bool :=
  match a, b with
  | .cp n _ _ _ _, .cp k _ _ _ _ => n == k
  | .ring i _, .ring j _ => i == j
  | _, _ => false

/-- The command comes from the holder of the lock. -/
def holdsLock (s : State) (who : Origin) : Bool :=
  match s.msc.update with
  | some u => sameHolder u.who who
  | none => false

/-- UPDATE_BEGIN (R419): with the lock free the manifest is held until its arbitration interval ends, and completes then. -/
def updateBegin (who : Origin) (manifest : List Byte) (s : State) : Option Answer × State :=
  if s.msc.update.isSome then (some (Status.updateBusy, 0, []), s)
  else (none, { s with msc := { s.msc with held := s.msc.held ++ [{ who := who, man := manifestOf manifest }] } })

/-- One held manifest is verified: the first that passes takes the lock, and every later one finds it busy (R419, R420). -/
def arbitrate (h : Held) (s : State) : State :=
  if s.msc.update.isSome then complete h.who (Status.updateBusy, 0, []) s
  else match manifestCheck s h.man with
    | some r => complete h.who (r.1, r.2, []) (manifestRefused h.man r.2 s)
    | none =>
      let s := { s with msc := { s.msc with update := some { who := h.who, man := h.man, lastAt := now s } } }
      let c := h.man.component.toNat
      complete h.who (Status.ok, 0, [BitVec.ofNat 8 c, BitVec.ofNat 8 (targetByte s c)]) (raise .msc 16 {} s)

/-- The manifest came over the control port. -/
def fromPort (h : Held) : Bool := match h.who with | .cp .. => true | _ => false

/-- UPDATE_ARBITRATION_END (R419): control port first, then by arrival. -/
def execUpdateArbitrationEnd (s : State) : Out :=
  if s.msc.held.isEmpty ∨ s.msc.running = false then .next s
  else
    let s := advanceTo ((now s / 1000000 + 1) * 1000000) s
    let hs := s.msc.held.filter fromPort ++ s.msc.held.filter (fun h => !fromPort h)
    .next (each hs arbitrate { s with msc := { s.msc with held := [] } })

/-- UPDATE_LOCK_TIMEOUT (R420): 60 s without an UPDATE_DATA or UPDATE_FINISH. -/
def execUpdateLockTimeout (s : State) : Out :=
  match s.msc.update with
  | none => .next s
  | some u =>
    let s := advanceTo (u.lastAt + 60000000000) s
    .next { s with msc := { s.msc with update := none } }

/-! ### Image data (R421) -/

/-- `l` with element `i` set to `v`. -/
def setAt {α : Type} (l : List α) (i : Nat) (v : α) : List α := update l i (fun _ => v)

/-- A slot marked verified or unverified. -/
def setVerified (b v : Bool) (f : FwSlot) : FwSlot := if b then { f with bValid := v } else { f with aValid := v }

/-- Image bytes programmed at an offset of a slot. -/
def programImage (slot : Bool) (off : Nat) (data : List Byte) (f : FwSlot) : FwSlot :=
  let i := fwIndex slot
  let old := f.image.getD i []
  { f with image := setAt f.image i (fit off old ++ data ++ old.drop (off + data.length)) }

/-- UPDATE_DATA (R421): the first one marks the slot unverified. -/
def updateData (who : Origin) (off : Nat) (data : List Byte) (s : State) : Answer × State :=
  match s.msc.update with
  | none => ((Status.updateBusy, 0, []), s)
  | some u =>
    if !sameHolder u.who who then ((Status.updateBusy, 0, []), s)
    else
      let s := { s with msc := { s.msc with update := some { u with lastAt := now s } } }
      if off ≠ u.written ∨ u.man.length.toNat < off + data.length then ((Status.paramInvalid, 0, []), s)
      else
        let c := u.man.component.toNat
        let slot := targetSlot s c
        let s := if c = 5 then s
          else modFw c (fun f => programImage slot off data (if off = 0 then setVerified slot false f else f)) s
        ((Status.ok, 0, []), { s with msc := { s.msc with
          update := some { u with lastAt := now s, written := off + data.length, data := if c = 5 then u.data ++ data else [] } } })

/-! ### Signed records (R412, R413, R422, R425, R431) -/

/-- The signer that R413 lists for a kind of record. -/
def recordSigner (s : State) (kind : Nat) : Nat :=
  match kind with
  | 1 => if s.msc.ownerKey.isEmpty then 3 else 2
  | 2 => 2 | 3 => 2 | 4 => 4 | 5 => 4 | _ => 3

/-- The record passes R413: a listed kind, its signer, its signature, and this device (any module for kind 6). -/
def recordValid (s : State) (m : Manifest) (b : List Byte) : Bool :=
  let kind := field b 0 2
  let dev := fit 16 (b.drop 16)
  decide (1 ≤ kind) && decide (kind ≤ 6) && field b 2 2 == recordSigner s kind && field b 2 2 == m.signer.toNat
    && field b 4 4 == b.length && decide (32 + 1280 ≤ b.length)
    && (dev == deviceBytes || (kind == 6 && dev == zeros 16))
    && signatureValid s (field b 2 2) (b.take (b.length - 1280)) (b.drop (b.length - 1280))

/-- The host key ID that decides for kind 2, and the sequence in force that the record must exceed. -/
def recordKey (b : List Byte) : Nat := if field b 0 2 = 2 then field b 32 8 else 0
def sequenceInForce (s : State) (b : List Byte) : Option Nat :=
  if field b 0 2 = 2 then (s.msc.hostKeys.find? (fun k => k.id.toNat = recordKey b)).map (fun k => k.seq)
  else assoc (field b 0 2) s.msc.configSeqs

/-- The body has the form of its kind (R413). -/
def recordForm (s : State) (b : List Byte) : Bool :=
  let n := b.length - 32 - 1280
  match field b 0 2 with
  | 1 => n == 1793
  | 2 =>
    n == 1802 && decide (field b 40 1 ≤ 3)
      && (s.msc.hostKeys.any (fun k => k.id.toNat == recordKey b && k.role != 0) || field b 40 1 == 0
          || decide ((s.msc.hostKeys.filter (fun k => k.role != 0)).length < 64))
  | 3 => n != 0 && decide (field b 32 1 ≤ 15)
  | 4 => n == 24
  | _ => true

/-- The next `n` free values (log 4). -/
def drawMany : Nat → State → List Nat × State
  | 0, s => ([], s)
  | n + 1, s =>
    let d := drawFree s
    let r := drawMany n d.2
    (d.1.toNat :: r.1, r.2)

/-- A monitor calibration record whose body comes from outside: its layout is not in the manual, so what it says is free (R285, R413; log 3). -/
def freeMonRecord (s : State) : State :=
  let d := drawMany 31 s
  let v (i : Nat) : Nat := d.1.getD i 0
  let n := s.cal.measured + 1
  let r : MonRecord :=
    { time := v 0, power := BitVec.ofNat 32 (v 1), ref := (List.range 4).map (fun i => BitVec.ofNat 32 (v (2 + i))), reading := (v 6 : Int)
      zeroNo := n, gainNo := n, commissioned := (List.range 24).map (fun a => v (7 + a)) }
  { d.2 with cal := { d.2.cal with measured := n, record := some r } }

/-- The effect of a record that is in force (R413, R431). -/
def applyRecord (b : List Byte) (s : State) : State :=
  let body := (b.drop 32).take (b.length - 32 - 1280)
  match field b 0 2 with
  | 1 => { s with msc := { s.msc with ownerKey := body } }
  | 2 =>
    let k : HostKey := { id := BitVec.ofNat 64 (field body 0 8), role := BitVec.ofNat 8 (field body 8 1), key := body.drop 9
                         seq := field b 8 8 }
    let s := { s with msc := { s.msc with hostKeys := s.msc.hostKeys.filter (fun q => q.id ≠ k.id) ++ [k] } }
    if k.role = 0 then
      each (List.range 8) (fun n s =>
        if (sessionAt s (n + 1)).state ≠ .free ∧ (sessionAt s (n + 1)).keyId = k.id then endSession (n + 1) s else s) s
    else s
  | 3 =>
    -- open batches close and are signed under the old slot
    let s := each (s.hif.rings.map (fun q => q.1)) closeBatch s
    { s with msc := { s.msc with ledgerSlot := field body 0 1 } }
  | 4 =>
    each (List.range 6) (fun c s => modFw c (fun f =>
      { f with counter := BitVec.ofNat 32 (max f.counter.toNat (field body (4 * c) 4)) }) s) s
  | 5 => freeMonRecord s
  | _ => s

/-- The end of UPDATE_FINISH for component 5: the record is checked and put in force (R422). -/
def finishRecord (m : Manifest) (b : List Byte) (s : State) : Answer × State :=
  let failed (st : BitVec 16) (s : State) : Answer × State := ((st, 0, []), raise .msc 21 { status := st } s)
  if !recordValid s m b then
    failed Status.signatureInvalid (raise .msc 17 { status := Status.signatureInvalid } s)
  else if (sequenceInForce s b).any (fun q => decide (field b 8 8 ≤ q)) then
    failed Status.rollback (raise .msc 22 { status := Status.rollback } s)
  else if !recordForm s b then failed Status.paramInvalid s
  else
    let s := putRecord (field b 0 2) (recordKey b) (field b 8 8) b (applyRecord b s)
    let s := journalFirmware 5 5 0xFF m.versionNo.toNat m.security.toNat m.digest (raise .msc 17 {} s)
    let s := modFw 5 (fun f => { f with version := setAt f.version 0 m.versionNo, security := setAt f.security 0 m.security }) s
    ((Status.ok, 0, []), commitCounter 5 m.security s)

/-- The image of a verified slot, as its manifest names it. -/
def slotVerified (c : Nat) (slot : Bool) (m : Manifest) (s : State) : State :=
  let i := fwIndex slot
  modFw c (fun f => setVerified slot true { f with
    version := setAt f.version i m.versionNo, security := setAt f.security i m.security
    edition := setAt f.edition i m.edition, digest := setAt f.digest i m.digest }) s

/-- The switch of a verified slot scheduled (R422, R423): at the first boundary at least 1 ms from now, or waiting for its edition. -/
def scheduleSwitch (c : Nat) (m : Manifest) (s : State) : State :=
  let t := now s + 1000000
  if c = 4 ∨ m.edition.toNat = edition s then modFw c (fun f => { f with pending := some t, editionWait := false }) s
  else
    let wait (f : FwSlot) : FwSlot := { f with editionWait := true }
    editionSchedule t (if c ≤ 1 then modFw 1 wait (modFw 0 wait s) else modFw c wait s)

/-- An image installed in RECOVERY (R429): no trial; the slot is the one the next start tries first. -/
def recoveryInstalled (c : Nat) (slot : Bool) (m : Manifest) (s : State) : State :=
  let s := modFw c (fun f => { f with active := slot, pending := none, editionWait := false, trial := none }) s
  journalFirmware 6 c (fwIndex slot) m.versionNo.toNat m.security.toNat m.digest s

/-- UPDATE_FINISH (R422): the lock ends with its completion. -/
def updateFinish (who : Origin) (s : State) : Answer × State :=
  match s.msc.update with
  | none => ((Status.updateBusy, 0, []), s)
  | some u =>
    if !sameHolder u.who who then ((Status.updateBusy, 0, []), s)
    else
      let c := u.man.component.toNat
      let slot := targetSlot s c
      let s := { s with msc := { s.msc with update := none } }
      let failed (n : Nat) : Answer × State := ((Status.paramInvalid, n, []), raise .msc 21 { status := Status.paramInvalid } s)
      let bytes := if c = 5 then u.data else (((fwOf s c).image.getD (fwIndex slot) []).take u.man.length.toNat)
      if u.written < u.man.length.toNat then failed 1
      else if le 32 (Config.shake256 bytes).toNat ≠ fit 32 u.man.digest then failed 2
      else if c = 5 then finishRecord u.man bytes s
      else
        let s := slotVerified c slot u.man s
        ((Status.ok, 0, []), if s.msc.mode = .recovery then recoveryInstalled c slot u.man s else scheduleSwitch c u.man s)

/-- UPDATE_ABORT (R420). -/
def updateAbort (who : Origin) (s : State) : Answer × State :=
  if holdsLock s who then ((Status.ok, 0, []), { s with msc := { s.msc with update := none } }) else ((Status.updateBusy, 0, []), s)

/-! ### Recovery over the bulk port (R430) -/

/-- RECOVERY_INSTALL (R430): the manifest and the image in host window 0 are read, checked and written. -/
def execRecoveryInstall (s : State) : Out :=
  if s.msc.mode ≠ .recovery ∨ s.msc.rcvState ≠ 1 then .next s
  else
    let refused (st : BitVec 16) (s : State) : State := { s with msc := { s.msc with rcvState := 5, rcvStatus := st } }
    if !serves s windowBase 1344 false then .next (refused Status.addressInvalid s)
    else
      let m := manifestOf (readBytes s windowBase 1344)
      match manifestCheck s m with
      | some r => .next (refused r.1 (manifestRefused m r.2 s))
      | none =>
        if !serves s (windowBase + 4096) m.length.toNat false then .next (refused Status.addressInvalid s)
        else
          let image := readBytes s (windowBase + 4096) m.length.toNat
          let c := m.component.toNat
          let slot := targetSlot s c
          let s := modFw c (fun f => programImage slot 0 image (setVerified slot false f)) s
          if le 32 (Config.shake256 image).toNat ≠ fit 32 m.digest then .next (refused Status.paramInvalid s)
          else
            let s := recoveryInstalled c slot m (slotVerified c slot m s)
            .next { s with msc := { s.msc with rcvState := 4, rcvAt := now s } }

/-- RECOVERY_RESET (R430): 1 ms after DONE the mask ROM carries out a power-on reset, with source 0x8. -/
def execRecoveryReset (s : State) : Out :=
  if s.msc.mode = .recovery ∧ s.msc.rcvState = 4 ∧ s.msc.resetting.isNone then
    .next (beginReset .powerOn 8 (advanceTo (s.msc.rcvAt + 1000000) s))
  else .next s

/-! ### The journal (R427, R428) -/

/-- JOURNAL_READ (R428): the records held from the slot whose number has these low 32 bits. -/
def journalRead (first count : Nat) (s : State) : Answer :=
  if count = 0 ∨ 7 < count then (Status.paramInvalid, 0, [])
  else match s.msc.journal.find? (fun j => j.1 % 2 ^ 32 = first) with
    | none => (Status.paramInvalid, 0, [])
    | some j =>
      let rs := (List.range count).filterMap (fun k => assoc (j.1 + k) s.msc.journal)
      (Status.ok, rs.length, rs.flatten)

/-- JOURNAL_GAP_RECORD (R427): at the end of the second, the records not journaled in it. -/
def execJournalGapRecord (s : State) : Out :=
  match s.msc.jGap with
  | none => .next s
  | some g =>
    let s := advanceTo ((s.msc.jSecond + 1) * 1000000000) s
    let s := journalOne [0x72] (le 8 g.1 ++ le 4 g.2) { s with msc := { s.msc with jGap := none } }
    .next (raise .msc 23 {} s)

/-! ### Attestation (R417) -/

/-- State code of R391. -/
def stateCode (m : Mode) : Nat :=
  match m with
  | .off => 0 | .standby => 1 | .dormant => 2 | .idle => 3 | .active => 4 | .frost => 5 | .recovery => 6

/-- An entry of AR_COMPONENTS; `free` stands for the security version of component 5, which the manual does not give (log 48). -/
def attestComponent (s : State) (free : Word) (c : Nat) : List Byte :=
  let f := fwOf s c
  let i := fwIndex f.active
  if c = 5 then
    [5, 0xFF, 0, 0] ++ le 4 ((s.msc.configSeqs.map (fun q => q.2)).foldl max 0) ++ le 4 free.toNat ++ le 4 f.counter.toNat
      ++ fit 32 (recordsDigest s)
  else
    [BitVec.ofNat 8 c, BitVec.ofNat 8 i, 0, 0] ++ le 4 (f.version.getD i 0).toNat ++ le 4 (f.security.getD i 0).toNat
      ++ le 4 f.counter.toNat ++ fit 32 (f.digest.getD i [])

/-- The report of ATTEST from byte 8 on (R417). -/
def attestReport (nonce : List Byte) (free : Word) (s : State) : List Byte :=
  let flags := bool s.msc.calSet + 2 * bool (!s.msc.ownerKey.isEmpty) + 4 * bool (s.msc.fw.any (fun f => f.pending.isSome))
    + 8 * bool (s.msc.fw.any (fun f => f.trial.isSome))
  let body := [1, BitVec.ofNat 8 flags] ++ le 2 3504 ++ zeros 4 ++ fit 32 nonce ++ deviceBytes ++ le 8 (now s)
    ++ le 8 s.msc.calS ++ le 4 s.msc.calNs
    ++ [BitVec.ofNat 8 (edition s), BitVec.ofNat 8 (stateCode s.msc.mode), BitVec.ofNat 8 s.msc.ledgerSlot, 0]
    ++ fit 32 s.msc.chain ++ (List.range 6).flatMap (attestComponent s free)
    ++ (if s.msc.ownerKey.isEmpty then zeros 8 else (le 32 (Config.shake256 s.msc.ownerKey).toNat).take 8) ++ zeros 8
    ++ le 1793 (Config.falconPublic (ledgerSeed s.msc.ledgerSlot)).toNat ++ zeros 7
  body ++ le 1280 (Config.falconSign identitySeed body).toNat

/-- ATTEST (R417). -/
def attest (nonce : List Byte) (s : State) : Answer × State :=
  let d := drawFree s
  ((Status.ok, 0, attestReport nonce (BitVec.ofNat 32 d.1.toNat) d.2), d.2)

end Sys2Proof.Machine
end

