-- ==== Sys2Proof/Machine/Ptp.lean ====
section
/-! DEFINITION. The discipline of hall time by IEEE 802.1AS (R182, R306). -/

namespace Sys2Proof.Machine

/-- `v` held within `lo` to `hi`. -/
def within (lo hi v : Int) : Int := if v < lo then lo else if hi < v then hi else v

/-- The grandmaster is lost (R182): holdover, with TSL_SYNC_LOST. -/
def syncLoss (s : State) : State :=
  if s.tsl.sync = .holdover then s
  else raise .tsl 1 {} { s with tsl := { s.tsl with sync := .holdover, slew := 0 } }

/-- Hall time stepped by an offset from the grandmaster (R182): epochs go on at the multiples of L that follow (R181). -/
def stepHallTime (offset : Int) (s : State) : State :=
  let t := ((now s : Int) - offset).toNat % 2 ^ 64
  let l := epochNs s
  { s with
    tsl := { s.tsl with hallTime := t, lenAt := (t / (s.tsl.lenNext.toNat * 50000) + 1) * (s.tsl.lenNext.toNat * 50000) }
    seq := { s.seq with boundary := if s.seq.boundary = 0 then 0 else (t / l + 1) * l } }

/-- A Sync taken (R182, R193, R306): the offset is kept; with no graph resident one above 1 ms is stepped at once, and any other is slewed
away at 100 ppm or less. When the TSL counts itself locked, and the rate it picks, are free (log 13). -/
def takeSync (offset : Int) (s : State) : State :=
  let s := { s with tsl := { s.tsl with offset := within (-32768) 32767 offset } }
  if s.seq.graphs.isEmpty ∧ 1000000 < offset.natAbs then
    stepHallTime offset { s with tsl := { s.tsl with sync := .acquiring, slew := 0 } }
  else
    { s with tsl := { s.tsl with
      sync := if Config.syncLocked offset then .locked else .acquiring
      slew := within (-100) 100 (Config.syncSlew offset) } }

/-- PTP_MESSAGE (R306): domain 0, Sync at log intervals from -3 to 0; a peer-delay request is answered. -/
def execPtpMessage (m : PtpMsg) (s : State) : Out :=
  if s.msc.mode = .off then .next s
  else match m with
    | .sync domain li offset => if domain = 0 ∧ -3 ≤ li ∧ li ≤ 0 then .next (takeSync offset s) else .next s
    | .pdelayReq domain => if domain = 0 then .next (emit (.pdelay false (vlanOf s true)) s) else .next s
    | .other => .next s

/-- PDELAY_REQUEST_TIMER (R306). -/
def execPdelayRequestTimer (s : State) : Out :=
  if s.msc.mode = .off then .next s
  else .next (emit (.pdelay true (vlanOf s true)) { s with tsl := { s.tsl with pdelay := s.tsl.pdelay + 1 } })

/-- GRANDMASTER_LOSS (R182). -/
def execGrandmasterLoss (s : State) : Out := if s.msc.mode = .off then .next s else .next (syncLoss s)

end Sys2Proof.Machine
end

