-- ==== Sys2Proof/Machine/Control.lean ====
section
/-! DEFINITION. What the MSC does with each command that is not immediate (R317 to R325). -/

namespace Sys2Proof.Machine

/-- What executing a command gives: its answer, unless it completes later, and the state after it. -/
abbrev Result := Option Answer × State

/-- A completion with a status alone. -/
def done (st : BitVec 16) (s : State) : Result := (some (st, 0, []), s)

/-! ### Sessions (R317, R318, R321) -/

/-- The session a command came in; 0 for none. -/
def sessionOf (who : Origin) : Nat := match who with | .cp n _ _ _ _ => n | .ring _ _ => 0

/-- The source of a command's frame. -/
def macOf (who : Origin) : BitVec 48 := match who with | .cp _ m _ _ _ => m | .ring _ _ => 0

/-- The enrolled key with this ID, if it is not revoked (R317). -/
def hostKey (s : State) (id : DWord) : Option HostKey := s.msc.hostKeys.find? (fun k => decide (k.id = id) && decide (k.role ≠ 0))

/-- The lowest free session number, 1 to 8. -/
def freeSession (s : State) : Option Nat := ((List.range 8).find? (fun n => (sessionAt s (n + 1)).state = .free)).map (fun n => n + 1)

/-- HIF_CP_AUTH_FAILS counts a request. -/
def countAuth (s : State) : State := { s with cp := { s.cp with authFails := sat 0xFFFFFFFF (s.cp.authFails + 1) } }

/-- The transcript digest th (R317). -/
def transcript (nonce key : List Byte) (role : Byte) (kem own cipher : List Byte) (n : Nat) : List Byte :=
  le 32 (Config.shake256 (fit 32 nonce ++ key ++ [role] ++ zeros 7 ++ fit 1568 kem ++ own ++ le 2 n ++ cipher)).toNat

/-- SESSION_OPEN (R317), step 2. -/
def sessionOpen (who : Origin) (nonce : List Byte) (key : DWord) (role : Byte) (kem : List Byte) (s : State) : Result :=
  if role = 0 ∨ 3 < role.toNat then done Status.paramInvalid s
  else match hostKey s key with
    | none => done Status.keyUnknown (countAuth s)
    | some _ =>
      match freeSession s with
      | none => done Status.sessionSlots s
      | some n =>
        let own := le 32 (Config.moduleNonce s.cp.nonce).toNat
        let enc := Config.encapsulate (fit 1568 kem) s.cp.nonce
        let cipher := le 1568 enc.1.toNat
        let th := transcript nonce (le 8 key.toNat) role kem own cipher n
        let x : Session := { state := .pending, role := role, keyId := key, mac := macOf who, transcript := th
                             keys := le 64 (Config.kmacSession enc.2 (BitVec.ofNat 256 (ofLe th))).toNat
                             openedAt := now s, lastAt := now s }
        let s := modSession n (fun _ => x) { s with cp := { s.cp with nonce := s.cp.nonce + 1 } }
        (some (Status.ok, 0, le 2 n ++ zeros 6 ++ own ++ cipher ++ le 1280 (Config.falconSign identitySeed th).toNat), s)

/-- SESSION_CONFIRM (R317), step 4; a signature that fails sets HIF_CP_AUTH_FAIL (R328). -/
def sessionConfirm (who : Origin) (sig : List Byte) (s : State) : Result :=
  let n := sessionOf who
  let x := sessionAt s n
  if x.state ≠ .pending then done Status.notReady s
  else match hostKey s x.keyId with
    | none => done Status.signatureInvalid (raise .cp 2 { status := Status.signatureInvalid } s)
    | some k =>
      if !Config.falconVerify k.key x.transcript (fit 1280 sig) then
        done Status.signatureInvalid (raise .cp 2 { status := Status.signatureInvalid } s)
      else if k.role.toNat < x.role.toNat then done Status.roleDenied s
      else done Status.ok (modSession n (fun x => { x with state := .isOpen }) s)

/-- SESSION_CLOSE (R318): its completion is the session's last frame. -/
def sessionClose (who : Origin) (s : State) : Result :=
  (none, endSession (sessionOf who) (complete who (Status.ok, 0, []) s))

/-- EVENT_SUBSCRIBE (R321, R325). -/
def eventSubscribe (who : Origin) (mask : Word) (enable : Bool) (s : State) : Result :=
  if 65535 < mask.toNat then done Status.paramInvalid s
  else done Status.ok (modSession (sessionOf who) (fun x => { x with mask := if enable then BitVec.ofNat 16 mask.toNat else 0 }) s)

/-! ### Graphs (R162, R169, R229, R322, R323) -/

/-- Sequence number of the next epoch to open (R181). -/
def nextEpoch (s : State) : Nat :=
  let t := nextBoundary s
  t / ((if s.tsl.lenNext ≠ s.tsl.len ∧ s.tsl.lenAt ≤ t then s.tsl.lenNext.toNat else s.tsl.len.toNat) * 50000)

/-- The step ZERO or FULL under way comes to its end (R284), and its command completes. -/
def finishStep (s : State) : State :=
  match s.cal.sysRun with
  | none => s
  | some r =>
    let s := sysEnd r (advanceTo (r.since + 500000000) s)
    match r.who with
    | some w => complete w (Status.ok, 0, []) s
    | none => s

/-- GRAPH_SUBMIT (R169); a step of system calibration under way ends first (log 87). -/
def graphSubmit (addr : DWord) (s : State) : Result :=
  let r := admitGraph addr.toNat (finishStep s)
  (some (r.1, r.2.1, if r.1 = Status.ok then [BitVec.ofNat 8 r.2.2.1] else []), r.2.2.2)

/-- GRAPH_RUN (R162): the run is due at the next boundary. -/
def graphRun (id : Word) (s : State) : Result :=
  match graphById s id with
  | none => done Status.graphUnknown s
  | some g =>
    if g.period ≠ 0 then done Status.graphPeriodic s
    else if g.held then done Status.graphHeld s
    else
      (some (Status.ok, 0, le 8 (nextEpoch s)), modGraph g.slot (fun g => { g with requests := g.requests + 1 }) s)

/-- GRAPH_RELEASE (R323): after a run in progress. -/
def graphRelease (id : Word) (s : State) : Result :=
  match graphById s id with
  | none => done Status.graphUnknown s
  | some g =>
    if g.run.isSome then done Status.ok (modGraph g.slot (fun g => { g with releasing := true }) s)
    else done Status.ok (leaveResidence g.slot s)

/-- GRAPH_READMIT (R229): for a graph in HELD (log 50). -/
def graphReadmit (id : Word) (s : State) : Result :=
  match graphById s id with
  | none => done Status.graphUnknown s
  | some g =>
    if !g.held then done Status.paramInvalid s
    else
      let r := readmit g.slot g s
      (some (r.1, r.2.1, if r.1 = Status.ok then [BitVec.ofNat 8 r.2.2.1] else []), r.2.2.2)

/-- GRAPH_RESUME (R322): at the next boundary; a graph that is also HELD needs admission again. -/
def graphResume (id : Word) (s : State) : Result :=
  let resume (g : Graph) : Graph := if g.paused && !g.held then { g with resume := true } else g
  if id = 0xFFFFFFFF then done Status.ok { s with seq := { s.seq with graphs := s.seq.graphs.map resume } }
  else match graphById s id with
    | none => done Status.graphUnknown s
    | some g => if g.held then done Status.graphHeld s else done Status.ok (modGraph g.slot resume s)

/-- The units of a bank in groups of at most 24, each with its first allotment unit. -/
def unitGroups : Nat → Nat → List Nat → List (Nat × List Nat)
  | 0, _, _ => []
  | f + 1, k, us => if us.isEmpty then [] else (k, us.take 24) :: unitGroups f (k + 24) (us.drop 24)

/-- The unit-table entries of a graph (R225, R342). -/
def unitEntries (g : Graph) : List (List Byte) :=
  (List.range 25).flatMap (fun bank =>
    let us := g.units.getD bank []
    (unitGroups us.length 0 us).map (fun q =>
      [0x52, BitVec.ofNat 8 bank, 0, 0] ++ le 4 g.id.toNat ++ le 2 q.1 ++ le 2 q.2.length ++ q.2.flatMap (le 2)))

/-- UNIT_TABLE (R225, R337): written whole or dropped whole. -/
def unitTable (id : Word) (ring : Nat) (s : State) : Result :=
  match graphById s id with
  | none => done Status.graphUnknown s
  | some g =>
    if 16384 ≤ ring then done Status.paramInvalid s
    else
      let es := unitEntries g
      let fits := decide ((ringOf s ring).type = .telemetry) && ringTakes s ring es.length
      (some (Status.ok, 0, le 4 (if fits then es.length else 0)), telemetryPush ring es s)

/-! ### Registers and memory (R217, R227, R325, R434, R435) -/

/-- A range of words in one block, aligned. -/
def wordsInBlock (a n : Nat) : Bool :=
  a % 4 == 0 && decide (regBase ≤ a) && decide (a + 4 * n ≤ regEnd) && (a - regBase) / 0x100000 == (a + 4 * n - 1 - regBase) / 0x100000

/-- Words read in ascending order by session `n`, each an access of its own. -/
def readWords (n off : Nat) : Nat → State → List Byte × State
  | 0, s => ([], s)
  | k + 1, s =>
    let v := le 4 (readAs s n off).toNat
    let r := readWords n (off + 4) k (readEffect n off s)
    (v ++ r.1, r.2)

/-- Words written in ascending order. -/
def writeWords (off : Nat) : List Word → State → State
  | [], s => s
  | w :: r, s => writeWords (off + 4) r (writeWord off w s)

/-- REG_READ (R323, R435). -/
def regRead (who : Origin) (a count : Nat) (s : State) : Result :=
  if count = 0 ∨ 126 < count then done Status.paramInvalid s
  else if !wordsInBlock a count then done Status.addressInvalid s
  else
    let r := readWords (sessionOf who) (a - regBase) count s
    (some (Status.ok, 0, r.1), r.2)

/-- An address in register block 15. -/
def inBlock15 (a : Nat) : Bool := decide (regBase ≤ a) && decide (a < regEnd) && (a - regBase) / 0x100000 == 15

/-- REG_WRITE (R316, R323, R434, R435): a write to block 15 needs MAINTAIN, which is seen when it executes (R311). -/
def regWrite (a : Nat) (ws : List Word) (maintain : Bool) (s : State) : Result :=
  if ws.isEmpty ∨ 349 < ws.length then done Status.paramInvalid s
  else if !wordsInBlock a ws.length then done Status.addressInvalid s
  else if inBlock15 a && !maintain then done Status.roleDenied s
  else done Status.ok (writeWords (a - regBase) ws s)

/-- A place that MEM_READ and MEM_WRITE refuse as an address: unmapped, a register, out of service (R217). -/
def memBars (p : Place) : Bool := match p with | .device _ => false | .host _ => false | .failing => false | _ => true

/-- What a memory access of `n` bytes is refused with, if it is (R217, R227, R325). -/
def memRefusal (s : State) (a n limit : Nat) (write : Bool) : Option (BitVec 16) :=
  if limit < n then some Status.paramInvalid
  else if touches s a n write memBars then some Status.addressInvalid
  else if touches s a n write (fun p => p == .failing) then some Status.hwStackFailed
  else none

/-- MEM_READ (R323): at most 504 bytes; none of length 0. -/
def memRead (a n : Nat) (s : State) : Result :=
  if n = 0 then done Status.ok s
  else match memRefusal s a n 504 false with
    | some st => done st s
    | none => (some (Status.ok, 0, readBytes s a n), s)

/-- MEM_WRITE (R26, R323). -/
def memWrite (a : Nat) (data : List Byte) (s : State) : Result :=
  if data.isEmpty then done Status.ok s
  else match memRefusal s a data.length 1396 true with
    | some st => done st s
    | none => done Status.ok (writeBytes a data s)

/-- LANE_UNIT (R184, R323): an enabled input lane (log 50). -/
def laneUnit (lane capture : Nat) (data : List Byte) (s : State) : Result :=
  let l := laneAt s lane
  if 48 ≤ lane ∨ l.en = false ∨ l.dir then done Status.paramInvalid s
  else if data.length ≠ l.unitBytes.toNat then done Status.paramLength s
  else done Status.ok (fileUnit lane capture data s)

/-! ### Calibration, links, ledger, dump (R180, R212, R242, R243, R284) -/

/-- SYSCAL (R284): FULL carries the power and the identifier of the reference. ZERO and FULL complete at the end of their 0.5 s. -/
def syscal (who : Origin) (step : Nat) (power : Word) (ref : List Word) (o : SysObs) (s : State) : Result :=
  if step = 0 ∨ 4 < step then done Status.paramInvalid s
  else
    let s := if step = 2 then { s with cal := { s.cal with power := power, refId := (ref ++ [0, 0, 0, 0]).take 4 } } else s
    let r := sysStep (some who) step o s
    (r.1.map (fun st => (st, 0, [])), r.2)

/-- LINK_GROUP (R242): as an OLE_GROUP write. -/
def linkGroup (id : BitVec 16) (n i : Nat) (s : State) : Result :=
  let st := if n = 0 ∨ 16 < n ∨ n ≤ i then Status.paramInvalid else if groupBusy s then Status.notReady else Status.ok
  done st (writeGroup id n i s)

/-- LINK_TRAIN (R243): as OLE_TRAIN_GO. -/
def linkTrain (ports : Byte) (s : State) : Result :=
  if 15 < ports.toNat then done Status.paramInvalid s
  else done (if groupBusy s then Status.notReady else Status.ok) (trainRequest (BitVec.ofNat 4 ports.toNat) s)

/-- PAGE_DUMP (R180): as SEQ_DUMP_GO. -/
def pageDump (ring : Nat) (s : State) : Result :=
  if 16384 ≤ ring then done Status.paramInvalid s
  else done Status.ok { s with seq := { s.seq with dumpRing := BitVec.ofNat 14 ring, dumpTo := some ring } }

/-! ### Power and resets (R323, R365, R368, R388, R392 to R396, R399) -/

/-- An action that begins 1 ms after the completion (R323); with another one set it is refused (R407; log 44). -/
def setAction (a : Action) (s : State) : Result :=
  if s.msc.action.isSome then done Status.notReady s
  else done Status.ok { s with msc := { s.msc with action := some a, actionAt := now s + 1000000 } }

/-- A refused request for another state (R392). -/
def refuseState (st : BitVec 16) (s : State) : Result := done st (raise .msc 2 { status := st } s)

/-- FROST_ENTER (R365, R369): in FROST there is nothing to do. -/
def frostCommand (s : State) : Result :=
  match s.msc.mode with
  | .frost => done Status.ok s
  | .idle => setAction .frost s
  | .active => setAction .frost s
  | .dormant => setAction .frost s
  | _ => refuseState Status.notReady s

/-- THAW (R324, R368). -/
def thawCommand (s : State) : Result := if thawable s then setAction .thaw s else refuseState Status.notReady s

/-- RESET (R323, R394 to R396, R399). -/
def resetCommand (type block : Nat) (s : State) : Result :=
  let st := resetStatus s type block
  if st = Status.paramInvalid then done st s
  else if st ≠ Status.ok then refuseState st s
  else setAction (resetAction s type block) s

/-- CALENDAR_SET (R323, R388). -/
def calendarSet (secs ns : Nat) (s : State) : Result :=
  if 1000000000 ≤ ns then done Status.paramInvalid s else done Status.ok (setCalendar secs ns s)

/-! ### The commands -/

/-- The answer of a command that always completes at once. -/
def answered (r : Answer × State) : Result := (some r.1, r.2)

/-- What the MSC does with a command (R323). -/
def runJob (who : Origin) (j : Job) (s : State) : Result :=
  match j with
  | .sessionOpen nonce key role kem => sessionOpen who nonce key role kem s
  | .sessionConfirm sig => sessionConfirm who sig s
  | .sessionClose => sessionClose who s
  | .attest nonce => answered (attest nonce s)
  | .eventSubscribe mask enable => eventSubscribe who mask enable s
  | .graphSubmit addr => graphSubmit addr s
  | .graphRun id => graphRun id s
  | .graphRelease id => graphRelease id s
  | .graphReadmit id => graphReadmit id s
  | .graphResume id => graphResume id s
  | .unitTable id ring => unitTable id ring.toNat s
  | .regRead addr count => regRead who addr.toNat count.toNat s
  | .regWrite addr words m => regWrite addr.toNat words m s
  | .memRead addr len => memRead addr.toNat len.toNat s
  | .memWrite addr data => memWrite addr.toNat data s
  | .laneUnit lane capture data => laneUnit lane.toNat capture.toNat data s
  | .syscal step power ref o => syscal who step.toNat power ref o s
  | .linkGroup id size index => linkGroup id size.toNat index.toNat s
  | .linkTrain ports => linkTrain ports s
  | .frostEnter => frostCommand s
  | .thaw => thawCommand s
  | .reset type block => resetCommand type.toNat block.toNat s
  | .powerOff => setAction .powerOff s
  | .calendarSet secs ns => calendarSet secs.toNat ns.toNat s
  | .updateBegin manifest => updateBegin who manifest s
  | .updateData offset data => answered (updateData who offset.toNat data s)
  | .updateFinish => answered (updateFinish who s)
  | .updateAbort => answered (updateAbort who s)
  | .recoveryEnter => setAction .recovery s
  | .ledgerBatch ring b => let r := setBatchSize ring.toNat b.toNat s; done r.1 r.2
  | .ledgerClose ring => let r := closeLedger ring.toNat s; done r.1 r.2
  | .journalRead first count => (some (journalRead first.toNat count.toNat s), s)
  | .pageDump ring => pageDump ring.toNat s

/-- A command executed, with its completion. -/
def execJob (who : Origin) (j : Job) (s : State) : State :=
  match runJob who j s with
  | (some a, s') => complete who a s'
  | (none, s') => s'

/-- A register command waits while its block is in a reset (R440). -/
def jobWaits (s : State) (j : Job) : Bool :=
  match j with
  | .regRead addr count => wordsInBlock addr.toNat count.toNat && blockInReset s ((addr.toNat - regBase) / 0x100000)
  | .regWrite addr words _ => wordsInBlock addr.toNat words.length && blockInReset s ((addr.toNat - regBase) / 0x100000)
  | _ => false

/-- Commands that the MSC starts one at a time: those of a session, or of a submission ring (R319). -/
def sameQueue (a b : Origin) : Bool :=
  match a, b with
  | .cp n _ _ _ _, .cp k _ _ _ _ => n == k && n != 0
  | .ring i _, .ring j _ => i == j
  | _, _ => false

/-- A command of the same session or ring is under way: a step of system calibration (R284, R319). -/
def stepUnderWay (s : State) (who : Origin) : Bool := (s.cal.sysRun.bind (fun r => r.who)).any (sameQueue who)

/-- An accepted command is executed, or waits: for the MSC core (R318), for its block, or behind an earlier one of its session (R319). -/
def submit (who : Origin) (j : Job) (s : State) : State :=
  if s.msc.running && !jobWaits s j && !stepUnderWay s who && !s.msc.waiting.any (fun w => sameQueue w.1 who) then execJob who j s
  else { s with msc := { s.msc with waiting := s.msc.waiting ++ [(who, j)] } }

/-- The commands that waited are taken up again in the order of their acceptance. -/
def runWaiting (s : State) : State :=
  each s.msc.waiting (fun w s => submit w.1 w.2 s) { s with msc := { s.msc with waiting := [] } }

/-- What happens as hall time goes on by 1 ns with no command waiting (log 13): resend requests leave in the next check block (R254; log 91), and a step
of system calibration that has taken its 0.5 s ends (R284; log 87), and the commands that waited behind one proceed (R319). -/
def idle (s : State) : State :=
  let s := sendRequests (tick s)
  runWaiting (if s.cal.sysRun.any (fun r => decide (r.since + 500000000 ≤ now s)) then finishStep s else s)

/-- A reset under way that takes the whole module with it: power-on, cold, or the thaw's cold restart (R394). -/
def wholeReset (s : State) : Bool :=
  match s.msc.resetting with
  | some (.reset .powerOn _) => true
  | some (.reset .cold _) => true
  | some .thaw => true
  | _ => false

/-- MSC_CORE_RESTART_DONE (R318, R404): within 50 ms of its start, and what waited for it proceeds. -/
def execMscCoreRestartDone (s : State) : Out :=
  if s.msc.running ∨ s.msc.mode = .off ∨ wholeReset s then .next s
  else .next (runWaiting (mscRestartDone s))

/-- RESET_END (R394, R440): the reset under way reaches its end state, and what waited for it proceeds. -/
def execResetEnd (o : BringUp) (s : State) : Out :=
  if s.msc.resetting.isNone then .next s else .next (runWaiting (runAccesses (resetEnd o s)))

end Sys2Proof.Machine
end

