-- ==== Sys2Proof/Machine/Commands.lean ====
section
/-! DEFINITION. Requests as they arrive at the control port, fragments, sessions' timers, the link, and submission entries
(R305 to R327, R339). -/

namespace Sys2Proof.Machine

/-! ### Arrival (R307, R309 to R312, R320) -/

/-- The control port answers: the module has power and is in no reset of the whole (R391, R394). -/
def portServes (s : State) : Bool := s.msc.mode != .off && !wholeReset s

/-- A frame discarded and counted (R307, R311, R312, R315, R328). -/
def dropFrame (s : State) : State :=
  raise .cp 0 {} { s with cp := { s.cp with dropped := sat 0xFFFFFFFF (s.cp.dropped + 1) } }

/-- A failure of check 7 (R311, R328). -/
def authFailed (st : BitVec 16) (s : State) : State := raise .cp 2 { status := st } (countAuth s)

/-- Opcodes whose messages may be fragmented (R315). -/
def fragmented (o : Nat) : Bool := o == 0x0101 || o == 0x0104 || o == 0x0701

/-- Opcodes allowed without a session (R316). -/
def sessionless (o : Nat) : Bool := o == 1 || o == 2 || o == 3 || o == 0x0101 || o == 0x0104

/-- The role an opcode needs (R323): 0 none, 1 OBSERVE, 2 OPERATE, 3 MAINTAIN, 4 a pending session. -/
def roleNeeded (o : Nat) : Nat :=
  if sessionless o then 0
  else if o = 0x0102 then 4
  else if o = 5 ∨ o = 0x0103 ∨ o = 0x0105 ∨ o = 0x0206 ∨ o = 0x0301 ∨ o = 0x0303 ∨ o = 0x0F01 ∨ o = 0x0F02 then 1
  else if o / 256 = 6 ∨ o / 256 = 7 then 3
  else 2

/-- The session permits a role (R316, R317). -/
def rolePermits (s : State) (n need : Nat) : Bool :=
  let x := sessionAt s n
  if need = 0 then true
  else if need = 4 then decide (x.state = .pending)
  else decide (x.state = .isOpen) && decide (need ≤ x.role.toNat)

/-- A session number whose sequences are used up (R318). -/
def exhausted (s : State) (n : Nat) : Bool := decide ((sessionAt s n).state = .free) && (sessionAt s n).lastSeq == 0xFFFFFFFF

/-- The frames cached for a sequence of a session, in the order they were sent (R320). -/
def cachedFrames (s : State) (n : Nat) (seq : Word) : List Frame := (sessionAt s n).cache.filter (fun f => f.seq == seq)

/-- Cached frames sent again unchanged (R320). -/
def resend (fs : List Frame) (s : State) : State := each fs sendMessage s

/-- A request, from check 3 on (R311): `need` is the role, `lenOk` check 10, `stateOk` check 11, `room` check 12, and `go` what an accepted
request does. -/
def request (r : Req) (o need : Nat) (lenOk stateOk room : Bool) (go : State → State) (s : State) : State :=
  let n := r.session.toNat
  let bare (st : BitVec 16) (s : State) : State := reply r o false false st 0 [] s
  let refusal (st : BitVec 16) (s : State) : State := reply r o (n != 0) true st 0 [] s
  if (!fragmented o && decide (1408 < r.plen)) || (r.quiet && o != 0x0310) then bare Status.headerInvalid s
  else if 8 < n then bare Status.sessionUnknown s
  else if n ≠ 0 ∧ (sessionAt s n).state = .free then
    bare (if exhausted s n then Status.seqExhausted else Status.sessionUnknown) s
  else if n = 0 ∧ !sessionless o then bare Status.authRequired (authFailed Status.authRequired s)
  else if n ≠ 0 ∧ !(r.tagged && r.tagOk) then bare Status.tagInvalid (authFailed Status.tagInvalid s)
  else if n ≠ 0 ∧ r.seq.toNat ≤ (sessionAt s n).lastSeq then
    let fs := cachedFrames s n r.seq
    if fs.isEmpty ∨ r.seq = 0 then reply r o true false Status.seqStale 0 [] s else resend fs s
  else
    let s := if n = 0 then s else modSession n (fun x => { x with lastSeq := r.seq.toNat, lastAt := now s }) s
    let s :=
      if !rolePermits s n need then refusal Status.roleDenied s
      else if !lenOk then refusal Status.paramLength s
      else if !stateOk then refusal Status.notReady (stateRefused o s)
      else if !room then refusal Status.queueFull s
      else go s
    if n ≠ 0 ∧ r.seq = 0xFFFFFFFF ∧ (sessionAt s n).state ≠ .free then
      modSession n (fun x => { x with lastSeq := 0xFFFFFFFF }) (endSession n s)
    else s

/-- A request at the front end: discarded where R307 or R312 says so, else checked. -/
def arrive (r : Req) (o need : Nat) (lenOk stateOk room : Bool) (go : State → State) (s : State) : State :=
  if !portServes s then s
  else if (r.bcast ∧ o ≠ 1) ∨ 3 ≤ r.behind then dropFrame s
  else request r o need lenOk stateOk room go s

/-- An immediate command of `plen` parameter bytes: `f` gives its answer (R311). -/
def immediate (r : Req) (o plen : Nat) (f : State → Answer × State) (s : State) : State :=
  arrive r o (roleNeeded o) (r.plen == plen) (stateAllows s.msc.mode o) true
    (fun s =>
      let a := f s
      reply r o (r.session != 0) true a.1.1 a.1.2.1 a.1.2.2 a.2) s

/-! ### Commands that are not immediate (R311, R325) -/

/-- HDR_PLEN or SE_PLEN of a command (R323, R325). -/
def jobLength : Job → Nat
  | .sessionOpen .. => 1616 | .sessionConfirm _ => 1280 | .sessionClose => 0 | .attest _ => 32
  | .eventSubscribe .. => 8 | .graphSubmit _ => 8 | .graphRun _ => 4 | .graphRelease _ => 4
  | .graphReadmit _ => 4 | .graphResume _ => 4 | .unitTable .. => 8 | .regRead .. => 12
  | .regWrite _ ws _ => 12 + 4 * ws.length | .memRead .. => 12 | .memWrite _ d => 12 + d.length
  | .laneUnit _ _ d => 12 + d.length | .syscal .. => 24
  | .linkGroup .. => 4 | .linkTrain _ => 4 | .frostEnter => 0 | .thaw => 0 | .reset .. => 4
  | .powerOff => 0 | .calendarSet .. => 12 | .updateBegin _ => 1344 | .updateData _ d => 4 + d.length
  | .updateFinish => 0 | .updateAbort => 0 | .recoveryEnter => 0 | .ledgerBatch .. => 4
  | .ledgerClose _ => 4 | .journalRead .. => 8 | .pageDump _ => 4

/-- The length of a command's parameters is as R325 requires. -/
def lengthFits (s : State) (plen : Nat) (j : Job) : Bool :=
  plen == jobLength j &&
    match j with
    | .laneUnit lane _ d => decide (48 ≤ lane.toNat) || d.length == (laneAt s lane.toNat).unitBytes.toNat
    | .updateData _ d => decide (1 ≤ d.length) && decide (d.length ≤ 1404)
    | _ => true

/-- The role that check 9 asks of a command: its opcode's (R311, R323). -/
def jobRole (j : Job) : Nat := roleNeeded (jobOpcode j).toNat

/-- The command as session `n` sends it: a REG_WRITE carries whether the role is MAINTAIN (R316). -/
def withRole (s : State) (n : Nat) (j : Job) : Job :=
  match j with
  | .regWrite a ws _ => .regWrite a ws (decide (3 ≤ (sessionAt s n).role.toNat))
  | j => j

/-- A privileged command: one that needs MAINTAIN (R308, R316). -/
def privileged (j : Job) : Bool :=
  match j with
  | .regWrite a _ m => m && inBlock15 a.toNat
  | j => jobRole j == 3

/-- The state permits a command (R324, R429). -/
def jobAllowed (s : State) (j : Job) : Bool :=
  match j with
  | .thaw => thawable s
  | j => stateAllows s.msc.mode (jobOpcode j).toNat

/-- Room in the session's queue of 64 commands (R311). -/
def queueRoom (s : State) (r : Req) : Bool :=
  decide ((s.msc.waiting.filter (fun w => match w.1 with | .cp n _ _ _ _ => n == r.session.toNat | _ => false)).length < 64)

/-- An accepted command (R311, R319): the ACCEPTED reply, but for QUIET, and then its execution; the sender's hall time is journaled for a
privileged one (R308). A session that its sequence ends takes no completion (R318). -/
def acceptRequest (r : Req) (j : Job) (s : State) : State :=
  let o := (jobOpcode j).toNat
  let n := r.session.toNat
  let j := withRole s n j
  let s := if privileged j then { s with msc := { s.msc with hostTimes := (jobOpcode j, r.htLow) :: s.msc.hostTimes } } else s
  let s := if r.quiet then s else reply r o (n != 0) true Status.accepted 0 [] s
  let last := decide (n ≠ 0) && r.seq == 0xFFFFFFFF
  let s := if last then modSession n (fun x => { x with lastSeq := 0xFFFFFFFF }) (endSession n s) else s
  submit (.cp (if last then 255 else n) r.src r.seq (jobOpcode j) r.quiet) j s

/-- A command frame whose opcode is not immediate (R311). -/
def command (r : Req) (j : Job) (s : State) : State :=
  arrive r (jobOpcode j).toNat (jobRole j) (lengthFits s r.plen j) (jobAllowed s j) (queueRoom s r) (acceptRequest r j) s

/-! ### The immediate class (R320, R322, R323) -/

/-- Open sessions. -/
def openSessions (s : State) : Nat := (s.cp.sessions.filter (fun x => decide (x.state = .isOpen))).length

/-- STATUS (R323). -/
def statusAnswer (s : State) : Answer :=
  (Status.ok, 0,
    [BitVec.ofNat 8 (stateCode s.msc.mode), BitVec.ofNat 8 (levelInForce s), BitVec.ofNat 8 (syncCode s.tsl.sync),
      BitVec.ofNat 8 (openSessions s)] ++ le 2 s.seq.graphs.length
      ++ [BitVec.ofNat 8 (bool s.msc.calSet + 2 * bool s.msc.update.isSome), BitVec.ofNat 8 (edition s)]
      ++ le 8 s.seq.epoch ++ le 8 (now s))

/-- TIME (R323). -/
def timeAnswer (s : State) : Answer :=
  (Status.ok, 0, le 8 (now s) ++ le 8 s.msc.calS ++ le 4 s.msc.calNs
    ++ [BitVec.ofNat 8 (syncCode s.tsl.sync), BitVec.ofNat 8 (bool s.msc.calSet), 0, 0])

/-- TEMPERATURE (R323, R355): with no sensor of any domain valid the module maximum reads 0 (log 12). -/
def temperatureAnswer (s : State) : Answer :=
  let m := (moduleMax s).getD (0, 0, 0)
  let fast := ((List.range 7).map (fun d => bool (domainAt s d).fast * 2 ^ d)).sum
  (Status.ok, 0, tempBytes m.1 ++ [BitVec.ofNat 8 m.2.1, BitVec.ofNat 8 (levelInForce s)]
    ++ (List.range 7).flatMap (fun d => tempBytes (maxTemp s d)) ++ [BitVec.ofNat 8 fast] ++ zeros 5)

/-- STATUS (R323). -/
def execStatus (r : Req) (s : State) : Out := .next (immediate r 0x0001 0 (fun s => (statusAnswer s, s)) s)

/-- TIME (R323). -/
def execTime (r : Req) (s : State) : Out := .next (immediate r 0x0002 0 (fun s => (timeAnswer s, s)) s)

/-- TEMPERATURE (R323). -/
def execTemperature (r : Req) (s : State) : Out := .next (immediate r 0x0003 0 (fun s => (temperatureAnswer s, s)) s)

/-- STOP_BOUNDARY (R322): from the next boundary. -/
def execStopBoundary (r : Req) (s : State) : Out :=
  .next (immediate r 0x0004 4 (fun s => ((Status.ok, 0, []), { s with seq := { s.seq with
    stopBoundary := true, graphs := s.seq.graphs.map (fun g => { g with resume := false }) } })) s)

/-- STOP_NOW (R322). -/
def execStopNow (r : Req) (s : State) : Out := .next (immediate r 0x0004 4 (fun s => ((Status.ok, 0, []), stopNow s)) s)

/-- What RESULT answers (R320): the completion of a sequence resent, or that it has not completed; PARAM_INVALID where none is cached. -/
def resultAnswer (n : Nat) (seq : Word) (s : State) : Answer × State :=
  let fs := cachedFrames s n seq
  match fs.find? (fun f => f.completion) with
  | some f => ((Status.ok, 0, []), sendMessage f s)
  | none =>
    if fs.any (fun f => field f.params 0 2 == Status.accepted.toNat) then ((Status.accepted, 0, []), s)
    else ((Status.paramInvalid, 0, []), s)

/-- RESULT (R320). -/
def execResult (r : Req) (seq : Word) (s : State) : Out := .next (immediate r 0x0005 4 (resultAnswer r.session.toNat seq) s)

/-! ### The commands of R323 -/

/-- SESSION_OPEN (R317). -/
def execSessionOpen (r : Req) (nonce : List Byte) (key : DWord) (role : Byte) (kem : List Byte) (s : State) : Out :=
  .next (command r (.sessionOpen nonce key role kem) s)

/-- SESSION_CONFIRM (R317). -/
def execSessionConfirm (r : Req) (sig : List Byte) (s : State) : Out := .next (command r (.sessionConfirm sig) s)

/-- SESSION_CLOSE (R318). -/
def execSessionClose (r : Req) (s : State) : Out := .next (command r .sessionClose s)

/-- ATTEST (R417). -/
def execAttest (r : Req) (nonce : List Byte) (s : State) : Out := .next (command r (.attest nonce) s)

/-- EVENT_SUBSCRIBE (R321). -/
def execEventSubscribe (r : Req) (mask : Word) (enable : Bool) (s : State) : Out := .next (command r (.eventSubscribe mask enable) s)

/-- GRAPH_SUBMIT (R169). -/
def execGraphSubmit (r : Req) (addr : DWord) (s : State) : Out := .next (command r (.graphSubmit addr) s)

/-- GRAPH_RUN (R162). -/
def execGraphRun (r : Req) (id : Word) (s : State) : Out := .next (command r (.graphRun id) s)

/-- GRAPH_RELEASE (R323). -/
def execGraphRelease (r : Req) (id : Word) (s : State) : Out := .next (command r (.graphRelease id) s)

/-- GRAPH_READMIT (R229). -/
def execGraphReadmit (r : Req) (id : Word) (s : State) : Out := .next (command r (.graphReadmit id) s)

/-- GRAPH_RESUME (R322). -/
def execGraphResume (r : Req) (id : Word) (s : State) : Out := .next (command r (.graphResume id) s)

/-- UNIT_TABLE (R225). -/
def execUnitTable (r : Req) (id : Word) (ring : BitVec 16) (s : State) : Out := .next (command r (.unitTable id ring) s)

/-- REG_READ (R323, R434). -/
def execRegRead (r : Req) (addr : DWord) (count : BitVec 16) (s : State) : Out := .next (command r (.regRead addr count) s)

/-- REG_WRITE (R323, R434). -/
def execRegWrite (r : Req) (addr : DWord) (words : List Word) (s : State) : Out := .next (command r (.regWrite addr words false) s)

/-- MEM_READ (R323). -/
def execMemRead (r : Req) (addr : DWord) (len : Word) (s : State) : Out := .next (command r (.memRead addr len) s)

/-- MEM_WRITE (R26, R323). -/
def execMemWrite (r : Req) (addr : DWord) (data : List Byte) (s : State) : Out := .next (command r (.memWrite addr data) s)

/-- LANE_UNIT (R184). -/
def execLaneUnit (r : Req) (lane : Byte) (capture : DWord) (data : List Byte) (s : State) : Out :=
  .next (command r (.laneUnit lane capture data) s)

/-- LINK_GROUP (R242). -/
def execLinkGroup (r : Req) (id : BitVec 16) (size index : Byte) (s : State) : Out := .next (command r (.linkGroup id size index) s)

/-- LINK_TRAIN (R243). -/
def execLinkTrain (r : Req) (ports : Byte) (s : State) : Out := .next (command r (.linkTrain ports) s)

/-- FROST_ENTER (R365). -/
def execFrostEnter (r : Req) (s : State) : Out := .next (command r .frostEnter s)

/-- THAW (R368). -/
def execThaw (r : Req) (s : State) : Out := .next (command r .thaw s)

/-- RESET_POWER_ON (R394). -/
def execResetPowerOn (r : Req) (s : State) : Out := .next (command r (.reset 1 0) s)

/-- RESET_COLD (R394). -/
def execResetCold (r : Req) (s : State) : Out := .next (command r (.reset 2 0) s)

/-- RESET_WARM (R394). -/
def execResetWarm (r : Req) (s : State) : Out := .next (command r (.reset 3 0) s)

/-- RESET_FUNCTION (R394, R400). -/
def execResetFunction (r : Req) (s : State) : Out := .next (command r (.reset 4 0) s)

/-- RESET_SUBSYSTEM (R399). -/
def execResetSubsystem (r : Req) (block : Byte) (s : State) : Out := .next (command r (.reset 5 block) s)

/-- POWER_OFF (R392). -/
def execPowerOff (r : Req) (s : State) : Out := .next (command r .powerOff s)

/-- CALENDAR_SET (R388). -/
def execCalendarSet (r : Req) (secs : DWord) (ns : Word) (s : State) : Out := .next (command r (.calendarSet secs ns) s)

/-- UPDATE_BEGIN (R418, R419). -/
def execUpdateBegin (r : Req) (manifest : List Byte) (s : State) : Out := .next (command r (.updateBegin manifest) s)

/-- UPDATE_DATA (R421). -/
def execUpdateData (r : Req) (offset : Word) (data : List Byte) (s : State) : Out := .next (command r (.updateData offset data) s)

/-- UPDATE_FINISH (R422). -/
def execUpdateFinish (r : Req) (s : State) : Out := .next (command r .updateFinish s)

/-- UPDATE_ABORT (R420). -/
def execUpdateAbort (r : Req) (s : State) : Out := .next (command r .updateAbort s)

/-- RECOVERY_ENTER (R392). -/
def execRecoveryEnter (r : Req) (s : State) : Out := .next (command r .recoveryEnter s)

/-- LEDGER_BATCH (R212). -/
def execLedgerBatch (r : Req) (ring b : BitVec 16) (s : State) : Out := .next (command r (.ledgerBatch ring b) s)

/-- LEDGER_CLOSE (R212). -/
def execLedgerClose (r : Req) (ring : BitVec 16) (s : State) : Out := .next (command r (.ledgerClose ring) s)

/-- JOURNAL_READ (R428). -/
def execJournalRead (r : Req) (first : Word) (count : Byte) (s : State) : Out := .next (command r (.journalRead first count) s)

/-- PAGE_DUMP (R180). -/
def execPageDump (r : Req) (ring : BitVec 16) (s : State) : Out := .next (command r (.pageDump ring) s)

/-! ### System calibration (R284) -/

/-- A system calibration step from either of its ways in: SYSCAL, or a write of CAL_CTRL that names it with CAL_SYSCAL_GO set. -/
def sysCommand (step : Nat) (v : SysVia) (o : SysObs) (s : State) : State :=
  match v with
  | .cp r power ref => command r (.syscal (BitVec.ofNat 8 step) power ref o) s
  | .reg p w =>
    let w := pack [(31, 1), (28, step), (0, bits w 27 0)]
    match gateOf s p 0xD00004 true with
    | .take => writeWordObs 0xD00004 w 0 o s
    | _ => pathWrite p 0xD00004 w s

/-- SYSCAL_ZERO (R284). -/
def execSyscalZero (v : SysVia) (o : SysObs) (s : State) : Out := .next (sysCommand 1 v o s)

/-- SYSCAL_FULL (R284). -/
def execSyscalFull (v : SysVia) (o : SysObs) (s : State) : Out := .next (sysCommand 2 v o s)

/-- SYSCAL_COMMIT (R284). -/
def execSyscalCommit (v : SysVia) (s : State) : Out := .next (sysCommand 3 v {} s)

/-- SYSCAL_ABANDON (R284). -/
def execSyscalAbandon (v : SysVia) (s : State) : Out := .next (sysCommand 4 v {} s)

/-! ### Commands from bytes (R315, R323, R339) -/

/-- The command of an opcode and its parameter bytes, for the opcodes that arrive as bytes: fragmented messages and submission entries. -/
def jobOf (o : Nat) (b : List Byte) : Option Job :=
  let w (i : Nat) : Word := BitVec.ofNat 32 (field b i 4)
  let h (i : Nat) : BitVec 16 := BitVec.ofNat 16 (field b i 2)
  let c (i : Nat) : Byte := BitVec.ofNat 8 (field b i 1)
  match o with
  | 0x0101 => some (.sessionOpen (b.take 32) (BitVec.ofNat 64 (field b 32 8)) (c 40) (b.drop 48))
  | 0x0104 => some (.attest (b.take 32))
  | 0x0201 => some (.graphSubmit (BitVec.ofNat 64 (field b 0 8)))
  | 0x0202 => some (.graphRun (w 0))
  | 0x0203 => some (.graphRelease (w 0))
  | 0x0204 => some (.graphReadmit (w 0))
  | 0x0205 => some (.graphResume (w 0))
  | 0x0206 => some (.unitTable (w 0) (h 4))
  | 0x0401 => some (.syscal (c 0) (w 4) [w 8, w 12, w 16, w 20] {})
  | 0x0501 => some (.linkGroup (h 0) (c 2) (c 3))
  | 0x0502 => some (.linkTrain (c 0))
  | 0x0701 => some (.updateBegin b)
  | 0x0702 => some (.updateData (w 0) (b.drop 4))
  | 0x0703 => some .updateFinish
  | 0x0704 => some .updateAbort
  | 0x0801 => some (.ledgerBatch (h 0) (h 2))
  | 0x0802 => some (.ledgerClose (h 0))
  | 0x0F02 => some (.pageDump (h 0))
  | _ => none

/-! ### Fragments (R315) -/

/-- A fragment's header is as R315 requires, and agrees with what is held of its message. -/
def fragmentHeader (index count length : Nat) (data : List Byte) (held : Option Assembly) : Bool :=
  decide (1 ≤ count) && decide (count ≤ 8) && decide (index < count) && decide (length ≤ 4096) && decide (data.length ≤ 1404)
    && (match held with | some a => a.count == count && a.length == length | none => true)

/-- The message of an assembly whose fragments are all held. -/
def assembled (a : Assembly) : Option (List Byte) :=
  if a.parts.length = a.count then some (a.parts.flatMap (fun p => p.2)) else none

/-- The fragment belongs to the assembly (R315). -/
def ofMessage (r : Req) (o : BitVec 16) (a : Assembly) : Bool := a.src == r.src && a.opcode == o && a.seq == r.seq

/-- A fragment kept with its message; the message is one request once its last missing fragment arrives. -/
def takeFragment (r : Req) (o : BitVec 16) (index count length : Nat) (data : List Byte) (s : State) : State :=
  let old := (s.cp.assemblies.find? (ofMessage r o)).getD
    { src := r.src, opcode := o, seq := r.seq, count := count, length := length, time := now s }
  let a := { old with parts := if (assoc index old.parts).isSome then old.parts else insertKey index data old.parts }
  let rest := s.cp.assemblies.filter (fun q => !ofMessage r o q)
  match assembled a with
  | none => { s with cp := { s.cp with assemblies := rest ++ [a] } }
  | some m =>
    let s := { s with cp := { s.cp with assemblies := rest } }
    if m.length ≠ length then reply r o.toNat false false Status.headerInvalid 0 [] s
    else match jobOf o.toNat m with
      | some j => command { r with plen := length, behind := 0 } j s
      | none => s

/-- MESSAGE_FRAGMENT (R311, R315): the checks up to the tag are made of each fragment (log 51). -/
def execMessageFragment (r : Req) (o : BitVec 16) (index count : Byte) (length : BitVec 16) (data : List Byte) (s : State) : Out :=
  let n := r.session.toNat
  let bare (st : BitVec 16) (s : State) : State := reply r o.toNat false false st 0 [] s
  if !portServes s then .next s
  else if r.bcast ∨ 3 ≤ r.behind then .next (dropFrame s)
  else if !opcodeListed o.toNat then .next (bare Status.opcodeUnknown s)
  else if !fragmented o.toNat ∨ r.quiet
      ∨ !fragmentHeader index.toNat count.toNat length.toNat data (s.cp.assemblies.find? (ofMessage r o)) then
    .next (bare Status.headerInvalid s)
  else if 8 < n ∨ (n ≠ 0 ∧ (sessionAt s n).state = .free) then
    .next (bare (if n ≤ 8 ∧ exhausted s n then Status.seqExhausted else Status.sessionUnknown) s)
  else if n = 0 ∧ !sessionless o.toNat then .next (bare Status.authRequired (authFailed Status.authRequired s))
  else if n ≠ 0 ∧ !(r.tagged && r.tagOk) then .next (bare Status.tagInvalid (authFailed Status.tagInvalid s))
  else .next (takeFragment r o index.toNat count.toNat length.toNat data s)

/-- FRAGMENT_TIMEOUT (R315): message `i` of those being reassembled is not complete within 100 ms. -/
def execFragmentTimeout (i : Nat) (s : State) : Out :=
  match s.cp.assemblies[i]? with
  | none => .next s
  | some a =>
    let s := advanceTo (a.time + 100000000) s
    .next (dropFrame { s with cp := { s.cp with assemblies := s.cp.assemblies.eraseIdx i } })

/-! ### Timers of sessions (R317, R318, R321) -/

/-- SESSION_CONFIRM_TIMEOUT (R317): 1 s after step 2 the number is free. -/
def execSessionConfirmTimeout (n : Nat) (s : State) : Out :=
  let x := sessionAt s n
  if n = 0 ∨ 8 < n ∨ x.state ≠ .pending then .next s
  else .next (endSession n (advanceTo (x.openedAt + 1000000000) s))

/-- SESSION_IDLE_TIMEOUT (R318): 300 s without an accepted tagged request. -/
def execSessionIdleTimeout (n : Nat) (s : State) : Out :=
  let x := sessionAt s n
  if n = 0 ∨ 8 < n ∨ x.state ≠ .isOpen then .next s
  else .next (endSession n (advanceTo (x.lastAt + 300000000000) s))

/-- The newest event frame of session `n` taken back from what has left. -/
def unsendEvent (n : Nat) : List Output → Option (List Output)
  | [] => none
  | .frame f :: r => if f.event && f.session == n then some r else (unsendEvent n r).map (fun q => .frame f :: q)
  | o :: r => (unsendEvent n r).map (fun q => o :: q)

/-- EVENT_COPY_DROP (R321): the copy that could not be sent within 1 ms is not sent, and is counted. -/
def execEventCopyDrop (n : Nat) (s : State) : Out :=
  match unsendEvent n s.out with
  | none => .next s
  | some out => .next { s with out := out, cp := { s.cp with evDropped := sat 0xFFFFFFFF (s.cp.evDropped + 1) } }

/-! ### The gate list and the link (R305, R314, R327) -/

/-- The first cycle start after hall time `t`, or at it where no cycle has begun yet (R314). -/
def cycleStart (s : State) (t : Nat) : Nat :=
  let base := s.cp.qbvBaseHi.toNat * 2 ^ 32 + s.cp.qbvBaseLo.toNat
  let c := s.cp.qbvCycle.toNat
  if t < base ∨ (t = base ∧ !s.cp.gateInForce) then base
  else
    let k := (t - base) / c
    if (t - base) % c = 0 ∧ !s.cp.gateInForce then t else base + (k + 1) * c

/-- QBV_CYCLE_START (R314): a cycle begins, and from the first one on an enabled list is in force. -/
def execQbvCycleStart (s : State) : Out :=
  if !portServes s ∨ !s.cp.qbvEn ∨ s.cp.qbvCycle = 0 then .next s
  else
    let s := advanceTo (cycleStart s (now s)) s
    .next { s with cp := { s.cp with gateInForce := true } }

/-- CONTROL_LINK_UP (R305). -/
def execControlLinkUp (sqi : BitVec 3) (s : State) : Out :=
  if s.msc.mode = .off then .next s else .next { s with cp := { s.cp with linkUp := true, sqi := sqi } }

/-- CONTROL_LINK_DOWN (R327, R328): hall time goes to holdover; the sessions last. -/
def execControlLinkDown (s : State) : Out :=
  if s.cp.linkUp = false then .next s
  else
    let s := { s with cp := { s.cp with linkUp := false, linkDrops := sat 0xFF (s.cp.linkDrops + 1) } }
    .next (syncLoss (raise .cp 1 {} s))

/-! ### Frames that are no command (R307, R311) -/

/-- The request fields that a reply to a raw frame echoes. -/
def rawRequest (f : RawFrame) : Req := { src := f.src, bcast := f.bcast, session := f.session, seq := f.seq, plen := f.plen }

/-- Check 1 of R311: accepted under R307. -/
def frameAccepted (s : State) (f : RawFrame) : Bool :=
  f.toModule && f.etherType == 0x88B5 && (match f.vid with | none => true | some v => v == s.cp.vid) && (!f.bcast || f.opcode == 1)

/-- Check 4 of R311. -/
def headerFits (f : RawFrame) : Bool :=
  let b (i : Nat) : Bool := f.flags.toNat.testBit i
  !b 0 && !b 2 && !b 3 && !b 6 && !b 7 && decide (f.plen ≤ 1408)
    && (!b 4 || (fragmented f.opcode.toNat && decide (1 ≤ f.frag.2.1) && decide (f.frag.2.1 ≤ 8) && decide (f.frag.1 < f.frag.2.1)
          && decide (f.frag.2.2 ≤ 4096)))
    && (!b 5 || f.opcode == 0x0310)

/-- UNRECOGNISED_CONTROL_FRAME (R307, R311): the first of checks 1 to 5 that fails; an 802.1AS frame goes to the TSL. -/
def execUnrecognisedControlFrame (f : RawFrame) (s : State) : Out :=
  let bare (st : BitVec 16) (res : List Byte) (s : State) : State := reply (rawRequest f) f.opcode.toNat false false st 0 res s
  if !portServes s then .next s
  else if f.toModule ∧ f.etherType = 0x88F7 then .next s
  else if !frameAccepted s f then .next (dropFrame s)
  else if f.payload < 16 + f.plen + (if f.flags.toNat.testBit 1 then 32 else 0) then .next (dropFrame s)
  else if f.version ≠ 1 then .next (bare Status.versionUnsupported [1] s)
  else if !headerFits f then .next (bare Status.headerInvalid [] s)
  else if !opcodeListed f.opcode.toNat then .next (bare Status.opcodeUnknown [] s)
  else .next s

/-! ### Submission entries (R337, R339) -/

/-- Opcodes of submission entries. -/
def entryOpcode (o : Nat) : Bool :=
  [0x0201, 0x0202, 0x0203, 0x0204, 0x0205, 0x0206, 0x0401, 0x0501, 0x0502, 0x0701, 0x0702, 0x0703, 0x0704, 0x0801, 0x0802, 0x0F02].contains o

/-- The parameter bytes of a submission entry, or the status of what keeps them from being read. -/
def entryParams (s : State) (e : List Byte) : BitVec 16 × List Byte :=
  let n := field e 4 2
  if (field e 1 1) % 2 = 0 then
    if 48 < n then (Status.paramLength, []) else (Status.ok, (e.drop 16).take n)
  else if n = 0 ∨ 4096 < n then (Status.paramLength, [])
  else
    let a := field e 16 8
    if touches s a n false memBars then (Status.addressInvalid, [])
    else if touches s a n false (fun p => p == .failing) then (Status.hwStackFailed, [])
    else (Status.ok, readBytes s a n)

/-- The command of a fetched entry executed as in an OPERATE session (R339): opcode, length, state. -/
def runEntry (who : Origin) (e : List Byte) (s : State) : State :=
  let o := field e 2 2
  let bad (st : BitVec 16) : State := complete who (st, 0, []) s
  if field e 0 1 ≠ 1 ∨ 1 < field e 1 1 then bad Status.paramInvalid
  else if !entryOpcode o then bad Status.opcodeUnknown
  else
    let p := entryParams s e
    if p.1 ≠ Status.ok then bad p.1
    else match jobOf o p.2 with
      | none => bad Status.opcodeUnknown
      | some j =>
        if !lengthFits s (field e 4 2) j then bad Status.paramLength
        else if !stateAllows s.msc.mode o then complete who (Status.notReady, 0, []) (stateRefused o s)
        else submit who j s

/-- SUBMISSION_ENTRY (R337, R339): the entry at the head of a submission ring, once its completion entry is reserved. -/
def execSubmissionEntry (ring : BitVec 14) (s : State) : Out :=
  let i := ring.toNat
  let r := ringOf s i
  let l := r.linked.toNat
  if !portServes s ∨ s.msc.mode = .recovery ∨ r.state ≠ .enabled ∨ r.type ≠ .submission ∨ r.used = 0 ∨ !ringTakes s l 1 then .next s
  else
    let a := r.entry r.cons
    if !serves s a 64 false then .next (ringEvent 5 i (faultRing i 3 s))
    else
      let e := readBytes s a 64
      let s := modRing i (fun r => { r with cons := r.cons + 1 }) (modRing l (fun q => { q with reserved := q.reserved + 1 }) s)
      .next (runEntry (.ring i (BitVec.ofNat 64 (field e 8 8))) e s)

end Sys2Proof.Machine
end

