-- ==== Sys2Proof/Machine/Almanac.lean ====
section
/-! DEFINITION. Almanac pages: the merged order, the placement of tasks beside the frame, the ramp governor, the entries, their digest and their
copy (R174 to R180, R186, R224, R252, R466). -/

namespace Sys2Proof.Machine

/-- What the epoch that opens at `t` is: its number, its lag, whether one lapsed before it, its length (R181, R189, R190). -/
structure Opening where
  epoch : Nat
  lag : Nat
  lapsed : Bool
  len : BitVec 8

/-- The epoch that opens at hall time `t` in the place of the hall-time boundary that comes next. -/
def openingAt (s : State) (t : Nat) : Opening :=
  let h := nextBoundary s
  let len := if s.tsl.lenNext ≠ s.tsl.len ∧ s.tsl.lenAt ≤ h then s.tsl.lenNext else s.tsl.len
  let l := len.toNat * 50000
  if t < h + l then { epoch := h / l, lag := t - h, lapsed := false, len := len }
  else { epoch := h / l + 1, lag := t - h - l, lapsed := true, len := len }

/-! ### What a page may place (R162, R177 to R179, R229) -/

/-- A run of the graph is due at epoch `e` (R162). -/
def dueAt (g : Graph) (e : Nat) : Bool := g.period != 0 && e % g.period == g.phase && decide (g.admitted < e)

/-- An operand of the graph lies in a range that `p` names (R229). -/
def operandIn (s : State) (g : Graph) (p : Nat → Nat → Bool) : Bool :=
  ((List.range g.tasks.length).zip g.tasks).any (fun q => (taskRanges s g q.1 q.2).any (fun r => p r.1 r.2.1))

/-- A range with a byte in HBM3E or in the spill range. -/
def inHbmOrSpill (a n : Nat) : Bool :=
  n != 0 && (decide (a < hbmEnd) || (decide (a < lpddrEnd) && decide (spillBase < a + n)))

/-- Stacks in FAILING. -/
def failingStacks (s : State) : List Nat := (List.range 10).filter (fun n => stackState s n = .failing)

/-- HBM3E changes at the next boundary: a stack has failed, or the tier that holds the spill range has (R228, R231). -/
def hbmChanges (s : State) : Bool := !(failingStacks s).isEmpty || (s.lms.failing && s.hms.spill.isSome)

/-- The graph is put in HELD at the next boundary (R229, R231, R232). -/
def becomesHeld (s : State) (g : Graph) : Bool :=
  (hbmChanges s && operandIn s g inHbmOrSpill) || (s.lms.failing && operandIn s g (onLpddr s))

/-- A run of the graph starts at the next boundary, of epoch `e`, if its entries can be reserved. -/
def willStart (s : State) (e : Nat) (g : Graph) : Bool :=
  g.run.isNone && !g.held && !g.releasing && (g.resume || !(g.paused || s.seq.stopBoundary)) && !becomesHeld s g
    && (!g.waitDue.isEmpty || decide (g.requests ≠ 0) || dueAt g e)

/-- A task of the graph that a page without logical stalls does not place: a pass group, or one downstream of it (R179). -/
def stalled (g : Graph) (t : Nat) : Bool := (upstream g t).any (fun u => (taskAt g u).kind == kPassGroup)

/-- The tasks a page may place: graph, the run's due boundary, and the tasks left in list order (R177 to R179). -/
def pageHeads (s : State) (o : Opening) : List (Graph × Nat × List Nat) :=
  let placeable (g : Graph) (ts : List Nat) : List Nat := if s.seq.next.stalls = 0 then ts.filter (fun t => !stalled g t) else ts
  s.seq.graphs.filterMap (fun g =>
    match g.run with
    | some r =>
      if g.held || becomesHeld s g then none
      else some (g, r.due, placeable g (g.order.filter (fun t => (endOf g t).isNone)))
    | none =>
      if willStart s o.epoch g then some (g, g.waitDue.headD (o.epoch * (o.len.toNat * 50000)), placeable g g.order) else none)

/-- The list of a TRANSFER with LIST, as read now (R466); none where it cannot be read. -/
def readList (s : State) (g : Graph) (t : Nat) : Option (List Byte) :=
  let x := taskAt g t
  let n := 32 * x.d0.toNat
  if rangeStatus s g x.a.toNat false n = Status.ok then some (taskBytes s g x.a.toNat n) else none

/-- The task is a TRANSFER with LIST. -/
def hasList (g : Graph) (t : Nat) : Bool := (taskAt g t).kind == kTransfer && tdList (taskAt g t)

/-! ### The merged order (R174) -/

/-- The key of a head in the merged order (R174): P, due boundary + D, GD_GRAPH_ID. -/
def headKey (g : Graph) (due t : Nat) : Nat × Nat × Nat := ((taskAt g t).effP, due + (taskAt g t).effD, g.id.toNat)

/-- The list whose head has the least key, taken out of `ls`. -/
def leastHead : List (Graph × Nat × List Nat) → Option ((Graph × Nat × List Nat) × List (Graph × Nat × List Nat))
  | [] => none
  | (g, due, ts) :: r =>
    match ts, leastHead r with
    | [], m => m
    | _ :: _, none => some ((g, due, ts), r)
    | t :: _, some ((g', due', ts'), r') =>
      if keyBefore (headKey g' due' (ts'.headD 0)) (headKey g due t) then some ((g', due', ts'), (g, due, ts) :: r')
      else some ((g, due, ts), r)

/-! ### Placement (R177, R178, R186, R252) -/

/-- The plan of the next page for a task: its pair from the set plan, and the stalls that the page uses. -/
def planned (s : State) (g : Graph) (t : Nat) : TaskPlan :=
  let served := (List.range 768).filter (fun l => !s.seq.next.without.contains l)
  match s.seq.next.plan.find? (fun p => p.1 = g.slot ∧ p.2.1 = t) with
  | some p => { mset := p.2.2.1, n := p.2.2.2, served := served }
  | none => { served := served }

/-- The work cycle from which every producer of a task of a page is visible (R177). -/
def visibleFrom (g : Graph) (page : List Placement) (t : Nat) : Option Nat :=
  producersVisible g page (fun u => (endOf g u).isSome) t

/-- The head `t` of a list placed in a page of `span` work cycles (R177): a collective no earlier than its rendezvous cycle (R252). -/
def placeHead (s : State) (span : Nat) (page : List Placement) (g : Graph) (t : Nat) : Option Placement :=
  let x := taskAt g t
  let list := if hasList g t then (readList s g t).getD [] else []
  let from_ (w : Nat) : Nat := if x.kind = kCollective ∧ x.d1 ≠ 0 then max w (cdRendezvous (collOf s g t)) else w
  (visibleFrom g page t).bind (fun w => placeTask s span (some s.seq.page.activity) page g t (planned s g t) list (from_ w))

/-- Placement by the merged order (R174, R177, R178): a head that cannot be placed has the rest of its list wait. The page, and the graphs
that wait. -/
def placeHeads (s : State) (span : Nat) : Nat → List (Graph × Nat × List Nat) → List Placement → List Nat → List Placement × List Nat
  | 0, _, page, wait => (page, wait)
  | f + 1, ls, page, wait =>
    match leastHead ls with
    | none => (page, wait)
    | some ((g, due, ts), rest) =>
      match ts with
      | [] => placeHeads s span f rest page wait
      | t :: r =>
        match if page.length < 8192 then placeHead s span page g t else none with
        | some q => placeHeads s span f ((g, due, r) :: rest) (page ++ [q]) wait
        | none => placeHeads s span f rest page (g.slot :: wait)

/-- The tasks of the next page: those upstream of a collective before all others, each part in merged order (R174, R177, R252). -/
def placeTasks (s : State) (o : Opening) : List Placement :=
  let hs := pageHeads s o
  let fuel := (hs.map (fun h => h.2.2.length + 1)).sum
  let span := spanOf o.len.toNat
  let a := placeHeads s span fuel (hs.map (fun h => (h.1, h.2.1, beforeCollectives h.1 h.2.2))) [] []
  let rest := hs.filterMap (fun h =>
    if a.2.contains h.1.slot then none
    else some (h.1, h.2.1, h.2.2.filter (fun t => !(beforeCollectives h.1 h.2.2).contains t)))
  (placeHeads s span fuel rest a.1 []).1

/-- The collectives of a page that start after their rendezvous cycle because a task upstream is not visible by it (R252). -/
def missedRendezvous (s : State) (page : List Placement) : List (Nat × Nat) :=
  page.filterMap (fun q =>
    match graphAt s q.slot with
    | none => none
    | some g =>
      let x := taskAt g q.task
      match visibleFrom g page q.task with
      | some w => if x.kind = kCollective ∧ x.d1 ≠ 0 ∧ cdRendezvous (collOf s g q.task) < w then some (q.slot, q.task) else none
      | none => none)

/-- The lists of the placed TRANSFER tasks, as read now (R466). -/
def readLists (s : State) (page : List Placement) : List (Nat × Nat × Option (List Byte)) :=
  page.filterMap (fun q =>
    match graphAt s q.slot with
    | none => none
    | some g => if hasList g q.task then some (q.slot, q.task, readList s g q.task) else none)

/-! ### The ramp governor (R186) -/

/-- The least activities over windows, each no lower than `xs` in its window, that fall by 0.01 at most from one window to the next (forward), `a` being
the activity before them. -/
def fallSweep (a : Nat) : List Nat → List Nat
  | [] => []
  | x :: r => let y := max x (a - rampStep); y :: fallSweep y r

/-- The activities of an arcade's windows under the ramp governor: the least that carry the passes `xs` and change by 0.01 at most from window to
window, `a` being that of the window before the page (R186; log 90). -/
def governed (a : Nat) (xs : List Nat) : List Nat := (fallSweep 0 (fallSweep a xs).reverse).reverse

/-- A piece of work cycles, start and length, without those of `b`. -/
def cutPiece (b p : Nat × Nat) : List (Nat × Nat) :=
  [(p.1, min (p.1 + p.2) b.1 - p.1), (max p.1 (b.1 + b.2), p.1 + p.2 - max p.1 (b.1 + b.2))].filter (fun q => q.2 ≠ 0)

/-- The work cycles from `lo` to `hi` that are no reserve work cycles (R90). -/
def offReserve (lo hi : Nat) : List (Nat × Nat) :=
  ((List.range ((hi + 63) / 64 - lo / 64)).map (fun j =>
    let a := (lo / 64 + j) * 64
    (max lo a, min hi (a + 63) - max lo a))).filter (fun q => q.2 ≠ 0)

/-- The first `n` work cycles of these pieces. -/
def takeCycles : Nat → List (Nat × Nat) → List (Nat × Nat)
  | _, [] => []
  | n, p :: r => if n = 0 then [] else if n ≤ p.2 then [(p.1, n)] else p :: takeCycles (n - p.2) r

/-- The work cycles of window `k` in which nothing drives the columns of logical stall `l` and which are no reserve work cycles. -/
def freeCycles (span k l : Nat) (es : List AlmanacEntry) : List (Nat × Nat) :=
  (es.filter (fun e => e.unit == l && e.op != opLoad)).foldl (fun ps e => ps.flatMap (cutPiece (e.start, e.len)))
    (offReserve (20000 * k) (min span (20000 * (k + 1))))

/-- RAMP_FILL entries of `n` stall work cycles in window `k`, on the stalls `ls` in order. -/
def fillWindow (span k : Nat) (es : List AlmanacEntry) : Nat → List Nat → List AlmanacEntry
  | _, [] => []
  | n, l :: r =>
    if n = 0 then []
    else
      let ps := takeCycles n (freeCycles span k l es)
      ps.map (fun p => { start := p.1, unit := l, op := opRampFill, len := p.2 }) ++ fillWindow span k es (n - (ps.map (fun p => p.2)).sum) r

/-- Activities of arcade `a` over the windows of a page that holds `es`, as the governor builds it. -/
def arcadeActivity (span : Nat) (before : List Nat) (es : List AlmanacEntry) (a : Nat) : List Nat :=
  governed (before.getD a 0) ((List.range (rampWindows span)).map (fun k => activityOf span a k es))

/-- The RAMP_FILL entries of a page over the stalls in service (R186). -/
def rampFills (span : Nat) (before : List Nat) (served : List Nat) (es : List AlmanacEntry) : List AlmanacEntry :=
  (List.range 24).flatMap (fun a =>
    let ys := arcadeActivity span before es a
    ((List.range ys.length).zip ys).flatMap (fun q =>
      let lack := q.2 - activityOf span a q.1 es
      fillWindow span q.1 es (ceilDiv (lack * inWindow20k q.1 0 span) 20000) (served.filter (fun l => arcadeOfLogical l = a))))

/-! ### The frame (R54, R176, R224) -/

/-- The entries of one unit at every multiple of `every` in the span. -/
def everyEntries (span every unit op len : Nat) : List AlmanacEntry :=
  (List.range (ceilDiv span every)).map (fun k => { start := every * k, unit := unit, op := op, len := len })

/-- The frame entries of a page (R176, R224): memory refresh and hold refresh (log 90). -/
def frameEntries (span : Nat) : List AlmanacEntry :=
  (List.range 10).flatMap (fun k => everyEntries span 1900 (uHbm k) opHbmRefresh (Config.refreshLen 0))
    ++ everyEntries span 960 uLpddr opLpddrRefresh (Config.refreshLen 1)
    ++ (List.range 768).flatMap (fun l => everyEntries span refreshPeriod l opHoldRefresh refreshCycles)

/-! ### The copy of a page (R180, R342) -/

/-- The 16 bytes of an entry (R180). -/
def entryBytes (e : AlmanacEntry) : List Byte :=
  le 4 (e.start % 2 ^ 25) ++ le 2 e.unit ++ [BitVec.ofNat 8 e.op, BitVec.ofNat 8 (setCode e.mset)]
    ++ (match e.task with
        | some k => le 2 k.2 ++ le 2 k.1
        | none => le 4 0xFFFFFFFF)
    ++ le 4 e.len

/-- The bytes of a page's entries: those on the units that R180 codes. -/
def pageBytes (es : List AlmanacEntry) : List Byte := (es.filter (fun e => decide (e.unit < 0x0800))).flatMap entryBytes

/-- A 64-byte entry for every four page entries, the last one filled with zeros (R342). -/
def dumpEntries : Nat → List Byte → List (List Byte)
  | 0, _ => []
  | f + 1, bs => if bs.isEmpty then [] else fit 64 (bs.take 64) :: dumpEntries f (bs.drop 64)

/-- The page of epoch `e` copied to the ring that is armed (R180, R342). -/
def dumpPage (e : Nat) (bytes : List Byte) (s : State) : State :=
  match s.seq.dumpTo with
  | none => s
  | some r =>
    let head := [0x51] ++ zeros 7 ++ le 8 e ++ le 4 (bytes.length / 16) ++ le 8 s.seq.next.digest.toNat
    telemetryPush r (fit 64 head :: dumpEntries bytes.length bytes) { s with seq := { s.seq with dumpTo := none } }

/-! ### The build (R178, R179, R424) -/

/-- The page with its entries: `placed` are its tasks. -/
def pageOf (s : State) (span : Nat) (placed : List Placement) : Page :=
  let work := placed.flatMap (fun q => q.entries)
  let before := s.seq.page.activity
  let served := (List.range 768).filter (fun l => !s.seq.next.without.contains l)
  let fill := rampFills span before served work
  let es := frameEntries span ++ work ++ fill
  { s.seq.next with
    tasks := placed.map (fun q => (q.slot, q.task))
    lists := readLists s placed
    entries := es
    activity := (List.range 24).map (fun a => ((arcadeActivity span before work a).getLast?).getD (before.getD a 0))
    length := lastEnd 0 (work ++ fill)
    digest := BitVec.ofNat 64 (ofLe ((le 32 (Config.shake256 (pageBytes es)).toNat).take 8)) }

/-- The next page built for the stalls in service at the slot's start (R178 to R180, R191, R252); a page not built in time is a failure of
a sequencer microcode in trial (R424), and the epoch's page then places nothing. -/
def buildPage (unbuilt : Bool) (op : Opening) (s : State) : State :=
  if unbuilt then trialRevert 1 s
  else
    let placed := placeTasks s op
    let next := pageOf s (spanOf op.len.toNat) placed
    let missed := missedRendezvous s placed
    let changed := match s.seq.built with | some n => decide (n ≠ next.stalls) | none => false
    let s := { s with seq := { s.seq with next := next, built := some next.stalls } }
    let s := if changed then raise .seq 4 {} s else s
    let s := if 8192 ≤ placed.length then raise .seq 6 {} s else s
    let s := each missed (fun m s => raise .ole 7 { graph := some m.1, task := m.2 } s) s
    dumpPage op.epoch (pageBytes next.entries) s

end Sys2Proof.Machine
end

