-- ==== Sys2Proof/Machine/Epochs.lean ====
section
/-! DEFINITION. Epochs on hall time: the fallow slot with its ordered steps, set plans, boundaries and the runs that start at them, overruns,
late boundaries and lapses (R97 to R101, R162, R171, R181 to R191, R228 to R232). -/

namespace Sys2Proof.Machine

/-! ### Step 1: the span counters (R100, R103, R183, R467) -/

/-- The replay rate of a span in whole units of 2^-16 (R100, R103; log 83); with no stall pass it is open. -/
def replayRate (c : PsrCounts) : Nat :=
  if c.passes = 0 then Config.emptyRate.toNat else sat 0xFFFF (c.replayed * 65536 / c.passes)

/-- The PSR counts latched, and the rate watch that follows from them (R100). A span without passes replayed none (log 52). -/
def latchPsr (s : State) : State :=
  let c := s.psr.cur
  let r := if c.passes = 0 then 0 else replayRate c
  let s := { s with psr := { s.psr with shown := { c with rate := replayRate c }, cur := {} } }
  if 0x100 < r then raise .psr 5 {} { s with seq := { s.seq with rateWatch := true } }
  else if r ≤ 0x40 then { s with seq := { s.seq with rateWatch := false } }
  else s

/-- PSR_RATE_TRIGGER was set at this latch. -/
def rateTriggered (c : PsrCounts) : Bool := c.passes != 0 && decide (0x100 < replayRate c)

/-- The counts of the other blocks latched (R135, R160, R161, R234, R235, R263). -/
def latchBlocks (s : State) : State :=
  { s with
    squ := { s.squ with shown := s.squ.cur, cur := {} }
    lge := { s.lge with shown := s.lge.cur, cur := {} }
    xl := { s.xl with shown := s.xl.cur, cur := {} }
    hms := { s.hms with
      retriesShown := s.hms.retries, retries := 0, persistShown := s.hms.persist, persist := 0, stgShown := s.hms.stg, stg := 0
      hbm := s.hms.hbm.map (fun k => { k with shown := sat 0xFFFF k.cur, cur := 0 }) }
    lms := { s.lms with retriesShown := s.lms.retries, retries := 0, persistShown := s.lms.persist, persist := 0 }
    ole := { s.ole with
      shown := s.ole.cur, cur := {}
      lanes := s.ole.lanes.map (fun l => { l with failsShown := sat 0xFFFF l.fails, fails := 0 }) } }

/-- The epoch snapshot (R342, R379), in every HIF_TC_PERIOD-th epoch. -/
def snapshot (s : State) : State :=
  if s.hif.tcEn && s.seq.epoch % s.hif.tcPeriod.toNat == 0 then
    telemetryPush s.hif.tcRing.toNat
      [[0x53] ++ zeros 7 ++ le 8 s.seq.epoch ++ le 8 s.seq.slotStart ++ le 2 s.psr.shown.rate
        ++ tempBytes ((moduleMax s).getD (0, 0, 0)).1 ++ [BitVec.ofNat 8 (levelInForce s), BitVec.ofNat 8 (sat 255 s.cal.epbModule)]
        ++ le 2 (sat 0xFFFF s.tps.p1s) ++ le 4 (readSeq s 0x0020).toNat ++ le 4 (sat 0xFFFFFFFF s.seq.lag)
        ++ le 4 (sat 0xFFFFFFFF (s.psr.shown.opt + s.psr.shown.elec)) ++ zeros 20] s
  else s

/-! ### Step 2: the set plan (R97 to R101) -/

/-- Effective phase bits at n = 1 for the choice (R99), in 1/16000 bit: the measured figure, if there is one, and E(T, 1). -/
def effectiveBits (s : State) : Int :=
  let t := tableBits (photonicMax s)
  if s.cal.epbModule = 0 then t else min (s.cal.epbModule * 1000 : Int) t

/-- The integrations, and log2 of each (R62). -/
def integrations : List (Nat × Nat) := [(1, 0), (2, 1), (4, 2), (8, 3), (16, 4)]

/-- The margin of a set at an integration of log2 `k` (R99), in 1/16000 bit. -/
def margin (e : Int) (m : MSet) (k : Nat) : Int := e + 8000 * k - 1600 * setNeeded m

/-- The better of two pairs (R99, R102): fewer row-symbols for each output, then the smaller n, then the earlier set. -/
def betterPair (x y : MSet × Nat) : Bool :=
  let a := setChannels x.1 * x.2
  let b := setChannels y.1 * y.2
  decide (a < b) || (a == b && (decide (x.2 < y.2) || (x.2 == y.2 && decide (setCode (some x.1) < setCode (some y.1)))))

/-- The pair a pass group runs in the next epoch, and that no eligible one was found (R99 to R101): `ran` is the set it ran in this epoch. -/
def choosePair (e : Int) (watch : Bool) (ran : Option MSet) (f : WFmt) : (MSet × Nat) × Bool :=
  let w := warmSet f
  if watch then
    match integrations.find? (fun q => decide (4800 ≤ margin e w q.2)) with
    | some q => ((w, q.1), false)
    | none => ((w, 16), decide (margin e w 4 < 0))
  else
    let ok := (setsAllowed f).flatMap (fun m => integrations.filterMap (fun q =>
      if (if ran = some m then 0 else 1600) ≤ margin e m q.2 then some (m, q.1) else none))
    match ok with
    | [] => ((w, 16), true)
    | x :: r => (r.foldl (fun b y => if betterPair y b then y else b) x, false)

/-- The set a pass group ran in this epoch. -/
def ranSet (s : State) (slot task : Nat) : Option MSet :=
  if s.seq.ran.contains (slot, task) then
    (s.seq.page.plan.find? (fun p => p.1 = slot ∧ p.2.1 = task)).map (fun p => p.2.2.1)
  else none

/-- The pass groups of the resident graphs: slot, task, format. -/
def passGroups (s : State) : List (Nat × Nat × WFmt) :=
  s.seq.graphs.flatMap (fun g => (((List.range g.tasks.length).zip g.tasks).filter (fun p => p.2.kind == kPassGroup)).map
    (fun p => (g.slot, p.1, tdWfmt p.2)))

/-- Logical stalls that no stall serves (R71, R179). -/
def outOfService (s : State) : List Nat := (List.range 768).filter (fun l => (servedBy s l).isNone)

/-- The set plan of the next epoch, held in the next page; PSR_MARGIN_SHORT and SEQ_PLAN_CHANGED follow (R99 to R101, R192). -/
def setPlan (s : State) : State :=
  let e := effectiveBits s
  let picks := (passGroups s).map (fun q => (q.1, q.2.1, choosePair e s.seq.rateWatch (ranSet s q.1 q.2.1) q.2.2))
  let plan : List (Nat × Nat × MSet × Nat) := picks.map (fun p => (p.1, p.2.1, p.2.2.1.1, p.2.2.1.2))
  let short := picks.filter (fun p => p.2.2.2)
  let same : Bool := decide (plan = s.seq.page.plan)
  let s := each short (fun p s => raise .psr 6 { graph := some p.1, task := p.2.1 } s) s
  let s := { s with seq := { s.seq with next := {
    plan := plan, stalls := stallsInService s, without := outOfService s, marginShort := !short.isEmpty } } }
  if same then s else raise .seq 5 {} s

/-! ### Steps 3 and 4: probes, preloads and reloads (R53, R56, R65 to R70, R149) -/

/-- The drop rings of arcades gone dark are parked (R70). -/
def parkDark (s : State) : State :=
  each s.cls.dark (fun a s => each (List.range 34) (fun p s => modStall (34 * a + p) (fun st => { st with drop := .parked }) s) s) s

/-- The physical stall that serves `l` from the boundary on: the spare prepared for it, if one is (R67). -/
def servesNext (s : State) (l : Nat) : Option Nat := (servedBy s l).map (fun g => (stallAt s g).outSpare.getD g)

/-- The shadow hold of stall `g` preloaded with a tile, to be swapped in the first symbol of the epoch; a load among `aborts` is aborted, and the
stall keeps its front hold (R46, R53, R57, R264). -/
def preloadStall (aborts : List Nat) (g : Nat) (m : MSet) (t : Tile) (s : State) : State :=
  if aborts.contains g then modStall g (fun st => { st with preload := false }) (loadAbort g s)
  else modStall g (fun st => { st with shadow := { loadedHold s g m t with valid := true }, loading := false, preload := true }) s

/-- The preloads for the first tiles of the new page. -/
def preloadTiles (o : SlotObs) (s : State) : State :=
  each o.preloads (fun p s => match servesNext s p.1 with | some g => preloadStall o.aborts g p.2.2 p.2.1 s | none => s) s

/-- Every stall with a valid front hold reloads its shadow hold under the pending edition (R56): the tile preloaded, else the front's. -/
def reloadAll (o : SlotObs) (s : State) : State :=
  each (List.range 816) (fun g s =>
    let st := stallAt s g
    if st.front.valid then
      let h := if st.preload then st.shadow else st.front
      match h.mset with
      | some m => preloadStall o.aborts g m h.tile s
      | none => s
    else s) s

/-! ### Step 5: calibration (R272 to R280) -/

/-- The readings, spare checks and fits of step 5 (R272 to R280, R287). An urgent edition is pending 4.674 us after the slot's start; with 0.5 us or more
left before the boundary the array is reloaded under it in the same slot, else under an edition already marked. -/
def calibrateSlot (o : SlotObs) (urgent : Bool) (s : State) : State :=
  let s := dropHeaters (each o.sources setSource s)
  let s := spareChecks o (readStalls o s)
  if urgent then
    let s := fitUrgent s
    if s.seq.slotStart + 5174 ≤ slotEnd s then reloadAll o (markPending s)
    else if s.tdw.trimPending then reloadAll o s else s
  else if s.cal.selfTrim then fitOrdinary s
  else s

/-! ### The fallow slot (R183, R189) -/

/-- Every task of the page whose run is in progress has ended, and no replay is left (R183). -/
def workDone (s : State) : Bool :=
  (replaysPending s).isEmpty && s.psr.flights.isEmpty
    && s.seq.page.tasks.all (fun q =>
      match graphAt s q.1 with
      | some g => g.run.isNone || (endOf g q.2).isSome
      | none => true)

/-- Work cycles of the epoch after which its fallow slot begins (R183): those of its page once all its work has completed, and 0.98 of its nominal ones
at the latest. -/
def slotCycles (s : State) : Nat :=
  let span := spanOf s.tsl.len.toNat
  if workDone s then min s.seq.page.length span else span

/-- Hall time at which the fallow slot begins, if the level in force lasts. -/
def slotTime (s : State) : Nat := timeOfWork (s.seq.workAt + slotCycles s) s

/-- An epoch is open whose fallow slot has not begun, and no hold lasts. -/
def awaitsSlot (s : State) : Bool := running s && s.seq.boundary != 0 && !s.seq.fallow && !held s

/-- The slot begins: replays that still wait go to the replay units, and a collective that no task in progress holds leaves the engines (R91, R257). -/
def beginSlot (short : Bool) (s : State) : State :=
  dropColl (endSpan { s with seq := { s.seq with fallow := true, short := short, slotStart := now s } })

/-- Steps 1 to 4 of a slot that ends at `stop` (R183, R266, R403); in an urgent round the reload of step 5 takes the place of that of step 4 (R277). -/
def slotSteps (o : SlotObs) (stop : Nat) (urgent : Bool) (s : State) : State :=
  let s := latchBlocks (latchPsr s)
  let s := countCalm (countLow (latchFigures (measureRows s)))
  let s := snapshot (if o.incomplete then s else markPending s)
  let s := setPlan (unitResets o.stuck (fadeCheck s))
  let s := buildPage o.unbuilt (openingAt s stop) (parkDark (probeAll o.probes s))
  let s := preloadTiles o s
  buildSubsts (if s.tdw.trimPending && !urgent then reloadAll o s else s)

/-- FALLOW_SLOT_BEGIN (R29, R183): the slot begins when the epoch's work and replays have completed, or at nominal work cycle 0.98 N, if that is 5 us or
more before the hall-time boundary. -/
def execFallowSlotBegin (o : SlotObs) (s : State) : Out :=
  if awaitsSlot s ∧ ¬ s.seq.overrun ∧ slotTime s + 5000 ≤ nextBoundary s then
    let s := advanceTo (slotTime s) s
    let urgent := urgentRound (rateTriggered s.psr.cur) s
    let s := calibrateSlot o urgent (slotSteps o (nextBoundary s) urgent (beginSlot false s))
    .next (retestLanes o.lanePasses (takeovers o.noTime o.takeoverDark s))
  else .next s

/-- EPOCH_OVERRUN (R188): 5 us before the hall-time boundary the fallow slot has not begun. -/
def execEpochOverrun (s : State) : Out :=
  if running s ∧ s.seq.boundary ≠ 0 ∧ ¬ s.seq.fallow ∧ ¬ s.seq.overrun then
    let s := advanceTo (nextBoundary s - 5000) s
    .next (raise .seq 0 {} { s with seq := { s.seq with overrun := true, overruns := sat 0xFFFFFFFF (s.seq.overruns + 1) } })
  else .next s

/-- SHORT_FALLOW_SLOT (R189): after an overrun, 5 us from the completion of the epoch's work, with steps 1 to 4 alone. -/
def execShortFallowSlot (o : SlotObs) (s : State) : Out :=
  if awaitsSlot s ∧ s.seq.overrun then
    let s := advanceTo (slotTime s) s
    .next (skipReadings (slotSteps o (now s + 5000) false (beginSlot true s)))
  else .next s

/-! ### Boundaries (R33, R53, R56, R162, R171, R181, R190, R228 to R232, R322) -/

/-- One failed stack leaves for the spill map, or HBM3E leaves service as a whole (R228, R231). -/
def stackLeaves (n : Nat) (s : State) : State :=
  let s := { s with
    hms := { s.hms with hbm := update s.hms.hbm n (fun k => { k with state := .failed }) }
    mem := s.mem.filter (fun c => !(decide (c.1 < hbmEnd) && stackOf c.1 == n)) }
  if s.hms.spill.isNone && s.lms.tier == .inService && !s.hms.outOfService then
    raise .lms 3 {} (raise .hms 3 { unit := some n } { s with
      hms := { s.hms with spill := some n }, lms := { s.lms with tier := .spillReserved } })
  else if s.hms.outOfService then s
  else raise .hms 4 { unit := some n } { s with hms := { s.hms with outOfService := true } }

/-- The LPDDR5X tier leaves service, and HBM3E with it while the spill map is in effect (R231, R232). -/
def tierLeaves (s : State) : State :=
  if !s.lms.failing then s
  else
    let s := { s with lms := { s.lms with failing := false, tier := .failed } }
    if s.hms.spill.isSome && !s.hms.outOfService then raise .hms 4 {} { s with hms := { s.hms with outOfService := true } } else s

/-- Tasks left in the run of a graph put in HELD end (log 53), and the graph is HELD (R229). -/
def holdGraph (slot : Nat) (s : State) : State :=
  modGraph slot (fun g => { g with held := true }) (endAllTasks slot Status.hwStackFailed s)

/-- What a boundary does about memories that failed (R228 to R232). -/
def memoryBoundary (s : State) : State :=
  let slots := (s.seq.graphs.filter (fun g => !g.held && becomesHeld s g)).map (fun g => g.slot)
  let failed := failingStacks s
  each slots holdGraph (each failed stackLeaves (tierLeaves s))

/-- The pending edition becomes current, with its slicer zeros (R56, R266); the samples of the one before it count no more (R276). -/
def trimBoundary (s : State) : State :=
  if s.tdw.trimPending then
    { s with
      tdw := { s.tdw with trimPending := false, edition := s.tdw.edition + 1 }
      cal := { s.cal with trims := s.cal.trimsPending, stalls := s.cal.stalls.map (fun c => { c with readings := 0, taken := [] }) } }
  else s

/-- The preloaded stalls swap in the first symbol of the epoch (R50, R53, R56); one whose reload was aborted keeps its front hold (R57). -/
def swapPreloads (s : State) : State :=
  each ((List.range 816).filter (fun g => (stallAt s g).preload)) (fun g s =>
    let s := modStall g (fun st => { st with preload := false }) s
    if (stallAt s g).shadow.valid then swapStall g s else s) s

/-- The switches that take effect at a boundary (R77, R103, R288), and STOP mode BOUNDARY and GRAPH_RESUME (R322). -/
def switchesBoundary (s : State) : State :=
  { s with
    tdw := { s.tdw with deglitch := s.tdw.deglitchNext }
    psr := { s.psr with optEn := s.psr.optEnNext }
    cal := { s.cal with selfTrim := s.cal.selfTrimNext }
    ole := { s.ole with lanes := s.ole.lanes.map (fun l => { l with epochFails := 0 }) }
    seq := { s.seq with
      stopBoundary := false
      graphs := s.seq.graphs.map (fun g =>
        { g with paused := (g.paused && !g.resume) || (s.seq.stopBoundary && !g.resume), resume := false }) } }

/-- Runs of a graph that do not start: their entries are owed (R190, R229, R322). -/
def oweRuns (slot k : Nat) (st : BitVec 16) (s : State) : State :=
  modGraph slot (fun g => { g with owed := g.owed ++ List.replicate k st }) s

/-- The runs that the lapsed epoch `e` would have started (R190). -/
def lapseRuns (e : Nat) (s : State) : State :=
  each s.seq.graphs (fun g s => if dueAt g e then oweRuns g.slot 1 Status.runLapsed s else s) s

/-- The runs due at the boundary of epoch `e` at hall time `t` (R162, R171): those of a HELD or PAUSED graph do not start. -/
def dueRuns (e t : Nat) (s : State) : State :=
  each s.seq.graphs (fun g s =>
    let k := g.requests + bool (dueAt g e)
    let all := g.waitDue ++ List.replicate k t
    if g.held then oweRuns g.slot all.length Status.hwStackFailed (modGraph g.slot (fun g => { g with requests := 0, waitDue := [] }) s)
    else if g.paused then oweRuns g.slot all.length Status.stopped (modGraph g.slot (fun g => { g with requests := 0, waitDue := [] }) s)
    else modGraph g.slot (fun g => { g with requests := 0, waitDue := all }) s) s

/-- The entries owed are posted in order while the ring has room; SEQ_RUN_WAIT where one waits (R337; log 40). -/
def postOwed (slot : Nat) : List (BitVec 16) → State → State
  | [], s => modGraph slot (fun g => { g with owed := [] }) s
  | st :: r, s =>
    match graphAt s slot with
    | none => s
    | some g =>
      if (ringOf s g.compRing).state = .enabled ∧ ¬ ringTakes s g.compRing 1 then
        raise .seq 3 { graph := some slot } (modGraph slot (fun g => { g with owed := st :: r }) s)
      else postOwed slot r (postNoRun slot st s)

/-- The output units of a run due at `e` take their places (R185). -/
def planOutput (g : Graph) (e : Nat) (s : State) : State :=
  each g.tasks (fun t s =>
    if t.kind == kLaneOut then
      modLane t.lane.toNat (fun l =>
        let us := (List.range t.d0.toNat).map (fun k =>
          let u : OutUnit := { time := e + l.delay.toNat + k * l.period.toNat, index := k }
          u)
        { l with out := l.out ++ us }) s
    else s) s

/-- The entries that a run reserves can be reserved now (R171, R214). -/
def runFits (s : State) (g : Graph) : Bool :=
  ringTakes s g.compRing (runEntries g) && decide ((ringOf s g.compRing).type = .completion)
    && (taggedTasks g == 0 || (ringTakes s g.ledgerRing (2 * taggedTasks g) && decide ((ringOf s g.ledgerRing).type = .ledger)))

/-- The pass groups of a run end at its start where the page has no logical stall (R179). -/
def endStalled (slot : Nat) (s : State) : State :=
  if s.seq.page.stalls ≠ 0 then s
  else
    match graphAt s slot with
    | none => s
    | some g => each g.order (fun t s => if (taskAt g t).kind = kPassGroup then taskEnd slot t Status.hwUnitFault 0 0 s else s) s

/-- SEQ_RUN_WAIT for every due run of the graph that has not started (R171, R192). -/
def runsWait (slot : Nat) (s : State) : State :=
  match graphAt s slot with
  | none => s
  | some g => each g.waitDue (fun _ s => raise .seq 3 { graph := some slot } s) s

/-- The first due run of the graph starts, and the others wait (R162, R171). -/
def startRun (slot : Nat) (s : State) : State :=
  match graphAt s slot with
  | none => s
  | some g =>
    match g.waitDue with
    | [] => s
    | due :: r =>
      if g.releasing then s
      else if g.run.isSome ∨ ¬ runFits s g then runsWait slot s
      else
        let n := runEntries g
        let k := 2 * taggedTasks g
        let run : Run := { number := g.runs, due := due, ends := List.replicate g.tasks.length none, reserved := n, tags := k }
        let s := modRing g.compRing (fun q => { q with reserved := q.reserved + n }) s
        let s := if k = 0 then s else modRing g.ledgerRing (fun q => { q with reserved := q.reserved + k }) s
        let s := modGraph slot (fun g => { g with run := some run, runs := g.runs + 1, waitDue := r }) s
        runsWait slot (endStalled slot (planOutput g due s))

/-- The runs of a boundary: what is due, what is owed, what starts. -/
def startRuns (o : Opening) (s : State) : State :=
  let s := if o.lapsed then lapseRuns (o.epoch - 1) s else s
  let s := dueRuns o.epoch (o.epoch * (o.len.toNat * 50000)) s
  let slots := s.seq.graphs.map (fun g => g.slot)
  let s := each slots (fun k s => match graphAt s k with | some g => if g.owed = [] then s else postOwed k g.owed s | none => s) s
  each slots startRun s

/-- The page that takes effect: the one built in the slot, or one that places nothing. -/
def openingPage (s : State) : Page :=
  if s.seq.fallow then s.seq.next else { stalls := stallsInService s, without := outOfService s, activity := s.seq.page.activity }

/-- The page takes effect, and work cycles and ramp fill are counted from its first work cycle; a logical stall that the page does without needs its
substitution no more (R71, R148, R181). -/
def enterPage (o : Opening) (s : State) : State :=
  let page := openingPage s
  { s with
    tsl := { s.tsl with len := o.len }
    lge := { s.lge with subst := s.lge.subst.filter (fun x => !page.without.contains x.logical) }
    seq := { s.seq with
      epoch := o.epoch, lag := o.lag, boundary := (o.epoch + 1) * (o.len.toNat * 50000), fallow := false, short := false
      overrun := false, page := page, next := {}, ran := [], workAt := s.seq.work, fill := List.replicate 24 0 } }

/-- The epoch opens (R181): spare map, trim edition, set plan and page take effect, and the runs due start. -/
def openEpoch (o : Opening) (s : State) : State :=
  let s := enterPage o s
  let s := if o.lapsed then raise .seq 1 {} { s with seq := { s.seq with lapses := sat 0xFFFFFFFF (s.seq.lapses + 1) } } else s
  let s := spareMapChange (memoryBoundary s)
  let s := settleReplays (switchesBoundary (swapPreloads (trimBoundary s)))
  endOnFaulted (startRuns o (firmwareBoundary s))

/-- EPOCH_BOUNDARY (R181): at the hall-time boundary, after a fallow slot, or the first one. -/
def execEpochBoundary (s : State) : Out :=
  if running s ∧ (s.seq.boundary = 0 ∨ (s.seq.fallow ∧ ¬ s.seq.short)) then
    let t := nextBoundary s
    .next (openEpoch (openingAt s t) (advanceTo t s))
  else .next s

/-- LATE_BOUNDARY (R189, R190): at the end of the short fallow slot. -/
def execLateBoundary (s : State) : Out :=
  if running s ∧ s.seq.boundary ≠ 0 ∧ s.seq.fallow ∧ s.seq.short then
    let t := s.seq.slotStart + 5000
    .next (openEpoch (openingAt s t) (advanceTo t s))
  else .next s

end Sys2Proof.Machine
end

