-- ==== Sys2Proof/Machine/Dispatch.lean ====
section
/-! DEFINITION. The meaning of every command: one arm for each constructor of Instr. -/

namespace Sys2Proof.Machine

/-- The effect of command `i` on `s`, everything but the queue. -/
def exec (i : Instr) (s : State) : Host.Outcome State Fault Refusal :=
  match i with
  | .status r => Sys2Proof.Machine.execStatus r s
  | .time r => Sys2Proof.Machine.execTime r s
  | .temperature r => Sys2Proof.Machine.execTemperature r s
  | .stopBoundary r => Sys2Proof.Machine.execStopBoundary r s
  | .stopNow r => Sys2Proof.Machine.execStopNow r s
  | .result r seq => Sys2Proof.Machine.execResult r seq s
  | .sessionOpen r nonce key role kem => Sys2Proof.Machine.execSessionOpen r nonce key role kem s
  | .sessionConfirm r sig => Sys2Proof.Machine.execSessionConfirm r sig s
  | .sessionClose r => Sys2Proof.Machine.execSessionClose r s
  | .attest r nonce => Sys2Proof.Machine.execAttest r nonce s
  | .eventSubscribe r mask enable => Sys2Proof.Machine.execEventSubscribe r mask enable s
  | .graphSubmit r addr => Sys2Proof.Machine.execGraphSubmit r addr s
  | .graphRun r id => Sys2Proof.Machine.execGraphRun r id s
  | .graphRelease r id => Sys2Proof.Machine.execGraphRelease r id s
  | .graphReadmit r id => Sys2Proof.Machine.execGraphReadmit r id s
  | .graphResume r id => Sys2Proof.Machine.execGraphResume r id s
  | .unitTable r id ring => Sys2Proof.Machine.execUnitTable r id ring s
  | .regRead r addr count => Sys2Proof.Machine.execRegRead r addr count s
  | .regWrite r addr words => Sys2Proof.Machine.execRegWrite r addr words s
  | .memRead r addr len => Sys2Proof.Machine.execMemRead r addr len s
  | .memWrite r addr data => Sys2Proof.Machine.execMemWrite r addr data s
  | .laneUnit r lane capture data => Sys2Proof.Machine.execLaneUnit r lane capture data s
  | .syscalZero v o => Sys2Proof.Machine.execSyscalZero v o s
  | .syscalFull v o => Sys2Proof.Machine.execSyscalFull v o s
  | .syscalCommit v => Sys2Proof.Machine.execSyscalCommit v s
  | .syscalAbandon v => Sys2Proof.Machine.execSyscalAbandon v s
  | .linkGroup r id size index => Sys2Proof.Machine.execLinkGroup r id size index s
  | .linkTrain r ports => Sys2Proof.Machine.execLinkTrain r ports s
  | .frostEnter r => Sys2Proof.Machine.execFrostEnter r s
  | .thaw r => Sys2Proof.Machine.execThaw r s
  | .resetPowerOn r => Sys2Proof.Machine.execResetPowerOn r s
  | .resetCold r => Sys2Proof.Machine.execResetCold r s
  | .resetWarm r => Sys2Proof.Machine.execResetWarm r s
  | .resetFunction r => Sys2Proof.Machine.execResetFunction r s
  | .resetSubsystem r block => Sys2Proof.Machine.execResetSubsystem r block s
  | .powerOff r => Sys2Proof.Machine.execPowerOff r s
  | .calendarSet r secs ns => Sys2Proof.Machine.execCalendarSet r secs ns s
  | .updateBegin r manifest => Sys2Proof.Machine.execUpdateBegin r manifest s
  | .updateData r offset data => Sys2Proof.Machine.execUpdateData r offset data s
  | .updateFinish r => Sys2Proof.Machine.execUpdateFinish r s
  | .updateAbort r => Sys2Proof.Machine.execUpdateAbort r s
  | .recoveryEnter r => Sys2Proof.Machine.execRecoveryEnter r s
  | .ledgerBatch r ring b => Sys2Proof.Machine.execLedgerBatch r ring b s
  | .ledgerClose r ring => Sys2Proof.Machine.execLedgerClose r ring s
  | .journalRead r first count => Sys2Proof.Machine.execJournalRead r first count s
  | .pageDump r ring => Sys2Proof.Machine.execPageDump r ring s
  | .messageFragment r opcode index count length data => Sys2Proof.Machine.execMessageFragment r opcode index count length data s
  | .fragmentTimeout idx => Sys2Proof.Machine.execFragmentTimeout idx s
  | .sessionConfirmTimeout n => Sys2Proof.Machine.execSessionConfirmTimeout n s
  | .sessionIdleTimeout n => Sys2Proof.Machine.execSessionIdleTimeout n s
  | .ptpMessage m => Sys2Proof.Machine.execPtpMessage m s
  | .pdelayRequestTimer => Sys2Proof.Machine.execPdelayRequestTimer s
  | .grandmasterLoss => Sys2Proof.Machine.execGrandmasterLoss s
  | .controlLinkDown => Sys2Proof.Machine.execControlLinkDown s
  | .controlLinkUp sqi => Sys2Proof.Machine.execControlLinkUp sqi s
  | .eventCopyDrop n => Sys2Proof.Machine.execEventCopyDrop n s
  | .qbvCycleStart => Sys2Proof.Machine.execQbvCycleStart s
  | .pmaMapReqProbe p phys => Sys2Proof.Machine.execPmaMapReqProbe p phys s
  | .pmaMapReqMapOut p phys => Sys2Proof.Machine.execPmaMapReqMapOut p phys s
  | .tdwClrStats p w => Sys2Proof.Machine.execTdwClrStats p w s
  | .squClrStats p w => Sys2Proof.Machine.execSquClrStats p w s
  | .lgeClrStats p w => Sys2Proof.Machine.execLgeClrStats p w s
  | .xlClrStats p w => Sys2Proof.Machine.execXlClrStats p w s
  | .seqClrStats p w => Sys2Proof.Machine.execSeqClrStats p w s
  | .hmsClrStats p w => Sys2Proof.Machine.execHmsClrStats p w s
  | .lmsClrStats p w => Sys2Proof.Machine.execLmsClrStats p w s
  | .oleClrStats p w => Sys2Proof.Machine.execOleClrStats p w s
  | .calClrStats p w => Sys2Proof.Machine.execCalClrStats p w s
  | .clsClrStats p w => Sys2Proof.Machine.execClsClrStats p w s
  | .hifCpClrStats p w => Sys2Proof.Machine.execHifCpClrStats p w s
  | .hifClrStats p w => Sys2Proof.Machine.execHifClrStats p w s
  | .tpsClrStats p w => Sys2Proof.Machine.execTpsClrStats p w s
  | .tpsPwrClrStats p w => Sys2Proof.Machine.execTpsPwrClrStats p w s
  | .tslEpochLenWrite p w => Sys2Proof.Machine.execTslEpochLenWrite p w s
  | .tslLaneWrite p lane reg w => Sys2Proof.Machine.execTslLaneWrite p lane reg w s
  | .oleRestWrite p reg w => Sys2Proof.Machine.execOleRestWrite p reg w s
  | .clsTakeoverGo p w => Sys2Proof.Machine.execClsTakeoverGo p w s
  | .hifRingEnable p ring w => Sys2Proof.Machine.execHifRingEnable p ring w s
  | .hifRingDisable p ring w => Sys2Proof.Machine.execHifRingDisable p ring w s
  | .hifDoorbell p ring v => Sys2Proof.Machine.execHifDoorbell p ring v s
  | .hifWindowWrite p win reg w => Sys2Proof.Machine.execHifWindowWrite p win reg w s
  | .hifQbvWrite p reg w => Sys2Proof.Machine.execHifQbvWrite p reg w s
  | .hifIrqWrite p src w => Sys2Proof.Machine.execHifIrqWrite p src w s
  | .tpsFloorWrite p w => Sys2Proof.Machine.execTpsFloorWrite p w s
  | .mscDormantRequest p w => Sys2Proof.Machine.execMscDormantRequest p w s
  | .w1cClear p src w hw => Sys2Proof.Machine.execW1cClear p src w hw s
  | .scaleDataRead p => Sys2Proof.Machine.execScaleDataRead p s
  | .latchedLowRead p off => Sys2Proof.Machine.execLatchedLowRead p off s
  | .plainRegisterWrite p off w => Sys2Proof.Machine.execPlainRegisterWrite p off w s
  | .apertureRead off len => Sys2Proof.Machine.execApertureRead off len s
  | .apertureWrite off data => Sys2Proof.Machine.execApertureWrite off data s
  | .msixUnmask v => Sys2Proof.Machine.execMsixUnmask v s
  | .submissionEntry ring => Sys2Proof.Machine.execSubmissionEntry ring s
  | .bulkCopy ring h => Sys2Proof.Machine.execBulkCopy ring h s
  | .bulkFill ring h => Sys2Proof.Machine.execBulkFill ring h s
  | .bulkLaneUnit ring h => Sys2Proof.Machine.execBulkLaneUnit ring h s
  | .bulkWeightLoad ring h => Sys2Proof.Machine.execBulkWeightLoad ring h s
  | .bulkHostTimeout ring => Sys2Proof.Machine.execBulkHostTimeout ring s
  | .ringRoomReturn ring => Sys2Proof.Machine.execRingRoomReturn ring s
  | .msixModerationTimeout ring => Sys2Proof.Machine.execMsixModerationTimeout ring s
  | .shadowLoad l t set abort => Sys2Proof.Machine.execShadowLoad l t set abort s
  | .shadowLoadComplete l => Sys2Proof.Machine.execShadowLoadComplete l s
  | .swap l => Sys2Proof.Machine.execSwap l s
  | .pass p => Sys2Proof.Machine.execPass p s
  | .chunkReconstruction reserve => Sys2Proof.Machine.execChunkReconstruction reserve s
  | .opticalReplay dev => Sys2Proof.Machine.execOpticalReplay dev s
  | .electronicReplay die => Sys2Proof.Machine.execElectronicReplay die s
  | .replayDeadline => Sys2Proof.Machine.execReplayDeadline s
  | .replayHoldEnd => Sys2Proof.Machine.execReplayHoldEnd s
  | .rampFill l => Sys2Proof.Machine.execRampFill l s
  | .lgeEntry slot task => Sys2Proof.Machine.execLgeEntry slot task s
  | .substitutionHoldEnd => Sys2Proof.Machine.execSubstitutionHoldEnd s
  | .xlEntry slot task => Sys2Proof.Machine.execXlEntry slot task s
  | .squEntry slot task => Sys2Proof.Machine.execSquEntry slot task s
  | .transferEntry slot task => Sys2Proof.Machine.execTransferEntry slot task s
  | .linkEntry slot task => Sys2Proof.Machine.execLinkEntry slot task s
  | .laneEntry slot task => Sys2Proof.Machine.execLaneEntry slot task s
  | .hbmRefresh => Sys2Proof.Machine.execHbmRefresh s
  | .lpddrRefresh => Sys2Proof.Machine.execLpddrRefresh s
  | .holdRefresh g shadow => Sys2Proof.Machine.execHoldRefresh g shadow s
  | .refreshLate g shadow => Sys2Proof.Machine.execRefreshLate g shadow s
  | .epochBoundary => Sys2Proof.Machine.execEpochBoundary s
  | .fallowSlotBegin o => Sys2Proof.Machine.execFallowSlotBegin o s
  | .epochOverrun => Sys2Proof.Machine.execEpochOverrun s
  | .shortFallowSlot o => Sys2Proof.Machine.execShortFallowSlot o s
  | .lateBoundary => Sys2Proof.Machine.execLateBoundary s
  | .laneUnitPresent lane => Sys2Proof.Machine.execLaneUnitPresent lane s
  | .tagRecordWrite slot task => Sys2Proof.Machine.execTagRecordWrite slot task s
  | .ledgerBatchTimeout ring => Sys2Proof.Machine.execLedgerBatchTimeout ring s
  | .signatureRecord ring => Sys2Proof.Machine.execSignatureRecord ring s
  | .parityReread addr use tries => Sys2Proof.Machine.execParityReread addr use tries s
  | .persistentError addr use => Sys2Proof.Machine.execPersistentError addr use s
  | .stackFail n => Sys2Proof.Machine.execStackFail n s
  | .stackCaParityLoss n => Sys2Proof.Machine.execStackCaParityLoss n s
  | .lpddrPackageFail n => Sys2Proof.Machine.execLpddrPackageFail n s
  | .frameData f => Sys2Proof.Machine.execFrameData f s
  | .frameIdle f => Sys2Proof.Machine.execFrameIdle f s
  | .frameResendReq f => Sys2Proof.Machine.execFrameResendReq f s
  | .frameService f => Sys2Proof.Machine.execFrameService f s
  | .laneLockLoss lane => Sys2Proof.Machine.execLaneLockLoss lane s
  | .laneDiscardLimit lane => Sys2Proof.Machine.execLaneDiscardLimit lane s
  | .lanePauseEnd lane => Sys2Proof.Machine.execLanePauseEnd lane s
  | .portLightArrival port => Sys2Proof.Machine.execPortLightArrival port s
  | .portTrainingDone port o => Sys2Proof.Machine.execPortTrainingDone port o s
  | .lossOfSignal port => Sys2Proof.Machine.execLossOfSignal port s
  | .aprProbe port => Sys2Proof.Machine.execAprProbe port s
  | .portPowerMonitorTrip port => Sys2Proof.Machine.execPortPowerMonitorTrip port s
  | .reconfigurationDeadline => Sys2Proof.Machine.execReconfigurationDeadline s
  | .phaseWindowEnd => Sys2Proof.Machine.execPhaseWindowEnd s
  | .linkHoldEnd => Sys2Proof.Machine.execLinkHoldEnd s
  | .linkHoldTimeout => Sys2Proof.Machine.execLinkHoldTimeout s
  | .spareLocked src => Sys2Proof.Machine.execSpareLocked src s
  | .sourceLockTimeout src => Sys2Proof.Machine.execSourceLockTimeout src s
  | .lightTrip arcade => Sys2Proof.Machine.execLightTrip arcade s
  | .lightHoldEnd arcade => Sys2Proof.Machine.execLightHoldEnd arcade s
  | .spareLockFail arcade => Sys2Proof.Machine.execSpareLockFail arcade s
  | .sourceWorn src => Sys2Proof.Machine.execSourceWorn src s
  | .spareSourceFail src => Sys2Proof.Machine.execSpareSourceFail src s
  | .linkSourceFail src => Sys2Proof.Machine.execLinkSourceFail src s
  | .startupCalibration => Sys2Proof.Machine.execStartupCalibration s
  | .startupCalibrationDone o => Sys2Proof.Machine.execStartupCalibrationDone o s
  | .reacquisition => Sys2Proof.Machine.execReacquisition s
  | .reacquisitionDone o => Sys2Proof.Machine.execReacquisitionDone o s
  | .monitorAdcSample input raw => Sys2Proof.Machine.execMonitorAdcSample input raw s
  | .monitorInputFault input => Sys2Proof.Machine.execMonitorInputFault input s
  | .zoneLoopExit zone => Sys2Proof.Machine.execZoneLoopExit zone s
  | .weakRow g row => Sys2Proof.Machine.execWeakRow g row s
  | .sensorSample idx temp => Sys2Proof.Machine.execSensorSample idx temp s
  | .thermalLevelLeave d => Sys2Proof.Machine.execThermalLevelLeave d s
  | .throttleStepDown => Sys2Proof.Machine.execThrottleStepDown s
  | .fastSamplingEnd d => Sys2Proof.Machine.execFastSamplingEnd d s
  | .sensorInvalid idx => Sys2Proof.Machine.execSensorInvalid idx s
  | .hardwareTrip idx temp => Sys2Proof.Machine.execHardwareTrip idx temp s
  | .mscActionStart => Sys2Proof.Machine.execMscActionStart s
  | .pwrEnAssert => Sys2Proof.Machine.execPwrEnAssert s
  | .pwrEnDeassert => Sys2Proof.Machine.execPwrEnDeassert s
  | .inputQualified => Sys2Proof.Machine.execInputQualified s
  | .inputUndervoltage => Sys2Proof.Machine.execInputUndervoltage s
  | .inputOvervoltage => Sys2Proof.Machine.execInputOvervoltage s
  | .breakerTrip => Sys2Proof.Machine.execBreakerTrip s
  | .reverseCurrent => Sys2Proof.Machine.execReverseCurrent s
  | .railFault group => Sys2Proof.Machine.execRailFault group s
  | .railDroop group => Sys2Proof.Machine.execRailDroop group s
  | .telemetrySample v idx => Sys2Proof.Machine.execTelemetrySample v idx s
  | .p1sUpdate p => Sys2Proof.Machine.execP1sUpdate p s
  | .excursionStep => Sys2Proof.Machine.execExcursionStep s
  | .energyLimitShutdown => Sys2Proof.Machine.execEnergyLimitShutdown s
  | .telemetryLoss => Sys2Proof.Machine.execTelemetryLoss s
  | .telemetryReturn => Sys2Proof.Machine.execTelemetryReturn s
  | .backupDomainPowerOn => Sys2Proof.Machine.execBackupDomainPowerOn s
  | .supercapLow cap ext => Sys2Proof.Machine.execSupercapLow cap ext s
  | .resetNPulse => Sys2Proof.Machine.execResetNPulse s
  | .resetNRelease => Sys2Proof.Machine.execResetNRelease s
  | .perstAssert => Sys2Proof.Machine.execPerstAssert s
  | .pcieFlr => Sys2Proof.Machine.execPcieFlr s
  | .pcieHotReset => Sys2Proof.Machine.execPcieHotReset s
  | .standbyExit o => Sys2Proof.Machine.execStandbyExit o s
  | .unitWatchdogExpiry block half => Sys2Proof.Machine.execUnitWatchdogExpiry block half s
  | .mscWatchdogExpiry => Sys2Proof.Machine.execMscWatchdogExpiry s
  | .frontEndFallback => Sys2Proof.Machine.execFrontEndFallback s
  | .updateArbitrationEnd => Sys2Proof.Machine.execUpdateArbitrationEnd s
  | .updateLockTimeout => Sys2Proof.Machine.execUpdateLockTimeout s
  | .trialEnd component => Sys2Proof.Machine.execTrialEnd component s
  | .recoveryInstall => Sys2Proof.Machine.execRecoveryInstall s
  | .recoveryReset => Sys2Proof.Machine.execRecoveryReset s
  | .journalGapRecord => Sys2Proof.Machine.execJournalGapRecord s
  | .pcieLinkUp speed width mps => Sys2Proof.Machine.execPcieLinkUp speed width mps s
  | .pcieLinkDown => Sys2Proof.Machine.execPcieLinkDown s
  | .registerAccessTimeout p off write => Sys2Proof.Machine.execRegisterAccessTimeout p off write s
  | .mscCoreRestartDone => Sys2Proof.Machine.execMscCoreRestartDone s
  | .resetEnd o => Sys2Proof.Machine.execResetEnd o s
  | .unrecognisedControlFrame f => Sys2Proof.Machine.execUnrecognisedControlFrame f s
  | .inputQualificationLost => Sys2Proof.Machine.execInputQualificationLost s

end Sys2Proof.Machine
end

