-- ==== Sys2Proof/Safety.lean ====
section
/-! DEFINITION. The terms that the claims use: sound states, what stands apart from the recording of events, and requests that pass the
checks of R311. -/

namespace Sys2Proof.Machine

/-- Device memory and host memory have their canonical form. -/
def State.memoryWf (s : State) : Prop := Memory.wf s.mem = true ∧ Memory.wf s.hostMem = true

/-- The part of block 12 that no event record changes. -/
def Hif.apart (h : Hif) : Hif := { h with rings := [], eventNumber := 0, eventsLost := 0, msixPending := 0 }

/-- The part of the control port that no event record changes: all but the count of event frames of each session. -/
def Cp.apart (c : Cp) : Cp := { c with sessions := c.sessions.map (fun x => { x with events := 0 }) }

/-- The part of the MSC that no event record changes: all but the journal. -/
def Msc.apart (m : Msc) : Msc :=
  { m with journal := [], journalHead := 0, journalSeq := 0, jSecond := 0, jCount := 0, jGap := none }

/-- The state apart from what setting an event bit and writing its record may change: event-status bits, the contents and indices of rings,
memory and the weight regions that a ring's entry overwrites, the journal, event frames and messages that leave (R205, R341, R444). -/
def State.apart (s : State) : State :=
  { s with ev := {}, mem := [], hostMem := [], out := [], hif := s.hif.apart, cp := s.cp.apart, msc := s.msc.apart
           regions := s.regions.map (fun r => { r with stale := false }) }

/-! ### Requests of the control port -/

/-- The session, as a number. -/
def sessionNo (r : Req) : Nat := r.session.toNat

/-- A request that passes every check of R311 but those of its command's own, in a session (R317, R318) or, where its opcode needs none,
outside one (R316). Its sequence is not the session's last (R318). -/
structure State.Admits (s : State) (r : Req) (o need : Nat) : Prop where
  serves : portServes s = true
  direct : r.bcast = true → o = 1
  shape : r.behind < 3
  size : fragmented o = true ∨ r.plen ≤ 1408
  quiet : r.quiet = true → o = 0x0310
  number : sessionNo r ≤ 8
  outside : sessionNo r = 0 → sessionless o = true
  inside : sessionNo r ≠ 0 → (sessionAt s (sessionNo r)).state ≠ .free ∧ r.tagged = true ∧ r.tagOk = true
    ∧ (sessionAt s (sessionNo r)).lastSeq < r.seq.toNat ∧ r.seq ≠ 0xFFFFFFFF
  role : rolePermits s (sessionNo r) need = true

/-- Where the completion of a request's command goes (R319). -/
def originOf (r : Req) (j : Job) : Origin := .cp (sessionNo r) r.src r.seq (jobOpcode j) r.quiet

/-- A request for a command that is not immediate, which is accepted and executed at once (R311, R319): the MSC core runs, and nothing of
its session waits. -/
structure State.Accepts (s : State) (r : Req) (j : Job) : Prop where
  admits : s.Admits r (jobOpcode j).toNat (jobRole j)
  length : lengthFits s r.plen j = true
  mode : jobAllowed s j = true
  room : queueRoom s r = true
  core : s.msc.running = true
  free : jobWaits s j = false
  idle : s.msc.waiting.all (fun w => !sameQueue w.1 (originOf r j)) = true
  settled : stepUnderWay s (originOf r j) = false

/-- The sequence of an admitted request taken (R312, R318). -/
def takeSeq (r : Req) (s : State) : State :=
  if sessionNo r = 0 then s else modSession (sessionNo r) (fun x => { x with lastSeq := r.seq.toNat, lastAt := now s }) s

/-- The state in which an accepted command executes: its sequence is taken, a privileged command's hall time is journaled (R308), and the
ACCEPTED reply, but for QUIET, has been sent (R311). -/
def taken (r : Req) (j : Job) (s : State) : State :=
  let s := takeSeq r s
  let s := if privileged (withRole s (sessionNo r) j) then
      { s with msc := { s.msc with hostTimes := (jobOpcode j, r.htLow) :: s.msc.hostTimes } } else s
  if r.quiet then s else reply r (jobOpcode j).toNat (sessionNo r != 0) true Status.accepted 0 [] s

/-- The state after an accepted command that changes the state in which it executes by `f` and completes with `a` (R319). -/
def finished (r : Req) (j : Job) (a : Answer) (f : State → State) (s : State) : State := complete (originOf r j) a (f (taken r j s))

/-- The state after a request for an immediate command, which its reply alone answers (R311). -/
def replied (r : Req) (o : Nat) (a : Answer) (s : State) : State := reply r o (r.session != 0) true a.1 a.2.1 a.2.2 (takeSeq r s)

/-- Nothing in the list of changes but what a request's own session and frames need: `t` has every other part of `s` (R311, R319). -/
def State.offPort (s : State) : State := { s with out := [], cp := {}, msc := { s.msc with hostTimes := [] } }

/-- The request and the command of a control-port row that is not immediate. -/
def jobOfInstr : Instr → Option (Req × Job)
  | .sessionOpen r nonce key role kem => some (r, .sessionOpen nonce key role kem)
  | .sessionConfirm r sig => some (r, .sessionConfirm sig)
  | .sessionClose r => some (r, .sessionClose)
  | .attest r nonce => some (r, .attest nonce)
  | .eventSubscribe r mask enable => some (r, .eventSubscribe mask enable)
  | .graphSubmit r addr => some (r, .graphSubmit addr)
  | .graphRun r id => some (r, .graphRun id)
  | .graphRelease r id => some (r, .graphRelease id)
  | .graphReadmit r id => some (r, .graphReadmit id)
  | .graphResume r id => some (r, .graphResume id)
  | .unitTable r id ring => some (r, .unitTable id ring)
  | .regRead r addr count => some (r, .regRead addr count)
  | .regWrite r addr words => some (r, .regWrite addr words false)
  | .memRead r addr len => some (r, .memRead addr len)
  | .memWrite r addr data => some (r, .memWrite addr data)
  | .laneUnit r lane capture data => some (r, .laneUnit lane capture data)
  | .syscalZero (.cp r power ref) o => some (r, .syscal 1 power ref o)
  | .syscalFull (.cp r power ref) o => some (r, .syscal 2 power ref o)
  | .syscalCommit (.cp r power ref) => some (r, .syscal 3 power ref {})
  | .syscalAbandon (.cp r power ref) => some (r, .syscal 4 power ref {})
  | .linkGroup r id size index => some (r, .linkGroup id size index)
  | .linkTrain r ports => some (r, .linkTrain ports)
  | .frostEnter r => some (r, .frostEnter)
  | .thaw r => some (r, .thaw)
  | .resetPowerOn r => some (r, .reset 1 0)
  | .resetCold r => some (r, .reset 2 0)
  | .resetWarm r => some (r, .reset 3 0)
  | .resetFunction r => some (r, .reset 4 0)
  | .resetSubsystem r block => some (r, .reset 5 block)
  | .powerOff r => some (r, .powerOff)
  | .calendarSet r secs ns => some (r, .calendarSet secs ns)
  | .updateBegin r manifest => some (r, .updateBegin manifest)
  | .updateData r offset data => some (r, .updateData offset data)
  | .updateFinish r => some (r, .updateFinish)
  | .updateAbort r => some (r, .updateAbort)
  | .recoveryEnter r => some (r, .recoveryEnter)
  | .ledgerBatch r ring b => some (r, .ledgerBatch ring b)
  | .ledgerClose r ring => some (r, .ledgerClose ring)
  | .journalRead r first count => some (r, .journalRead first count)
  | .pageDump r ring => some (r, .pageDump ring)
  | _ => none

/-- A register access that its path lets through (R345, R433 to R435). -/
def State.Opens (s : State) (p : Path) (off : Nat) (write : Bool) : Prop := gateOf s p off write = .take

/-- A task of a run in progress, with its graph, that may act in its almanac entry (R167). -/
def State.Acts (s : State) (slot task : Nat) (g : Graph) : Prop := graphAt s slot = some g ∧ taskReady s slot task = true

/-- How task `t` of the run in progress of the graph in `slot` ended (R340); none while it has not, or where no run is in progress. -/
def endedAs (s : State) (slot t : Nat) : Option (BitVec 16) := (graphAt s slot).bind (fun g => endOf g t)

end Sys2Proof.Machine
end

