-- ==== Sys2Proof/Certificates/Slice0/Obligations.lean ====
section
/-! DEFINITION. The statements for the provers. -/

open Sys2Proof Sys2Proof.Machine

/-! ### Steps, reset and invariants -/

/-- A step takes the command at the front of the queue and carries it out with the queue's rest. -/
def Obligations.StepRunsFront : Prop :=
  ∀ (c : Instr) (rest : List Instr) (s : State), step { s with pending := c :: rest } = exec c { s with pending := rest }

/-- With no command waiting, a step is a nanosecond of hall time and what falls due with it: the model's choice, log 13. Where no resend
request, no step of system calibration and no accepted command waits, that is all; memory, rings, event bits and what has left stay as they are. -/
def Obligations.IdleStep : Prop :=
  ∀ s : State, s.pending = [] → step s = .next (idle s)
    ∧ (s.ole.requests = [] → s.cal.sysRun = none → s.msc.waiting = [] → idle s = elapse 1 s)
    ∧ (elapse 1 s).tsl.hallTime = (s.tsl.hallTime + 1) % 2 ^ 64
    ∧ (elapse 1 s).mem = s.mem ∧ (elapse 1 s).hostMem = s.hostMem ∧ (elapse 1 s).seq = { s.seq with work := s.seq.work + workNext s 1 }
    ∧ (elapse 1 s).hif = s.hif ∧ (elapse 1 s).ev = s.ev ∧ (elapse 1 s).stalls = s.stalls ∧ (elapse 1 s).out = s.out
    ∧ (elapse 1 s).pending = s.pending

/-- After power-on reset the module is in STANDBY with no command waiting, no graph resident, no event bit set, no interrupt enabled, no
ring, no hold of any stall valid, no weight region and no period skipped (R391, R394, R397). -/
def Obligations.ResetState : Prop :=
  State.reset.msc.mode = .standby ∧ State.reset.pending = [] ∧ State.reset.seq.graphs = [] ∧ State.reset.ev = {}
    ∧ State.reset.hif.irqGlobal = false ∧ State.reset.hif.irqEn = List.replicate 17 0 ∧ State.reset.hif.rings = []
    ∧ State.reset.stalls.length = 816 ∧ State.reset.stalls.all (fun st => !st.front.valid && !st.shadow.valid) = true
    ∧ State.reset.tps.k = 0 ∧ State.reset.regions = []

/-- The memories of the reset state have their canonical form: they list nothing. -/
def Obligations.ResetMemoryCanonical : Prop := State.reset.memoryWf ∧ State.reset.mem = [] ∧ State.reset.hostMem = []

/-- Every step keeps the canonical form of device memory and host memory. -/
def Obligations.MemoryStaysCanonical : Prop := ∀ s t : State, s.memoryWf → step s = .next t → t.memoryWf

/-- No step ends in a fault or a refusal: from every state, every command gives a next state. -/
def Obligations.StepAlwaysGoesOn : Prop := ∀ s : State, ∃ t : State, step s = .next t

/-! ### Requests of the control port -/

/-- A request that passes the checks of R311 for a command that is not immediate is taken, and its command executes (R311, R319). -/
def Obligations.AcceptedCommandExecutes : Prop :=
  ∀ (i : Instr) (r : Req) (j : Job) (s : State), jobOfInstr i = some (r, j) → s.Accepts r j →
    exec i s = .next (execJob (originOf r j) (withRole s (sessionNo r) j) (taken r j s))

/-- Accepting a request changes only the control port's own state, what has left, and the hall times kept of privileged commands; and so does
its completion, which leaves as the newest frame, or in fragments where it is longer than 512 bytes, at the time its gate allows, with its 802.1Q
tag and its tag (R307 to R310, R313 to R315, R319). -/
def Obligations.RequestFrame : Prop :=
  ∀ (r : Req) (j : Job) (a : Answer) (s : State), (taken r j s).offPort = s.offPort ∧ (complete (originOf r j) a s).offPort = s.offPort
    ∧ (sessionNo r ≤ 8 → ¬ (r.quiet = true ∧ a.1 = Status.ok) →
        let f : Frame :=
          { dst := r.src, session := sessionNo r, seq := r.seq, opcode := jobOpcode j, tagged := decide (sessionNo r ≠ 0), completion := true
            event := false, htLow := BitVec.ofNat 32 (sendTime s false (8 * (38 + (if s.cp.tagTx then 4 else 0)
              + max 46 (24 + a.2.2.length + (if sessionNo r = 0 then 0 else 32))))), params := replyHead a.1 a.2.1 ++ a.2.2 }
        (a.2.2.length ≤ 504 → (complete (originOf r j) a s).out = .frame { f with
          vlan := if s.cp.tagTx then some (s.cp.pcpOther, s.cp.vid) else none
          tag := if sessionNo r = 0 then [] else
            le 32 (Config.kmacCommand ((sessionAt s (sessionNo r)).keys.drop 32) (frameBytes f)).toNat } :: s.out)
        ∧ (504 < a.2.2.length → (complete (originOf r j) a s).out = ((fragments f).map (fun q => Output.frame (dressed s q))).reverse ++ s.out))

/-- The first checks of a request for GRAPH_RUN, in their order: a session unknown or used up, no session, a tag that fails, and a sequence
that is not above the session's last, which is resent from the cache or stale. Nothing executes (R311, R316, R318, R320, R328). -/
def Obligations.UnauthenticatedRequests : Prop :=
  ∀ (r : Req) (id : Word) (s : State), portServes s = true → r.bcast = false → r.behind < 3 → r.plen ≤ 1408 → r.quiet = false →
    let bare (st : BitVec 16) (s : State) : State := reply r 0x0202 false false st 0 [] s
    (8 < sessionNo r → exec (.graphRun r id) s = .next (bare Status.sessionUnknown s))
    ∧ (1 ≤ sessionNo r → sessionNo r ≤ 8 → (sessionAt s (sessionNo r)).state = .free →
        exec (.graphRun r id) s = .next
          (bare (if (sessionAt s (sessionNo r)).lastSeq = 0xFFFFFFFF then Status.seqExhausted else Status.sessionUnknown) s))
    ∧ (sessionNo r = 0 → exec (.graphRun r id) s = .next (bare Status.authRequired (authFailed Status.authRequired s)))
    ∧ (1 ≤ sessionNo r → sessionNo r ≤ 8 → (sessionAt s (sessionNo r)).state ≠ .free →
        ((r.tagged && r.tagOk) = false → exec (.graphRun r id) s = .next (bare Status.tagInvalid (authFailed Status.tagInvalid s)))
        ∧ (r.tagged = true → r.tagOk = true → r.seq.toNat ≤ (sessionAt s (sessionNo r)).lastSeq → r.seq ≠ 0 →
            exec (.graphRun r id) s = .next (if cachedFrames s (sessionNo r) r.seq = [] then reply r 0x0202 true false Status.seqStale 0 [] s
              else resend (cachedFrames s (sessionNo r) r.seq) s)))

/-- The later checks of R311 that an authenticated request for GRAPH_RUN meets in turn: the role, the length, the state, the queue of 64. The
first that fails is answered with its status, the sequence is taken, and nothing else of the module changes. -/
def Obligations.RefusedRequests : Prop :=
  ∀ (r : Req) (id : Word) (s : State), s.Admits r 0x0202 0 →
    let refused (st : BitVec 16) : State := reply r 0x0202 true true st 0 [] (takeSeq r s)
    (rolePermits s (sessionNo r) 2 = false → exec (.graphRun r id) s = .next (refused Status.roleDenied))
    ∧ (rolePermits s (sessionNo r) 2 = true → r.plen ≠ 4 → exec (.graphRun r id) s = .next (refused Status.paramLength))
    ∧ (rolePermits s (sessionNo r) 2 = true → r.plen = 4 → s.msc.mode = .standby →
        exec (.graphRun r id) s = .next (refused Status.notReady))
    ∧ (rolePermits s (sessionNo r) 2 = true → r.plen = 4 → s.msc.mode = .active → queueRoom s r = false →
        exec (.graphRun r id) s = .next (refused Status.queueFull))

/-- The immediate commands STATUS, TIME, TEMPERATURE, STOP and RESULT: each is carried out by the front end, and its reply carries the
result (R311, R320, R322, R323). -/
def Obligations.ImmediateCommands : Prop :=
  ∀ (r : Req) (s : State),
    (s.Admits r 1 0 → r.plen = 0 → exec (.status r) s = .next (replied r 1 (statusAnswer (takeSeq r s)) s))
    ∧ (s.Admits r 2 0 → r.plen = 0 → exec (.time r) s = .next (replied r 2 (timeAnswer (takeSeq r s)) s))
    ∧ (s.Admits r 3 0 → r.plen = 0 → exec (.temperature r) s = .next (replied r 3 (temperatureAnswer (takeSeq r s)) s))
    ∧ (s.Admits r 4 2 → r.plen = 4 → s.msc.mode = .active → exec (.stopBoundary r) s
        = .next (reply r 4 (r.session != 0) true Status.ok 0 [] (let t := takeSeq r s
          { t with seq := { t.seq with stopBoundary := true, graphs := t.seq.graphs.map (fun g => { g with resume := false }) } })))
    ∧ (s.Admits r 4 2 → r.plen = 4 → s.msc.mode = .active → exec (.stopNow r) s
        = .next (reply r 4 (r.session != 0) true Status.ok 0 [] (stopNow (takeSeq r s))))
    ∧ (∀ seq f, s.Admits r 5 1 → r.plen = 4 → s.msc.mode = .active →
        (cachedFrames (takeSeq r s) (sessionNo r) seq).find? (fun f => f.completion) = some f →
        exec (.result r seq) s = .next (reply r 5 (r.session != 0) true Status.ok 0 [] (sendMessage f (takeSeq r s))))

/-- SESSION_OPEN to EVENT_SUBSCRIBE, and ATTEST: an enrolled key opens a pending session on the lowest free number; the host's signature, which
the model leaves open, opens it; SESSION_CLOSE ends it after its completion (R317, R318, R321, R417). -/
def Obligations.SessionCommands : Prop :=
  ∀ (r : Req) (s : State),
    (∀ nonce key role kem k n, s.Accepts r (.sessionOpen nonce key role kem) → 1 ≤ role.toNat → role.toNat ≤ 3 → hostKey s key = some k →
      freeSession s = some n →
      ∃ x a, exec (.sessionOpen r nonce key role kem) s = .next (finished r (.sessionOpen nonce key role kem) (Status.ok, 0, a) (fun u =>
          modSession n (fun _ => x) { u with cp := { u.cp with nonce := u.cp.nonce + 1 } }) s)
        ∧ x.state = .pending ∧ x.role = role ∧ x.keyId = key ∧ x.mac = r.src ∧ x.lastSeq = 0 ∧ x.openedAt = now s
        ∧ a.take 8 = le 2 n ++ zeros 6)
    ∧ (∀ sig k, s.Accepts r (.sessionConfirm sig) → hostKey s (sessionAt s (sessionNo r)).keyId = some k →
      (sessionAt s (sessionNo r)).role.toNat ≤ k.role.toNat →
      exec (.sessionConfirm r sig) s =
        .next (if Config.falconVerify k.key (sessionAt s (sessionNo r)).transcript (fit 1280 sig)
          then finished r (.sessionConfirm sig) (Status.ok, 0, []) (modSession (sessionNo r) (fun x => { x with state := .isOpen })) s
          else finished r (.sessionConfirm sig) (Status.signatureInvalid, 0, []) (raise .cp 2 { status := Status.signatureInvalid }) s))
    ∧ (s.Accepts r .sessionClose →
      exec (.sessionClose r) s = .next (endSession (sessionNo r) (finished r .sessionClose (Status.ok, 0, []) id s)))
    ∧ (∀ nonce, s.Accepts r (.attest nonce) →
      let d := drawFree (taken r (.attest nonce) s)
      exec (.attest r nonce) s
        = .next (complete (originOf r (.attest nonce)) (Status.ok, 0, attestReport nonce (BitVec.ofNat 32 d.1.toNat) d.2) d.2))
    ∧ (∀ mask enable, s.Accepts r (.eventSubscribe mask enable) → mask.toNat ≤ 65535 →
      exec (.eventSubscribe r mask enable) s = .next (finished r (.eventSubscribe mask enable) (Status.ok, 0, [])
        (modSession (sessionNo r) (fun x => { x with mask := if enable then BitVec.ofNat 16 mask.toNat else 0 })) s))

/-- The commands over graphs. A graph that passes every check of admission becomes resident, and the module ACTIVE; a held one that passes
them again is resident anew; refused, either leaves the resident graphs as they are; a run of an on-request graph is asked
for; release, resumption, and the dumps of the unit table and of a page have their effect (R162, R169, R180, R225, R229, R322, R323). -/
def Obligations.GraphCommands : Prop :=
  ∀ (r : Req) (s : State),
    (∀ addr, s.Accepts r (.graphSubmit addr) → ∃ a t, exec (.graphSubmit r addr) s = .next (complete (originOf r (.graphSubmit addr)) a t)
      ∧ (t.seq.graphs = s.seq.graphs
        ∨ a = (Status.ok, 0, [BitVec.ofNat 8 (freeSlot s)]) ∧ ∃ g, t.seq.graphs = s.seq.graphs ++ [g] ∧ g.slot = freeSlot s))
    ∧ (∀ addr, s.Accepts r (.graphSubmit addr) →
      let u := finishStep (taken r (.graphSubmit addr) s)
      admissionCheck u (descAt u addr.toNat) = none → ∃ t,
        exec (.graphSubmit r addr) s
            = .next (complete (originOf r (.graphSubmit addr)) (Status.ok, 0, [BitVec.ofNat 8 (freeSlot s)]) t)
          ∧ t.seq.graphs = s.seq.graphs ++ [{ candidate u (descAt u addr.toNat) with
              slot := freeSlot s, digest := imageDigest u (descAt u addr.toNat), admitted := s.seq.epoch }]
          ∧ t.seq.admitStatus = Status.ok ∧ t.seq.admitDetail = 0 ∧ t.msc.mode = .active)
    ∧ (∀ id g, s.Accepts r (.graphRun id) → graphById s id = some g → g.period = 0 → g.held = false →
      exec (.graphRun r id) s = .next (finished r (.graphRun id) (Status.ok, 0, le 8 (nextEpoch s))
        (modGraph g.slot (fun g => { g with requests := g.requests + 1 })) s))
    ∧ (∀ id g, s.Accepts r (.graphRelease id) → graphById s id = some g →
      exec (.graphRelease r id) s = .next (finished r (.graphRelease id) (Status.ok, 0, [])
        (if g.run.isSome then modGraph g.slot (fun g => { g with releasing := true }) else leaveResidence g.slot) s))
    ∧ (∀ id g, s.Accepts r (.graphReadmit id) → graphById s id = some g → g.held = true →
      ∃ a t, exec (.graphReadmit r id) s = .next (complete (originOf r (.graphReadmit id)) a t)
        ∧ (t.seq.graphs = s.seq.graphs
          ∨ a = (Status.ok, 0, [BitVec.ofNat 8 g.slot]) ∧ ∃ q, t.seq.graphs = s.seq.graphs.filter (fun p => p.slot ≠ g.slot) ++ [q] ∧ q.slot = g.slot))
    ∧ (∀ id g, s.Accepts r (.graphReadmit id) → graphById s id = some g → g.held = true →
      let u := taken r (.graphReadmit id) s
      let w := { u with seq := { u.seq with graphs := u.seq.graphs.filter (fun p => p.slot ≠ g.slot) } }
      admissionCheck w (descAt u g.addr.toNat) = none → ∃ t,
        exec (.graphReadmit r id) s = .next (complete (originOf r (.graphReadmit id)) (Status.ok, 0, [BitVec.ofNat 8 g.slot]) t)
          ∧ t.seq.graphs = s.seq.graphs.filter (fun p => p.slot ≠ g.slot) ++ [{ candidate w (descAt u g.addr.toNat) with
              slot := g.slot, owed := g.owed, digest := imageDigest u (descAt u g.addr.toNat), admitted := s.seq.epoch }])
    ∧ (s.Accepts r (.graphResume 0xFFFFFFFF) →
      exec (.graphResume r 0xFFFFFFFF) s = .next (finished r (.graphResume 0xFFFFFFFF) (Status.ok, 0, []) (fun u => { u with seq := { u.seq with
        graphs := u.seq.graphs.map (fun g => if g.paused && !g.held then { g with resume := true } else g) } }) s))
    ∧ (∀ id g, id ≠ 0xFFFFFFFF → s.Accepts r (.graphResume id) → graphById s id = some g → g.held = false →
      exec (.graphResume r id) s = .next (finished r (.graphResume id) (Status.ok, 0, [])
        (modGraph g.slot (fun g => if g.paused && !g.held then { g with resume := true } else g)) s))
    ∧ (∀ id g ring, s.Accepts r (.unitTable id ring) → graphById s id = some g → ring.toNat < 16384 →
      (ringOf s ring.toNat).type = .telemetry → ringTakes s ring.toNat (unitEntries g).length = true →
      exec (.unitTable r id ring) s = .next (finished r (.unitTable id ring) (Status.ok, 0, le 4 (unitEntries g).length)
        (telemetryPush ring.toNat (unitEntries g)) s))
    ∧ (∀ ring, s.Accepts r (.pageDump ring) → ring.toNat < 16384 →
      exec (.pageDump r ring) s = .next (finished r (.pageDump ring) (Status.ok, 0, []) (fun u =>
        { u with seq := { u.seq with dumpRing := BitVec.ofNat 14 ring.toNat, dumpTo := some ring.toNat } }) s))

/-- Registers and memory over the control port: words in ascending order, bytes of memory that serves, one unit filed in a lane
(R26, R184, R316, R323, R434). -/
def Obligations.AccessCommands : Prop :=
  ∀ (r : Req) (s : State),
    (∀ addr count, s.Accepts r (.regRead addr count) → 1 ≤ count.toNat → count.toNat ≤ 126 → wordsInBlock addr.toNat count.toNat = true →
      let u := readWords (sessionNo r) (addr.toNat - regBase) count.toNat (taken r (.regRead addr count) s)
      exec (.regRead r addr count) s = .next (complete (originOf r (.regRead addr count)) (Status.ok, 0, u.1) u.2))
    ∧ (∀ addr ws, s.Accepts r (.regWrite addr ws false) → 1 ≤ ws.length → ws.length ≤ 349 → wordsInBlock addr.toNat ws.length = true →
      exec (.regWrite r addr ws) s = .next (
        if inBlock15 addr.toNat = true ∧ (sessionAt s (sessionNo r)).role.toNat < 3
        then finished r (.regWrite addr ws false) (Status.roleDenied, 0, []) id s
        else finished r (.regWrite addr ws false) (Status.ok, 0, []) (writeWords (addr.toNat - regBase) ws) s))
    ∧ (∀ addr len, s.Accepts r (.memRead addr len) → 1 ≤ len.toNat → memRefusal s addr.toNat len.toNat 504 false = none →
      exec (.memRead r addr len) s = .next (finished r (.memRead addr len) (Status.ok, 0, readBytes s addr.toNat len.toNat) id s))
    ∧ (∀ addr data, s.Accepts r (.memWrite addr data) → data ≠ [] → memRefusal s addr.toNat data.length 1396 true = none →
      exec (.memWrite r addr data) s = .next (finished r (.memWrite addr data) (Status.ok, 0, []) (writeBytes addr.toNat data) s))
    ∧ (∀ lane capture data, s.Accepts r (.laneUnit lane capture data) → lane.toNat < 48 → (laneAt s lane.toNat).en = true →
      (laneAt s lane.toNat).dir = false →
      exec (.laneUnit r lane capture data) s = .next (finished r (.laneUnit lane capture data) (Status.ok, 0, [])
        (fileUnit lane.toNat capture.toNat data) s))

/-- The settings of the link group, port training, the calendar, ledger batches and the journal's reading (R212, R242, R243, R388, R428). -/
def Obligations.SettingCommands : Prop :=
  ∀ (r : Req) (s : State),
    (∀ id size index, s.Accepts r (.linkGroup id size index) → 1 ≤ size.toNat → size.toNat ≤ 16 → index.toNat < size.toNat →
      groupBusy s = false →
      exec (.linkGroup r id size index) s = .next (finished r (.linkGroup id size index) (Status.ok, 0, []) (fun u => trainPorts 0xF
        { u with ole := { u.ole with groupId := id, size := BitVec.ofNat 5 size.toNat, index := BitVec.ofNat 4 index.toNat } }) s))
    ∧ (∀ ports, s.Accepts r (.linkTrain ports) → ports.toNat ≤ 15 → groupBusy s = false →
      exec (.linkTrain r ports) s = .next (finished r (.linkTrain ports) (Status.ok, 0, []) (trainPorts (BitVec.ofNat 4 ports.toNat)) s))
    ∧ (∀ secs ns, s.Accepts r (.calendarSet secs ns) → ns.toNat < 1000000000 →
      exec (.calendarSet r secs ns) s = .next (finished r (.calendarSet secs ns) (Status.ok, 0, []) (fun u =>
        raise .tps 15 { detail := some (le 8 u.msc.calS ++ le 8 secs.toNat) }
          { u with msc := { u.msc with calS := secs.toNat, calNs := ns.toNat, calSet := true } }) s))
    ∧ (∀ ring b, s.Accepts r (.ledgerBatch ring b) → ring.toNat < 16384 → 1 ≤ b.toNat → b.toNat ≤ 4096 →
      (ringOf s ring.toNat).type = .ledger → (ringOf s ring.toNat).state ≠ .disabled → (ringOf s ring.toNat).batch.length < b.toNat →
      exec (.ledgerBatch r ring b) s = .next (finished r (.ledgerBatch ring b) (Status.ok, 0, [])
        (modRing ring.toNat (fun q => { q with batchB := b.toNat })) s))
    ∧ (∀ ring, s.Accepts r (.ledgerClose ring) → ring.toNat < 16384 → (ringOf s ring.toNat).type = .ledger →
      (ringOf s ring.toNat).state ≠ .disabled → (ringOf s ring.toNat).batch ≠ [] →
      exec (.ledgerClose r ring) s = .next (finished r (.ledgerClose ring) (Status.ok, 0, []) (fun u => modRing ring.toNat (fun q =>
        { q with closed := q.closed ++ [(q.batchFirst, q.batchGap, u.msc.ledgerSlot, q.batch)], batch := [], batchGap := false }) u) s))
    ∧ (∀ first count j, s.Accepts r (.journalRead first count) → 1 ≤ count.toNat → count.toNat ≤ 7 →
      s.msc.journal.find? (fun j => j.1 % 2 ^ 32 = first.toNat) = some j →
      let rs := (List.range count.toNat).filterMap (fun k => assoc (j.1 + k) s.msc.journal)
      exec (.journalRead r first count) s = .next (finished r (.journalRead first count) (Status.ok, rs.length, rs.flatten) id s))

/-- The commands whose action begins 1 ms after their completion: with no other action set, it is set (R323, R365,
R368, R392, R394; that no other may be set is the choice of log 44). -/
def Obligations.ActionCommands : Prop :=
  ∀ (r : Req) (s : State),
    let set (j : Job) (a : Action) : State := finished r j (Status.ok, 0, []) (fun u =>
      { u with msc := { u.msc with action := some a, actionAt := now s + 1000000 } }) s
    (s.Accepts r .frostEnter → s.msc.mode = .idle → s.msc.action = none → exec (.frostEnter r) s = .next (set .frostEnter .frost))
    ∧ (s.Accepts r .thaw → s.msc.action = none → exec (.thaw r) s = .next (set .thaw .thaw))
    ∧ (s.Accepts r .powerOff → s.msc.action = none → exec (.powerOff r) s = .next (set .powerOff .powerOff))
    ∧ (s.Accepts r .recoveryEnter → s.msc.action = none → exec (.recoveryEnter r) s = .next (set .recoveryEnter .recovery))
    ∧ (s.msc.action = none → s.msc.resetting = none → s.msc.mode = .idle →
        (s.Accepts r (.reset 1 0) → exec (.resetPowerOn r) s = .next (set (.reset 1 0) (.reset .powerOn 1)))
        ∧ (s.Accepts r (.reset 2 0) → exec (.resetCold r) s = .next (set (.reset 2 0) (.reset .cold 1)))
        ∧ (s.Accepts r (.reset 3 0) → exec (.resetWarm r) s = .next (set (.reset 3 0) (.reset .warm 1)))
        ∧ (s.Accepts r (.reset 4 0) → exec (.resetFunction r) s = .next (set (.reset 4 0) (.reset .function 1)))
        ∧ (∀ block : Byte, s.Accepts r (.reset 5 block) → blockAllowed block.toNat = true →
            exec (.resetSubsystem r block) s = .next (set (.reset 5 block) (.reset (.subsystem block.toNat) 1))))

/-- The update session: a manifest is held for its arbitration, the holder's bytes are programmed in order, a finish with bytes missing ends
the session, one with them all is answered and ends it too, and an abort releases the lock (R419, R420, R421, R422). -/
def Obligations.UpdateCommands : Prop :=
  ∀ (r : Req) (s : State),
    (∀ m, s.Accepts r (.updateBegin m) → s.msc.update = none →
      exec (.updateBegin r m) s = .next (let t := taken r (.updateBegin m) s
        { t with msc := { t.msc with held := t.msc.held ++ [{ who := originOf r (.updateBegin m), man := manifestOf m }] } }))
    ∧ (∀ off data u, s.Accepts r (.updateData off data) → s.msc.update = some u → sameHolder u.who (originOf r (.updateData off data)) = true →
      off.toNat = u.written → off.toNat + data.length ≤ u.man.length.toNat → u.man.component.toNat = 5 →
      exec (.updateData r off data) s = .next (finished r (.updateData off data) (Status.ok, 0, []) (fun t => { t with msc := { t.msc with
        update := some { u with lastAt := now s, written := off.toNat + data.length, data := u.data ++ data } } }) s))
    ∧ (∀ off data u, s.Accepts r (.updateData off data) → s.msc.update = some u → sameHolder u.who (originOf r (.updateData off data)) = true →
      off.toNat = u.written → off.toNat + data.length ≤ u.man.length.toNat → u.man.component.toNat < 5 → u.data = [] →
      exec (.updateData r off data) s = .next (finished r (.updateData off data) (Status.ok, 0, []) (fun t =>
        let c := u.man.component.toNat
        let slot := targetSlot s c
        let t := modFw c (fun f => programImage slot off.toNat data (if off.toNat = 0 then setVerified slot false f else f)) t
        { t with msc := { t.msc with update := some { u with lastAt := now s, written := off.toNat + data.length } } }) s))
    ∧ (∀ u, s.Accepts r .updateFinish → s.msc.update = some u → sameHolder u.who (originOf r .updateFinish) = true →
      u.written < u.man.length.toNat →
      exec (.updateFinish r) s = .next (finished r .updateFinish (Status.paramInvalid, 1, []) (fun t =>
        raise .msc 21 { status := Status.paramInvalid } { t with msc := { t.msc with update := none } }) s))
    ∧ (∀ u, s.Accepts r .updateFinish → s.msc.update = some u → sameHolder u.who (originOf r .updateFinish) = true →
      u.man.length.toNat ≤ u.written → u.man.component.toNat < 5 → s.msc.mode ≠ .recovery → ∃ a t,
      exec (.updateFinish r) s = .next (complete (originOf r .updateFinish) a t)
        ∧ (a = (Status.paramInvalid, 2, []) ∨ a = (Status.ok, 0, [])) ∧ t.msc.update = none)
    ∧ (s.Accepts r .updateAbort → holdsLock s (originOf r .updateAbort) = true →
      exec (.updateAbort r) s = .next (finished r .updateAbort (Status.ok, 0, []) (fun t => { t with msc := { t.msc with update := none } }) s))

/-- System calibration in IDLE with no graph resident, over the control port or by CAL_CTRL: ZERO, and FULL with its reference in range, begin
with the combs off and last 0.5 s, after which they complete and a reacquisition follows; a reference out of range is refused; COMMIT of a full
step writes the record; ABANDON discards what was measured. In ACTIVE the step is refused (R283, R284, R285). -/
def Obligations.SystemCalibration : Prop :=
  ∀ (r : Req) (power : Word) (ref : List Word) (s : State),
    let ids (u : State) : State := { u with cal := { u.cal with power := power, refId := (ref ++ [0, 0, 0, 0]).take 4 } }
    let asked (w : Word) (k : BitVec 3) : State :=
      { s with cal := { s.cal with step := k, selfTrimNext := bit w 7, urgentEn := bit w 6 } }
    (s.msc.mode = .idle → s.seq.graphs = [] → s.cal.sysRun = none →
      (∀ o, s.Accepts r (.syscal 1 power ref o) → exec (.syscalZero (.cp r power ref) o) s
        = .next (sysBegin (some (originOf r (.syscal 1 power ref o))) 1 o (taken r (.syscal 1 power ref o) s)))
      ∧ (∀ o q f, s.Accepts r (.syscal 2 power ref o) → s.cal.stage ≠ 0 → monValue s 1720 = some q → monValue s 1721 = some f →
        exec (.syscalFull (.cp r power ref) o) s = .next (if 5000 ≤ q ∧ q ≤ 20000 ∧ f.natAbs ≤ 250
          then sysBegin (some (originOf r (.syscal 2 power ref o))) 2 o (ids (taken r (.syscal 2 power ref o) s))
          else finished r (.syscal 2 power ref o) (Status.calRefRange, 0, []) (fun u => sysRefuse Status.calRefRange (ids u)) s))
      ∧ (s.Accepts r (.syscal 3 power ref {}) → s.cal.stage = 2 → ∃ t x,
        exec (.syscalCommit (.cp r power ref)) s = .next (complete (originOf r (.syscal 3 power ref {})) (Status.ok, 0, []) t)
          ∧ t.cal.stage = 0 ∧ t.cal.record = some x ∧ x.time = s.msc.calS ∧ x.power = s.cal.power ∧ x.ref = s.cal.refId
          ∧ x.zeroNo = s.cal.draft.zeroNo ∧ x.gainNo = s.cal.draft.gainNo ∧ x.reading = s.cal.draft.reading ∧ (t.ev.cal.toNat.testBit 7) = true
          ∧ (∀ g v, g < 816 → g < s.cal.stalls.length → monValue s g = some v → (t.cal.stalls.getD g {}).commissioned = v.toNat))
      ∧ (s.Accepts r (.syscal 4 power ref {}) → exec (.syscalAbandon (.cp r power ref)) s
        = .next (finished r (.syscal 4 power ref {}) (Status.ok, 0, []) dropSyscal s))
      ∧ (∀ p w o, s.Opens p 0xD00004 true → bit w 0 = false →
        exec (.syscalZero (.reg p w) o) s = .next (sysBegin none 1 o (asked w 1))
        ∧ (s.cal.stage ≠ 0 → exec (.syscalFull (.reg p w) o) s = .next (
            if referenceBad s then sysRefuse Status.calRefRange (asked w 2) else sysBegin none 2 o (asked w 2)))
        ∧ (s.cal.stage = 2 → exec (.syscalCommit (.reg p w)) s = .next (sysCommit (asked w 3)))
        ∧ exec (.syscalAbandon (.reg p w)) s = .next (dropSyscal (asked w 4))))
    ∧ (∀ x, s.cal.sysRun = some x → (finishStep s).cal.stage = BitVec.ofNat 2 x.step ∧ (finishStep s).cal.sysRun = none
        ∧ (finishStep s).tdw.edition = s.tdw.edition + 1)
    ∧ (s.msc.mode = .active → s.Accepts r (.syscal 4 power ref {}) → exec (.syscalAbandon (.cp r power ref)) s
        = .next (finished r (.syscal 4 power ref {}) (Status.notReady, 0, []) (sysRefuse Status.notReady) s))

/-- Fragments, the sessions' timers, and frames that are no command. A fragment of a message that is not complete is kept; at 100 ms the message
is dropped and counted; a pending session's number is free after 1 s and an open one's after 300 s without an accepted request; an event frame
that cannot be sent is taken back and counted; a frame that is not accepted is dropped and counted; of one that is accepted, the first check of its
version, its header and its opcode that fails is answered without a tag (R307, R311, R315, R317, R318, R321). -/
def Obligations.PortTimers : Prop :=
  ∀ (s : State),
    (∀ r o index count length data, portServes s = true → r.bcast = false → r.behind < 3 → r.quiet = false → sessionNo r = 0 →
      fragmented o.toNat = true → sessionless o.toNat = true → s.cp.assemblies = [] → 1 < count.toNat → count.toNat ≤ 8 →
      index.toNat < count.toNat → length.toNat ≤ 4096 → data.length ≤ 1404 →
      exec (.messageFragment r o index count length data) s = .next { s with cp := { s.cp with assemblies :=
        [{ src := r.src, opcode := o, seq := r.seq, count := count.toNat, length := length.toNat, time := now s
           parts := [(index.toNat, data)] }] } })
    ∧ (∀ i a, s.cp.assemblies[i]? = some a →
      exec (.fragmentTimeout i) s = .next (let t := advanceTo (a.time + 100000000) s
        raise .cp 0 {} { t with cp := { t.cp with assemblies := t.cp.assemblies.eraseIdx i, dropped := sat 0xFFFFFFFF (t.cp.dropped + 1) } }))
    ∧ (∀ n, 1 ≤ n → n ≤ 8 → (sessionAt s n).state = .pending →
      exec (.sessionConfirmTimeout n) s = .next (endSession n (advanceTo ((sessionAt s n).openedAt + 1000000000) s)))
    ∧ (∀ n, 1 ≤ n → n ≤ 8 → (sessionAt s n).state = .isOpen →
      exec (.sessionIdleTimeout n) s = .next (endSession n (advanceTo ((sessionAt s n).lastAt + 300000000000) s)))
    ∧ (∀ n out, unsendEvent n s.out = some out →
      exec (.eventCopyDrop n) s = .next { s with out := out, cp := { s.cp with evDropped := sat 0xFFFFFFFF (s.cp.evDropped + 1) } })
    ∧ (∀ f, portServes s = true → f.toModule = true → f.etherType ≠ 0x88F7 → frameAccepted s f = false →
      exec (.unrecognisedControlFrame f) s = .next (raise .cp 0 {} { s with cp := { s.cp with dropped := sat 0xFFFFFFFF (s.cp.dropped + 1) } }))
    ∧ (∀ f, portServes s = true → frameAccepted s f = true → 16 + f.plen + 32 ≤ f.payload →
      let bare (st : BitVec 16) (res : List Byte) : State := reply (rawRequest f) f.opcode.toNat false false st 0 res s
      (f.version ≠ 1 → exec (.unrecognisedControlFrame f) s = .next (bare Status.versionUnsupported [1]))
      ∧ (f.version = 1 → headerFits f = false → exec (.unrecognisedControlFrame f) s = .next (bare Status.headerInvalid []))
      ∧ (f.version = 1 → headerFits f = true → opcodeListed f.opcode.toNat = false →
          exec (.unrecognisedControlFrame f) s = .next (bare Status.opcodeUnknown [])))

/-- The MSC core restarts, the waiting commands are taken up in their order; a submission entry is fetched at CONS with its completion entry
reserved, and runs (R318, R339, R404). -/
def Obligations.WaitingCommands : Prop :=
  ∀ (s : State),
    (s.msc.running = false → s.msc.mode ≠ .off → wholeReset s = false →
      exec .mscCoreRestartDone s = .next (let t := mscRestartDone s
        each t.msc.waiting (fun w u => submit w.1 w.2 u) { t with msc := { t.msc with waiting := [] } }))
    ∧ (∀ (ring : BitVec 14),
      let i := ring.toNat
      let r := ringOf s i
      portServes s = true → s.msc.mode ≠ .recovery → r.state = .enabled → r.type = .submission → r.used ≠ 0 → ringTakes s r.linked.toNat 1 = true →
      serves s (r.entry r.cons) 64 false = true →
      exec (.submissionEntry ring) s = .next (let e := readBytes s (r.entry r.cons) 64
        runEntry (.ring i (BitVec.ofNat 64 (field e 8 8))) e
          (modRing i (fun r => { r with cons := r.cons + 1 }) (modRing r.linked.toNat (fun q => { q with reserved := q.reserved + 1 }) s))))

/-- 802.1AS and the control link. A Sync of domain 0 in link-interval range steps hall time by an offset beyond 1 ms where no graph is resident;
a Pdelay request is answered; loss of the grandmaster or of the link puts hall time in holdover; an enabled gate list comes into force at the start of its cycle
(R182, R305, R306, R314, R327). -/
def Obligations.TimeAndLink : Prop :=
  ∀ (s : State), s.msc.mode ≠ .off →
    (∀ li offset, -3 ≤ li → li ≤ 0 → s.seq.graphs = [] → 1000000 < offset.natAbs →
      exec (.ptpMessage (.sync 0 li offset)) s = .next (stepHallTime offset
        { s with tsl := { s.tsl with offset := within (-32768) 32767 offset, sync := .acquiring, slew := 0 } }))
    ∧ exec (.ptpMessage (.pdelayReq 0)) s = .next (emit (.pdelay false (vlanOf s true)) s)
    ∧ exec .pdelayRequestTimer s = .next (emit (.pdelay true (vlanOf s true)) { s with tsl := { s.tsl with pdelay := s.tsl.pdelay + 1 } })
    ∧ (s.tsl.sync ≠ .holdover →
      exec .grandmasterLoss s = .next (raise .tsl 1 {} { s with tsl := { s.tsl with sync := .holdover, slew := 0 } }))
    ∧ (∀ sqi, exec (.controlLinkUp sqi) s = .next { s with cp := { s.cp with linkUp := true, sqi := sqi } })
    ∧ (s.cp.linkUp = true → exec .controlLinkDown s
        = .next (syncLoss (raise .cp 1 {} { s with cp := { s.cp with linkUp := false, linkDrops := sat 0xFF (s.cp.linkDrops + 1) } })))
    ∧ (portServes s = true → s.cp.qbvEn = true → s.cp.qbvCycle ≠ 0 →
      exec .qbvCycleStart s = .next (let t := advanceTo (cycleStart s (now s)) s
        { t with cp := { t.cp with gateInForce := true } }))

/-! ### Registers -/

/-- CLR_STATS of the blocks of the optical and electronic engines: the statistics cleared, and nothing else (R77, R135, R160, R161, R192,
R304). -/
def Obligations.EngineStatisticsCleared : Prop :=
  ∀ (p : Path) (w : Word) (s : State),
    (s.Opens p 0x200000 true → exec (.tdwClrStats p w) s
      = .next { s with tdw := { s.tdw with deglitchNext := bit w 8, refreshMax := 0, errCount := 0 } })
    ∧ (s.Opens p 0x400004 true → exec (.squClrStats p w) s = .next { s with squ := { s.squ with shown := {}, last := {} } })
    ∧ (s.Opens p 0x500004 true → exec (.lgeClrStats p w) s = .next { s with lge := { s.lge with shown := {} } })
    ∧ (s.Opens p 0x600004 true → exec (.xlClrStats p w) s = .next { s with xl := { s.xl with shown := {}, last := {} } })
    ∧ (s.Opens p 0x700004 true → bit w 31 = false → exec (.seqClrStats p w) s
      = .next { s with seq := { s.seq with dumpRing := BitVec.ofNat 14 (bits w 29 16), overruns := 0, lapses := 0 } })
    ∧ (s.Opens p 0x100004 true → bits w 5 0 ≤ 55 → bit w 31 = false → exec (.clsClrStats p w) s
      = .next { s with cls := { s.cls with hold := 0, last := {} } })

/-- CLR_STATS of the memories, the links, calibration, the control port, the host interface and power: the statistics cleared, with the other
fields of the word written, and nothing else (R234, R235, R263, R288, R328, R353, R370, R390). -/
def Obligations.SystemStatisticsCleared : Prop :=
  ∀ (p : Path) (w : Word) (s : State),
    (s.Opens p 0x900004 true → exec (.hmsClrStats p w) s = .next { s with hms := { s.hms with
      retriesShown := 0, persistShown := 0, stgShown := 0, lastErr := none, hbm := s.hms.hbm.map (fun k => { k with shown := 0 }) } })
    ∧ (s.Opens p 0xA00004 true → exec (.lmsClrStats p w) s
      = .next { s with lms := { s.lms with retriesShown := 0, persistShown := 0, lastErr := none } })
    ∧ (s.Opens p 0xB00004 true → bit w 31 = false → exec (.oleClrStats p w) s = .next { s with ole := { s.ole with
      trainPorts := BitVec.ofNat 4 (bits w 27 24), shown := {}, lastHold := {}, lanes := s.ole.lanes.map (fun l => { l with failsShown := 0 }) } })
    ∧ (s.Opens p 0xD00004 true → bits w 30 28 ≤ 4 → bit w 31 = false → exec (.calClrStats p w) s = .next { s with cal := { s.cal with
      step := BitVec.ofNat 3 (bits w 30 28), selfTrimNext := bit w 7, urgentEn := bit w 6, startFails := 0
      stalls := s.cal.stalls.map (fun x => { x with readings := 0 }) } })
    ∧ (s.Opens p 0xC00100 true → exec (.hifCpClrStats p w) s = .next { s with cp := { s.cp with
      tagTx := bit w 30, pcpImm := BitVec.ofNat 3 (bits w 29 27), pcpOther := BitVec.ofNat 3 (bits w 26 24), vid := BitVec.ofNat 12 (bits w 11 0)
      dropped := 0, authFails := 0, evDropped := 0 } })
    ∧ (s.Opens p 0xC00004 true → exec (.hifClrStats p w) s = .next { s with hif := { s.hif with eventsLost := 0 } })
    ∧ (s.Opens p 0xE00004 true → BitVec.ofNat 2 (bits w 1 0) = s.tps.floor → exec (.tpsClrStats p w) s
      = .next { s with tps := { s.tps with skipped := 0, frosts := 0 } })
    ∧ (s.Opens p 0xE00100 true → exec (.tpsPwrClrStats p w) s
      = .next { s with tps := { s.tps with pkExc := 0, pkP100 := 0, excCount := 0 } })

/-- Settings that resident graphs guard: the epoch length, a stream lane, the rest setting of the links; and the throttle floor. Each write
has its effect, or is refused with its event and changes no setting; that an invalid lane write is found before the refusal of a bound lane is the
model's choice, log 55. The level in force is never below the floor; a floor raised above the
level in force is a rise, with the skip count of the new level at once and TPS_LEVEL_RISE, and one lowered so that the level falls is a
fall, which leaves the skip count to its steps (R181, R193, R246, R360, R363). -/
def Obligations.SettingWrites : Prop :=
  ∀ (p : Path) (w : Word) (s : State),
    (s.Opens p 0x800004 true → 5 ≤ bits w 7 0 → bits w 7 0 ≤ 200 →
      exec (.tslEpochLenWrite p w) s = .next (if s.seq.graphs = [] then
        { s with tsl := { s.tsl with lenNext := BitVec.ofNat 8 (bits w 7 0)
                                     lenAt := (now s / (bits w 7 0 * 50000) + 1) * (bits w 7 0 * 50000) } }
        else raise .tsl 0 {} s))
    ∧ (∀ (lane : Fin 48), s.Opens p (0x801000 + 32 * lane.val + 12) true → 
      exec (.tslLaneWrite p lane 3 w) s = .next (if laneBound s lane.val = true then raise .tsl 4 {} s
        else modLane lane.val (fun l => { l with units := BitVec.ofNat 16 (bits w 15 0) }) s))
    ∧ (∀ (lane : Fin 48), s.Opens p (0x801000 + 32 * lane.val) true → (laneAt s lane.val).units = 0 → bit w 31 = true →
      exec (.tslLaneWrite p lane 0 w) s = .next (raise .tsl (invalidBit .tsl) {} s))
    ∧ (∀ (lane : Fin 48), s.Opens p (0x801000 + 32 * lane.val) true → laneBound s lane.val = false → (laneAt s lane.val).units ≠ 0 →
      exec (.tslLaneWrite p lane 0 w) s = .next (modLane lane.val (fun l => { l with
        en := bit w 31, dir := bit w 30, dropLate := bit w 29, priority := BitVec.ofNat 3 (bits w 28 26)
        unitBytes := BitVec.ofNat 24 (bits w 23 0) }) s))
    ∧ (s.Opens p 0xB00018 true → switchValid (BitVec.ofNat 12 (bits w 11 0)) = true →
      exec (.oleRestWrite p 0 w) s = .next (if groupBusy s then raise .ole 8 {} s
        else restWritten { s with ole := { s.ole with restSwitch := BitVec.ofNat 12 (bits w 11 0) } }))
    ∧ (s.Opens p 0xE00004 true → bit w 31 = false → exec (.tpsFloorWrite p w) s
      = .next (levelChange (levelInForce s) { s with tps := { s.tps with floor := BitVec.ofNat 2 (bits w 1 0) } }))
    ∧ (s.Opens p 0xE00004 true → bit w 31 = false → levelInForce s < bits w 1 0 →
      ∃ t, exec (.tpsFloorWrite p w) s = .next t ∧ levelInForce t = bits w 1 0 ∧ t.tps.k = levelK (bits w 1 0)
        ∧ t.ev.tps.toNat.testBit 0 = true ∧ t.stalls = s.stalls ∧ t.seq = s.seq)
    ∧ (let lowered : State := { s with tps := { s.tps with floor := BitVec.ofNat 2 (bits w 1 0) } }
      s.Opens p 0xE00004 true → bit w 31 = false → levelInForce lowered < levelInForce s →
      ∃ t, exec (.tpsFloorWrite p w) s = .next t ∧ levelInForce t = levelInForce lowered ∧ t.tps.k = s.tps.k
        ∧ t.ev.tps.toNat.testBit 1 = true)
    ∧ s.tps.floor.toNat ≤ levelInForce s

/-- The requests made by registers: a stall probed or mapped out, and a planned takeover; DORMANT is refused with MSC_STATE_REFUSED outside IDLE, and
changes no mode; from IDLE with nothing under way the module enters it: G5 and G4 are down, and the retention copies are made (R76, R302, R392,
R393). -/
def Obligations.RequestWrites : Prop :=
  ∀ (p : Path) (w : Word) (s : State),
    (∀ (phys : BitVec 10), s.Opens p 0xC true → phys.toNat ≤ 815 → (stallAt s phys.toNat).state = .loaded →
      let u := enterSuspect phys.toNat (modStall phys.toNat (fun st => { st with asked := true }) s)
      exec (.pmaMapReqProbe p phys) s = .next u
      ∧ exec (.pmaMapReqMapOut p phys) s = .next (modStall phys.toNat (fun st => { st with mapOut := true }) u))
    ∧ (∀ (phys : BitVec 10), s.Opens p 0xC true → phys.toNat ≤ 815 → (stallAt s phys.toNat).state = .suspect →
      exec (.pmaMapReqProbe p phys) s = .next s
      ∧ exec (.pmaMapReqMapOut p phys) s = .next (modStall phys.toNat (fun st => { st with mapOut := true }) s))
    ∧ (∀ (phys : BitVec 10), s.Opens p 0xC true → 815 < phys.toNat →
      exec (.pmaMapReqProbe p phys) s = .next (raise .pma 6 { unit := some phys.toNat, logical := 0xFFFF, detail := some [] } s))
    ∧ (s.Opens p 0x100004 true → bits w 5 0 ≤ 55 → bit w 30 = false → (sourceAt s (bits w 5 0)).state = .serving →
      (sourceAt s (partnerOf (bits w 5 0))).state = .warm → s.cls.requests.contains (bits w 5 0) = false →
      exec (.clsTakeoverGo p w) s = .next { s with cls := { s.cls with requests := s.cls.requests ++ [bits w 5 0] } })
    ∧ (s.Opens p 0xF00104 true → s.msc.mode ≠ .idle → exec (.mscDormantRequest p w) s = .next (raise .msc 2 {} s))
    ∧ (s.Opens p 0xF00104 true → s.msc.mode = .idle → s.cal.stage = 0 → s.cal.sysRun = none → s.msc.update = none → s.msc.resetting = none →
      ∃ t, exec (.mscDormantRequest p w) s = .next t ∧ t.msc.mode = .dormant ∧ t.msc.prev = .idle ∧ t.tps.groups = 15
        ∧ t.cal.retention = true ∧ t.hms = s.hms ∧ t.lms = s.lms ∧ t.tsl = s.tsl)

/-- Event-status registers, interrupt enables, plain registers, and the reads that capture or latch. Writing 1s clears bits that hardware does
not set in the same clock; a source found pending sends its vector; every BAR0 read answers with the register's word; a high word latched by a read of its
low word stays for the same source until it reads the low word again (R9, R135, R433, R438, R444). -/
def Obligations.HostRegisters : Prop :=
  ∀ (p : Path) (s : State),
    (∀ (src : Fin 17) (w hw : Word), s.Opens p (eventOffset src.val) true →
      exec (.w1cClear p src w hw) s = .next (irqIfPending (srcOf src.val)
        { s with ev := s.ev.write (srcOf src.val) (s.ev.read (srcOf src.val) &&& ~~~(w &&& ~~~hw)) }))
    ∧ (∀ (src : Fin 17) (w : Word), s.Opens p (0xC00880 + 4 * src.val) true →
      exec (.hifIrqWrite p (some src) w) s = .next (irqIfPending (srcOf src.val)
        { s with hif := { s.hif with irqEn := update s.hif.irqEn src.val (fun _ => w) } }))
    ∧ (∀ w : Word, s.Opens p 0xC00804 true →
      exec (.hifIrqWrite p none w) s = .next (sendPending { s with hif := { s.hif with irqGlobal := bit w 31 } }))
    ∧ (∀ w : Word, s.Opens p 0xF00004 true → bits w 30 28 ≤ 4 → exec (.plainRegisterWrite p 0xF00004 w) s
      = .next { s with msc := { s.msc with ledOverride := bit w 31, ledPattern := BitVec.ofNat 3 (bits w 30 28) } })
    ∧ (∀ w : Word, s.Opens p 0xF00004 true → 4 < bits w 30 28 → exec (.plainRegisterWrite p 0xF00004 w) s = .next (raise .msc 7 {} s))
    ∧ (∀ w : Word, s.Opens p 0x400020 true → exec (.plainRegisterWrite p 0x400020 w) s
      = .next { s with squ := { s.squ with selDie := bit w 31, selIndex := BitVec.ofNat 13 (bits w 12 0) } })
    ∧ (∀ be, s.Opens (.bar0 be) 0x400024 false → exec (.scaleDataRead (.bar0 be)) s
      = .next (emit (.data (le 4 (readAs s 0 0x400024).toNat)) (readEffect 0 0x400024 s))
      ∧ (readEffect 0 0x400024 s).squ.capture = scaleWords s)
    ∧ (∀ be (off : BitVec 24), s.Opens (.bar0 be) (off.toNat / 4 * 4) false → exec (.latchedLowRead (.bar0 be) off) s
      = .next (emit (.data (le 4 (readAs s 0 (off.toNat / 4 * 4)).toNat)) (readEffect 0 (off.toNat / 4 * 4) s)))
    ∧ (∀ (src low high : Nat) (t : State), latchedBy low = [high] → t.hif.latches = (readEffect src low s).hif.latches →
      readAs t src high = readWord s high)

/-- What becomes of an access that its path does not let through. Over BAR0: nothing in OFF or with the port strapped off; a write to block
15 sets HIF_DENIED; a write of part of a word, and an access to a block the state does not let it reach, are Unsupported Requests; an access
to a block in reset waits, and a read that waits 1 ms is a Completer Abort. None of them writes the register it names (R345, R433, R434,
R435, R440). -/
def Obligations.BarredAccesses : Prop :=
  ∀ (be : BitVec 4) (off : BitVec 24) (w : Word) (s : State),
    let o := off.toNat / 4 * 4
    let b := o / 0x100000
    (s.msc.mode = .off ∨ s.msc.strapPcieOff = true → exec (.plainRegisterWrite (.bar0 be) off w) s = .next s)
    ∧ (s.msc.mode = .idle → s.msc.strapPcieOff = false → b = 15 → exec (.plainRegisterWrite (.bar0 be) off w) s = .next (raise .hif 1 {} s))
    ∧ (s.msc.mode = .idle → s.msc.strapPcieOff = false → b ≠ 15 → be ≠ 0xF →
        exec (.plainRegisterWrite (.bar0 be) off w) s = .next (raise .hif 0 {} (emit .ur s)))
    ∧ (s.msc.mode = .standby → s.msc.strapPcieOff = false → b < 8 →
        exec (.plainRegisterWrite (.bar0 be) off w) s = .next (raise .hif 0 {} (emit .ur s)))
    ∧ (s.msc.mode = .idle → s.msc.strapPcieOff = false → b ≠ 15 → be = 0xF → blockInReset s b = true →
        exec (.plainRegisterWrite (.bar0 be) off w) s
          = .next { s with msc := { s.msc with accesses := s.msc.accesses ++ [(.bar0 be, o, some w)] } })
    ∧ (s.msc.mode ≠ .off → s.msc.strapPcieOff = false →
        exec (.registerAccessTimeout (.bar0 be) off false) s = .next (raise .hif 0 {} (emit .ca { s with msc := { s.msc with
          accesses := s.msc.accesses.filter (fun a => !(decide (a.1 = .bar0 be) && decide (a.2.1 = o) && a.2.2.isSome == false)) } })))

/-- The gate list: while it is enabled a write of a setting is refused, and a write that disables it is taken; disabled, each register takes its
write (R314). -/
def Obligations.GateList : Prop :=
  ∀ (p : Path) (w : Word) (s : State),
    (s.Opens p 0xC00128 true → exec (.hifQbvWrite p .baseLo w) s
      = .next (if s.cp.qbvEn then raise .cp 3 {} s else { s with cp := { s.cp with qbvBaseLo := w } }))
    ∧ (s.Opens p 0xC0012C true → exec (.hifQbvWrite p .baseHi w) s
      = .next (if s.cp.qbvEn then raise .cp 3 {} s else { s with cp := { s.cp with qbvBaseHi := w } }))
    ∧ (s.Opens p 0xC00130 true → 1000 ≤ w.toNat → w.toNat ≤ 1000000000 → exec (.hifQbvWrite p .cycle w) s
      = .next (if s.cp.qbvEn then raise .cp 3 {} s else { s with cp := { s.cp with qbvCycle := w } }))
    ∧ (∀ i : Fin 64, s.Opens p (0xC00200 + 4 * i.val) true → bits w 23 0 ≠ 0 → exec (.hifQbvWrite p (.entry i) w) s
      = .next (if s.cp.qbvEn then raise .cp 3 {} s else { s with cp := { s.cp with
          qbv := update s.cp.qbv i.val (fun _ => { imm := bit w 31, other := bit w 30, interval := BitVec.ofNat 24 (bits w 23 0) }) } }))
    ∧ (s.Opens p 0xC00124 true → bit w 31 = false → 1 ≤ bits w 6 0 → bits w 6 0 ≤ 64 → exec (.hifQbvWrite p .ctrl w) s
      = .next { s with cp := { s.cp with qbvEn := false, qbvCount := BitVec.ofNat 7 (bits w 6 0), gateInForce := false } })

/-! ### Rings, windows, the aperture and bulk work -/

/-- Rings (R330, R333, R334). A disabled ring whose checks pass is enabled; an enabled one that nothing names is disabled; a doorbell within the
ring's bounds moves the host's index, and one outside them puts the ring in FAULTED. -/
def Obligations.Rings : Prop :=
  ∀ (p : Path) (ring : BitVec 14) (w : Word) (s : State),
    let i := ring.toNat
    let r := ringOf s i
    (∀ t, s.Opens p (0xC10000 + 32 * i) true → r.state = .disabled → ringTypeOf (bits w 30 28) = some t → 3 ≤ bits w 27 24 →
      (r.base < regBase ∨ regEnd ≤ r.base) → enableAllowed s i { r with type := t, size := BitVec.ofNat 4 (bits w 27 24) } = true →
      s.msc.copyGap = [] →
      exec (.hifRingEnable p ring w) s = .next (setRing i { r with
        type := t, size := BitVec.ofNat 4 (bits w 27 24), state := .enabled, prod := 0, cons := 0, cause := 0, lost := 0, unsignalled := 0
        oldest := 0, gapFirst := none, gapCount := 0, reserved := 0, batch := [], closed := [], sigWait := [], batchGap := false, ledgerSeq := 0
        batchB := 256, batchFirst := 0, batchAt := 0 } s))
    ∧ (s.Opens p (0xC10000 + 32 * i) true → r.state ≠ .disabled → exec (.hifRingEnable p ring w) s = .next (raise .hif 6 { unit := some i } s))
    ∧ (s.Opens p (0xC10000 + 32 * i) true → r.state ≠ .disabled →
      exec (.hifRingDisable p ring w) s = .next (if ringNamed s i then raise .hif 6 { unit := some i } s else disableRing i s))
    ∧ (s.Opens p (0xCA0000 + 4 * i) true → s.msc.mode ≠ .recovery → r.state = .enabled → hostProduced r.type = true →
      exec (.hifDoorbell (.page p) ring w) s =
        .next (if r.capacity < (w - r.cons).toNat ∨ r.capacity < (w - r.prod).toNat
          then raise .hif 5 { unit := some i } (setRing i { r with state := .faulted, cause := 1 } s)
          else setRing i { r with prod := w } s))
    ∧ (s.Opens (.bar0 0xF) (0xCA0000 + 4 * i) true → s.msc.mode ≠ .recovery → r.state = .enabled → hostProduced r.type = false →
      exec (.hifDoorbell .bar4 ring w) s =
        .next (if r.used < (w - r.cons).toNat then raise .hif 5 { unit := some i } (setRing i { r with state := .faulted, cause := 2 } s)
          else setRing i { r with cons := w } s))

/-- Room that returns to an event ring writes its gap record; room of a ledger ring writes signature records; entries that wait are signalled when
their moderation time ends; unmasking a vector sends what waited for it (R336, R341, R212, R444). -/
def Obligations.RingEvents : Prop :=
  ∀ (ring : BitVec 14) (s : State),
    let i := ring.toNat
    let r := ringOf s i
    (∀ first, r.state = .enabled → r.room ≠ 0 → r.type = .event → r.gapFirst = some first → ringServes s i = true →
      exec (.ringRoomReturn ring) s = .next (ringStore i
        ([0x32, 0, 0, 0] ++ le 8 first ++ le 8 (now s) ++ zeros 24 ++ le 4 r.gapCount) (setRing i { r with gapFirst := none, gapCount := 0 } s)))
    ∧ (r.state = .enabled → r.room ≠ 0 → r.type = .ledger → exec (.ringRoomReturn ring) s = .next (writeSignatures i r.sigWait.length s))
    ∧ (r.intEn = true → 0 < r.unsignalled →
      exec (.msixModerationTimeout ring) s = .next (sendVector r.vector.toNat
        (modRing i (fun r => { r with unsignalled := 0 }) (advanceTo (r.oldest + r.modTime.toNat * 1000) s))))
    ∧ (∀ v : BitVec 6, s.hif.msixPending.toNat.testBit v.toNat = true → s.msc.strapPcieOff = false →
      exec (.msixUnmask v) s = .next (emit (.msix v.toNat) { s with hif := { s.hif with
        msixMask := s.hif.msixMask &&& ~~~BitVec.ofNat 64 (2 ^ v.toNat), msixPending := s.hif.msixPending &&& ~~~BitVec.ofNat 64 (2 ^ v.toNat) } }))
    ∧ (∀ v : BitVec 6, s.hif.msixPending.toNat.testBit v.toNat = false →
      exec (.msixUnmask v) s = .next { s with hif := { s.hif with
        msixMask := s.hif.msixMask &&& ~~~BitVec.ofNat 64 (2 ^ v.toNat), msixPending := s.hif.msixPending &&& ~~~BitVec.ofNat 64 (2 ^ v.toNat) } })

/-- An entry stored in a ring: PROD counts it, the 64 bytes stand in the entry that PROD named, and the memory outside them is as it was; the
ring's other indices stay (R331, R332). -/
def Obligations.RingEntryStored : Prop :=
  ∀ (i : Nat) (e : List Byte) (s : State), s.memoryWf → e.length = 64 → (ringOf s i).intEn = false →
    let r := ringOf s i
    let t := ringStore i e s
    ringOf t i = { r with prod := r.prod + 1 }
      ∧ (∀ k j, k < 64 → place s (r.entry r.prod + k) true = .device j → (∀ m, k < m → m < 64 → place s (r.entry r.prod + m) true ≠ .device j) →
          Memory.get j t.mem = e.getD k 0)
      ∧ (∀ j, (∀ k, k < 64 → place s (r.entry r.prod + k) true ≠ .device j) → Memory.get j t.mem = Memory.get j s.mem)
      ∧ (∀ j, (∀ k, k < 64 → place s (r.entry r.prod + k) true ≠ .host j) → Memory.get j t.hostMem = Memory.get j s.hostMem)

/-- A host window that nothing uses takes its settings; one in use does not (R346). The BAR2 aperture: a read of memory that serves answers with its bytes and changes nothing else; a write stores its bytes; a window that is
not enabled, or a place that is no device memory, is an Unsupported Request (R345). -/
def Obligations.WindowsAndAperture : Prop :=
  ∀ (s : State),
    (∀ (p : Path) (win : BitVec 6) (w : Word),
      let n := win.toNat
      (s.Opens p (0xC00400 + 16 * n) true → windowUsed s n = false → 12 ≤ bits w 5 0 → bits w 5 0 ≤ 40 →
        exec (.hifWindowWrite p win 0 w) s = .next { s with hif := { s.hif with wins := update s.hif.wins n (fun x =>
          { x with en := bit w 31, read := bit w 30, write := bit w 29, size := BitVec.ofNat 6 (bits w 5 0) }) } })
      ∧ (s.Opens p (0xC00400 + 16 * n + 4) true → windowUsed s n = false → bits w 11 0 = 0 →
        exec (.hifWindowWrite p win 1 w) s = .next { s with hif := { s.hif with wins := update s.hif.wins n (fun x => { x with hostLo := w }) } })
      ∧ (s.Opens p (0xC00400 + 16 * n + 8) true → windowUsed s n = false →
        exec (.hifWindowWrite p win 2 w) s = .next { s with hif := { s.hif with wins := update s.hif.wins n (fun x => { x with hostHi := w }) } })
      ∧ (s.Opens p (0xC00400 + 16 * n) true → windowUsed s n = true →
        exec (.hifWindowWrite p win 0 w) s = .next (raise .hif 6 {} s)))
    ∧ (∀ off : BitVec 34, apertureOpen s = true →
      (∀ len a, apertureAddr s off.toNat = some a → touches s a len false apertureBars = false →
        touches s a len false (fun q => q == .failing) = false → exec (.apertureRead off len) s = .next (emit (.data (readBytes s a len)) s))
      ∧ (∀ data a, apertureAddr s off.toNat = some a → touches s a data.length true apertureBars = false →
        touches s a data.length true (fun q => q == .failing) = false → exec (.apertureWrite off data) s = .next (writeBytes a data s))
      ∧ (∀ len, apertureAddr s off.toNat = none → exec (.apertureRead off len) s = .next (raise .hif 0 {} (emit .ur s)))
      ∧ (∀ len a, apertureAddr s off.toNat = some a → touches s a len false apertureBars = true →
        exec (.apertureRead off len) s = .next (raise .hif 0 {} (emit .ur s))))

/-- What the store of bytes that the aperture and MEM_WRITE make leaves as it was: every byte of HBM3E outside the bytes stored; and each
stored byte reads back (R26, R345). -/
def Obligations.StoredBytesReadBack : Prop :=
  ∀ (a : Nat) (data : List Byte) (s : State), s.memoryWf → a + data.length ≤ hbmEnd → s.hms.spill = none →
    touches s a data.length true (fun q => !placeServes q) = false →
    readBytes (writeBytes a data s) a data.length = data
      ∧ (∀ b, b < hbmEnd → b < a ∨ a + data.length ≤ b → readByte (writeBytes a data s) b = readByte s b)
      ∧ (writeBytes a data s).hostMem = s.hostMem ∧ (writeBytes a data s).regions = s.regions ∧ (writeBytes a data s).hif = s.hif

/-- A bulk descriptor that moves bytes is fetched and carried out move by move; each kind is taken by its own row, and stays for it where another
row meets it. One whose list lies on a stack in FAILING moves nothing and ends with HW_STACK_FAILED. A descriptor whose host did not answer ends
with HW_UNIT_FAULT 50 ms after (R227, R347, R349, R350, R464). -/
def Obligations.BulkWork : Prop :=
  ∀ (ring : BitVec 14) (s : State),
    let i := ring.toNat
    let r := ringOf s i
    let d := bulkOf (readBytes s (r.entry r.cons) 64)
    let l := r.linked.toNat
    let posts := max 1 (bulkPosts d)
    let taken := modRing l (fun q => { q with reserved := q.reserved + posts }) (modRing i (fun r => { r with cons := r.cons + 1 }) s)
    let j : BulkJob := { ring := i, cookie := d.cookie, flags := BitVec.ofNat 8 d.flags, entries := if bdList d then d.len else 1, reserved := posts
                         ranges := bulkRanges d (bulkMoves taken d) }
    let unread := bdList d && touchesFailing taken d.src (32 * d.len) false
    (r.state = .enabled → r.type = .bulk → r.used ≠ 0 → s.hif.bulk = [] → serves s (r.entry r.cons) 64 false = true → bulkCheck s d = none →
      bulkRoom (ringOf s l).capacity d = none → ringTakes s l posts = true → d.len ≠ 0 → unread = false →
      (d.op = 1 → bdWeights d = false → exec (.bulkCopy ring .ok) s = .next (bulkRun d false j none none (bulkMoves taken d) taken))
      ∧ (d.op = 3 → exec (.bulkFill ring .ok) s = .next (bulkRun d false j none none (bulkMoves taken d) taken))
      ∧ (d.op = 2 → exec (.bulkLaneUnit ring .ok) s = .next (bulkRun d false j none none (bulkMoves taken d) taken))
      ∧ (d.op = 1 → bdWeights d = true → exec (.bulkWeightLoad ring .ok) s = .next (bulkRun d false j none none (bulkMoves taken d) taken))
      ∧ (d.op = 3 → exec (.bulkCopy ring .ok) s = .next s))
    ∧ (r.state = .enabled → r.type = .bulk → r.used ≠ 0 → s.hif.bulk = [] → serves s (r.entry r.cons) 64 false = true → bulkCheck s d = none →
      bulkRoom (ringOf s l).capacity d = none → ringTakes s l posts = true → d.len ≠ 0 → unread = true → d.op = 1 → bdWeights d = false →
      exec (.bulkCopy ring .ok) s = .next (finishBulk j Status.hwStackFailed taken))
    ∧ (∀ k, s.hif.bulk.find? (fun j => j.ring = i) = some k →
      exec (.bulkHostTimeout ring) s = .next (finishBulk k Status.hwUnitFault (advanceTo (k.since + 50000000) s)))

/-- The PCI Express link and the function resets over it: link state is shown, and what waited in the egress
buffer is sent when it comes up; PERST#, a hot reset and a Function Level Reset each make a
function reset, and with the port strapped off none of the three does anything (R343, R394, R400, R451). -/
def Obligations.BulkPort : Prop :=
  ∀ (s : State),
    (∀ (speed : BitVec 3) (width mps : BitVec 4), s.msc.strapPcieOff = false → s.msc.mode ≠ .off → 1 ≤ speed.toNat → speed.toNat ≤ 5 →
      width.toNat = 1 ∨ width.toNat = 2 ∨ width.toNat = 4 ∨ width.toNat = 8 → mps.toNat ≤ 2 →
      exec (.pcieLinkUp speed width mps) s
        = .next { s with hostMem := s.hif.egress.foldl (fun m q => Memory.set q.1 q.2 m) s.hostMem
                         hif := { s.hif with egress := [], plUp := true, plSpeed := speed, plWidth := width, plMps := mps } })
    ∧ exec .pcieLinkDown s = .next { s with hif := { s.hif with plUp := false } }
    ∧ (s.msc.mode ≠ .off → s.msc.strapPcieOff = false → s.msc.resetting = none →
      let reset (source : Nat) : State := let t := endWindowTasks (resetFunction (abandonStep (endUpdate s)))
        { t with msc := { t.msc with resetting := some (.reset .function source) } }
      exec .perstAssert s = .next (reset 4) ∧ exec .pcieHotReset s = .next (reset 4) ∧ exec .pcieFlr s = .next (reset 3))
    ∧ (s.msc.strapPcieOff = true → exec .perstAssert s = .next s ∧ exec .pcieFlr s = .next s ∧ exec .pcieHotReset s = .next s)

/-! ### The optical engine -/

/-- The load, the swap and the refresh of a stall's holds. A load writes the shadow hold, which its completion makes valid; a swap makes a
valid shadow hold of the same set the front one, or, with none valid, drives the columns off with an error; one of another set waits for an
epoch's first symbol (the model's reading, log 74); a refresh rewrites a hold and keeps the longest interval, also where it comes late. For a
substituted stall a load builds the tables of its tile, and a swap brings them to the front (R33, R44, R45, R49 to R55, R77, R148). -/
def Obligations.StallOperations : Prop :=
  ∀ (l : Nat) (s : State),
    (∀ g, servedBy s l = some g →
      let st := stallAt s g
      (∀ t m, running s = true → held s = false → exec (.shadowLoad l t m false) s
        = .next (modStall g (fun st => { st with shadow := loadedHold s g m t, loading := true }) s))
      ∧ (st.loading = true → exec (.shadowLoadComplete l) s
        = .next (modStall g (fun st => { st with shadow := { st.shadow with valid := true, refreshed := now s }, loading := false }) s))
      ∧ (running s = true → held s = false → st.shadow.valid = true → st.loading = false → st.front.valid = false ∨ st.shadow.mset = st.front.mset →
        exec (.swap l) s = .next (settleReplays (modStall g (fun st => { st with
          front := st.shadow, shadow := { st.front with valid := false }, driveOff := false, swaps := st.swaps + 1
          state := if st.state = .unloaded then .loaded else st.state }) s)))
      ∧ (running s = true → held s = false → st.shadow.valid = true → st.front.valid = true → st.shadow.mset ≠ st.front.mset →
        exec (.swap l) s = .next s)
      ∧ (running s = true → held s = false → st.shadow.valid = false → exec (.swap l) s
        = .next (settleReplays (tdwError 1 g (modStall g (fun st => { st with driveOff := true }) s))))
      ∧ (running s = true → held s = false → st.front.valid = true → exec (.holdRefresh l false) s = .next
          { s with
            stalls := update s.stalls g (fun st => { st with front := { st.front with refreshed := now s } })
            tdw := { s.tdw with refreshMax := sat 0xFFFF (max s.tdw.refreshMax ((now s - st.front.refreshed) / 10)) } })
      ∧ (st.front.valid = true → exec (.refreshLate g false) s
        = .next (tdwError 2 g (refreshHold g false (advanceTo (st.front.refreshed + 50000) s)))))
    ∧ (servedBy s l = none → running s = true → held s = false →
      (∀ t m abort, exec (.shadowLoad l t m abort) s
        = .next (modSubst l (fun x => if x.onLge then { x with shadow := some (buildTables s m t) } else x) s))
      ∧ exec (.swap l) s = .next (modSubst l (fun x => if x.shadow.isSome then { x with front := x.shadow, shadow := none } else x) s))

/-- A load aborted for the second time in an epoch makes its stall SUSPECT; the first time it does not (R46, R64). -/
def Obligations.LoadAborts : Prop :=
  ∀ (l g : Nat) (t : Tile) (m : MSet) (s : State), running s = true → held s = false → servedBy s l = some g → (stallAt s g).state = .loaded →
    ∃ u, exec (.shadowLoad l t m true) s = .next u ∧ (stallAt u g).shadow.valid = false ∧ (stallAt u g).loading = false
      ∧ (stallAt u g).aborts = (stallAt s g).aborts + 1
      ∧ ((stallAt u g).state = .suspect ↔ 1 ≤ (stallAt s g).aborts)

/-- Reconstruction gives the chunk sum back: for every set, the residues of a value in the centred range of the data product, with the tally's
residue, give that value with no tally mismatch, and a range fault exactly where the value lies outside the chunk's bounds; a tally residue that does
not agree with the data channels is a mismatch (R78, R84, R85). -/
def Obligations.ReconstructionInverts : Prop :=
  ∀ (m : MSet) (x : Int) (qa : Nat) (n p : Int), -(setProduct m : Int) ≤ 2 * x → 2 * x < setProduct m →
    reconstruct m ((setModuli m).map (fun k => (x % (k : Int)).toNat)) qa n p
      = { value := x, tally := false, range := decide (x < qa * n ∨ qa * p < x) }
      ∧ (∀ r : Nat, r < (setModuli m).getLastD 1 →
          let residues := (setModuli m).map (fun k => (x % (k : Int)).toNat)
          r ≠ residues.getLastD 0 → (reconstruct m (residues.dropLast ++ [r]) qa n p).tally = true)

/-- Combining the planes of a channel's levels is the sum of the levels weighted by powers of two, modulo the channel's modulus. A chunk's value
enters its accumulator, which counts the chunk; an addition that would leave the signed 32-bit range is not made (R83, R87, R88). -/
def Obligations.PlanesAndAccumulators : Prop :=
  (∀ (m : Nat) (ls : List Nat), combine m ls = (((List.range ls.length).zip ls).map (fun q => 2 ^ q.1 * q.2)).sum % m)
    ∧ (∀ (slot task vec out : Nat) (v : Int) (accs : List Acc),
      (∀ a rest, accs = a :: rest → a.slot = slot → a.task = task → a.vec = vec → a.out = out → inRange32 (a.value + v) = true →
        accAdd slot task vec out v 1 accs = some ({ a with value := a.value + v, chunks := a.chunks + 1 } :: rest))
      ∧ (∀ a rest, accs = a :: rest → a.slot = slot → a.task = task → a.vec = vec → a.out = out → inRange32 (a.value + v) = false →
        accAdd slot task vec out v 1 accs = none)
      ∧ (accs.any (fun a => a.slot = slot ∧ a.task = task ∧ a.vec = vec ∧ a.out = out) = false → inRange32 v = true →
        accAdd slot task vec out v 1 accs = some (accs ++ [{ slot := slot, task := task, vec := vec, out := out, value := v, chunks := 1 }])))

/-- Passes and their replays. A pass of a ready pass group drives its stalls; a reconstruction without a fault enters its values; an optical
replay whose tile is in front sends the pass again, and any other goes to the replay unit; an electronic replay takes 4 ns and enters exact sums; a
replay past its deadline, in work cycles, holds the engine until it is done; a substitution hold ends with its cycles counted; a ramp-fill entry
is counted for its arcade's activity (R61, R82, R85, R91 to R95, R100, R137, R148, R186). -/
def Obligations.PassesAndReplays : Prop :=
  ∀ (s : State),
    (∀ (p : PassEntry) l t rest g, p.stalls = (l, t) :: rest → graphAt s t.slot = some g → taskReady s t.slot t.task = true →
      (taskAt g t.task).kind = kPassGroup → exec (.pass p) s = .next (drivePass g t.slot p (noteInputs t.slot t.task s)))
    ∧ (∀ reserve f rest, s.psr.flights = f :: rest → (flightRecon f).all (fun r => reconOk r.2.2) = true →
      exec (.chunkReconstruction reserve) s = .next (each ((flightRecon f).filter (fun r => f.want.contains r.1)) (fun r t =>
        accept .psr 7 (dieOfLogical ((f.stalls.map (fun q => q.1)).headD 0)) f.slot f.task f.vec r.1 ((r.2.2.map (fun x => x.value)).getD 0) 1 t)
        { s with psr := { s.psr with flights := rest } }))
    ∧ (∀ dev f rest, running s = true → held s = false → s.seq.fallow = false → s.psr.optWait = f :: rest → (graphAt s f.slot).isSome = true →
      (flightInFront s f = true → ∃ f', exec (.opticalReplay dev) s = .next { s with psr := { s.psr with
        optWait := rest, flights := f' :: s.psr.flights, cur := { s.psr.cur with opt := s.psr.cur.opt + f.stalls.length } } }
        ∧ f'.slot = f.slot ∧ f'.task = f.task ∧ f'.vec = f.vec ∧ f'.stalls = f.stalls ∧ f'.replay = f.replay ∧ f'.want = f.want)
      ∧ (flightInFront s f = false → exec (.opticalReplay dev) s = .next (queueReplay f { s with psr := { s.psr with optWait := rest } })))
    ∧ (∀ f rest, s.psr.queue0 = f :: rest → f.replay = true → exec (.electronicReplay false) s = .next (
        let t := elapse 4 { s with psr := { s.psr with queue0 := rest } }
        let t := { t with psr := { t.psr with cur := { t.psr.cur with elec := t.psr.cur.elec + f.stalls.length } } }
        each (unitSums t f) (fun e u => accept .psr 7 false f.slot f.task f.vec e.1 e.2 1 u) t))
    ∧ (∀ f, running s = true → held s = false → replaysPending s = [f] → exec .replayDeadline s = .next (
        let t := advanceTo (timeOfWork f.deadline s) s
        let l := (f.stalls.map (fun q => q.1)).headD 0
        raise .psr 4 { graph := some f.slot, task := f.task, unit := servedBy t l, logical := l }
          { t with seq := { t.seq with replayHold := some (now t) } }))
    ∧ (∀ t, s.seq.replayHold = some t → (replaysPending s).any (fun f => decide (f.deadline ≤ s.seq.work)) = false →
      exec .replayHoldEnd s = .next { s with seq := { s.seq with replayHold := none }
                                             psr := { s.psr with cur := { s.psr.cur with hold := s.psr.cur.hold + 2 * (now s - t) } } })
    ∧ (∀ l e, running s = true → held s = false → (servedBy s l).isSome = true →
      s.seq.page.entries.find? (fun e => decide (e.op = 4) && decide (e.unit = l) && decide (e.start ≤ epochWork s)
        && decide (epochWork s < e.start + e.len)) = some e →
      exec (.rampFill l) s = .next { s with seq := { s.seq with fill := update s.seq.fill (l / 32) (fun k => k + 16 * e.len) } })
    ∧ (∀ t, s.seq.substHold = some t →
      exec .substitutionHoldEnd s = .next { s with seq := { s.seq with substHold := none }
                                                   lge := { s.lge with cur := { s.lge.cur with cycles := s.lge.cur.cycles + 2 * (now s - t) } } })

/-- The entries of the almanac's other engines, for a task that may act and whose operands lie in memory that serves: the table engine builds its
tables slice by slice, notes its lookups and accumulates; a gemv that has its sums is rescaled and stored, a harvest is stored, an operator's
result is stored, a transfer moves its bytes, lane units are taken or presented, and a collective begins its first phase at its work cycle
(R140, R142, R144 to R146, R161, R165, R170, R184, R185, R247, R252). -/
def Obligations.EngineEntries : Prop :=
  ∀ (slot task : Nat) (g : Graph) (s : State), s.Acts slot task g →
    let t := taskAt g task
    let noted := noteInputs slot task s
    (t.kind = kLutGemv → operandStatus s g t = Status.ok →
      let n := sliceColumns (max 1 t.d2.toNat)
      exec (.lgeEntry slot task) s
        = .next (each (List.range ((t.d0.toNat + n - 1) / n)) (fun i u => lgeSlice slot task g t (i * n) u) noted))
    ∧ (t.kind = kLutGemv → operandStatus s g t = Status.ok → t.d0 ≠ 0 → t.d0.toNat ≤ sliceColumns (max 1 t.d2.toNat) →
      let k := t.d0.toNat
      let tables := (List.range t.d2.toNat).map (fun v => (List.range k).map (fun i => productTable (tdWfmt t) (int8At noted g t v i)))
      let b : LgeBank := { slot := slot, task := task, first := 0, tables := tables.flatten }
      let u := serveBank 1 b (serveBank 0 b noted)
      exec (.lgeEntry slot task) s = .next (each ((List.range t.d2.toNat).zip tables) (fun p u =>
        each (List.range t.d1.toNat) (fun o u =>
          if taskReady u slot task then
            accept .lge 2 (decide (t.d1.toNat ≤ 2 * o)) slot task p.1 o (lookupSum u g t p.2 0 o) ((k + 63) / 64) u
          else u) u)
        { u with lge := { u.lge with cur := { u.lge.cur with lookups := u.lge.cur.lookups + k * t.d1.toNat * t.d2.toNat } } }))
    ∧ ((t.kind = kPassGroup ∨ t.kind = kLutGemv) → operandStatus s g t = Status.ok → sumsReady s g slot task = true →
      exec (.squEntry slot task) s = .next (let u := completeWith slot task g (rescaledRows s g slot task) noted
        { u with psr := { u.psr with accs := u.psr.accs.filter (fun a => a.slot ≠ slot ∨ a.task ≠ task) }
                 xl := { u.xl with outlier := u.xl.outlier.filter (fun o => o.1 ≠ slot ∨ o.2.1 ≠ task) } }))
    ∧ (t.kind = kHarvest → operandStatus s g t = Status.ok →
      exec (.squEntry slot task) s = .next (completeWith slot task g (harvestRows s g t) noted))
    ∧ (t.kind = kXlOp → operandStatus s g t = Status.ok → exec (.xlEntry slot task) s = .next (xlOperator slot task g noted))
    ∧ (t.kind = kTransfer → tdList t = false → t.d0 = 0 → exec (.transferEntry slot task) s = .next (taskEnd slot task Status.ok 0 0 s))
    ∧ (t.kind = kTransfer → tdList t = false → tdWeightLoad t = false → t.d0 ≠ 0 → rangeStatus s g t.a.toNat false t.d0.toNat = Status.ok →
      rangeStatus s g t.res.toNat true t.d0.toNat = Status.ok →
      let bs := taskBytes s g t.a.toNat t.d0.toNat
      let u := taskWrite g t.res.toNat bs (addInput g.slot task bs s)
      (u.hif.egressFull = false → exec (.transferEntry slot task) s = .next (taskEnd slot task Status.ok 0 t.d0.toNat u))
      ∧ (u.hif.egressFull = true → exec (.transferEntry slot task) s =
          .next (taskEnd slot task Status.hwUnitFault 0 (u.hif.egress.length - s.hif.egress.length)
            (raise .hif 2 {} { u with hif := { u.hif with egressFull := false } }))))
    ∧ (t.kind = kLaneIn → rangeStatus s g t.res.toNat true (extentRes s t) = Status.ok →
      exec (.laneEntry slot task) s = .next (laneIn slot task g s))
    ∧ (t.kind = kLaneOut → rangeStatus s g t.a.toNat false (extentA s t) = Status.ok →
      exec (.laneEntry slot task) s = .next (laneOut slot task g noted))
    ∧ (t.kind = kCollective → liveColl s = none → t.d1 = 0 → exec (.linkEntry slot task) s = .next (taskEnd slot task Status.ok 0 0 s))
    ∧ (let v := advanceTo (timeOfWork (s.seq.workAt + linkStart s slot task) s) s
      let cd := collOf s g task
      let size := contribution t
      let recv := commonAt (cdRecv cd)
      t.kind = kCollective → liveColl s = none → t.d1 ≠ 0 → operandStatus v g t = Status.ok →
      rangeStatus v g recv true (s.ole.size.toNat * size) = Status.ok →
      exec (.linkEntry slot task) s = .next (
        let w := noteInputs slot task v
        let u := taskWrite g (recv + w.ole.index.toNat * size) (taskBytes w g t.a.toNat size) w
        startPhase 0 { u with ole := { u.ole with
          coll := some { slot := slot, task := task, phase := 0, phases := cdPhases cd, recv := recv, size := size } } }))

/-- An entry of a task that may not act yet does nothing: a task of no run, one that has ended, or one whose producers have not completed
(R167). -/
def Obligations.EntriesWait : Prop :=
  ∀ (slot task : Nat) (s : State), taskReady s slot task = false →
    exec (.lgeEntry slot task) s = .next s ∧ exec (.squEntry slot task) s = .next s ∧ exec (.xlEntry slot task) s = .next s
      ∧ exec (.transferEntry slot task) s = .next s ∧ exec (.laneEntry slot task) s = .next s ∧ exec (.linkEntry slot task) s = .next s

/-- A lane unit due is presented; one not written yet is late, and counted; a tag record is written in two entries of the graph's ledger
ring. A batch whose first record is 1 s old closes; the MSC signs the oldest closed batch of a ring that is not disabled (R185, R209, R211,
R212). -/
def Obligations.LanesTagsAndBatches : Prop :=
  ∀ (s : State),
    (∀ n u d, (laneAt s n).out.find? (fun u => !u.done && !u.late) = some u → u.data = some d →
      exec (.laneUnitPresent n) s = .next (presentLane n (advanceTo u.time s)))
    ∧ (∀ n u, (laneAt s n).out.find? (fun u => !u.done && !u.late) = some u → u.data = none → (laneAt s n).dropLate = false →
      exec (.laneUnitPresent n) s = .next (laneLate n (modLane n (fun l => { l with
        out := l.out.map (fun v => if v = u then { v with late := true } else v) }) (advanceTo u.time s))))
    ∧ (∀ slot task g r p, graphAt s slot = some g → g.run = some r → r.tagWait.find? (fun p => p.task = task) = some p →
      exec (.tagRecordWrite slot task) s = .next (
        let i := g.ledgerRing
        let record := tagRecord s g (ringOf s i).ledgerSeq p
        let u := modGraph slot (fun g => { g with run := g.run.map (fun r =>
          { r with tagWait := r.tagWait.filter (fun q => q.task ≠ task), tags := r.tags - 2 }) }) s
        let u := modRing i (fun q => { q with ledgerSeq := q.ledgerSeq + 1 }) u
        finishRun slot (passCopy i record (ringPushReserved i (record.drop 64) (ringPushReserved i (record.take 64) u)))))
    ∧ (∀ ring : BitVec 14, s.msc.running = true →
      let i := ring.toNat
      let r := ringOf s i
      (r.batch ≠ [] → exec (.ledgerBatchTimeout ring) s = .next (
        let t := advanceTo (r.batchAt + 1000000000) s
        setRing i { r with closed := r.closed ++ [(r.batchFirst, r.batchGap, s.msc.ledgerSlot, r.batch)], batch := [], batchGap := false } t))
      ∧ (∀ b rest, r.closed = b :: rest → r.state ≠ .disabled → exec (.signatureRecord ring) s = .next (
        writeSignatures i (r.sigWait.length + 1) (setRing i { r with closed := rest, sigWait := r.sigWait ++ [signatureRecord s b] } s))))

/-! ### Epochs -/

/-- The epoch's course. A boundary opens the next epoch from a fallow slot, or the first one where none is open; a slot begins when the
epoch's work cycles end, where that is 5 us or more before the boundary; work that reaches 5 us before the boundary is an overrun, counted, and
its short slot of 5 us, in which no reading is taken, ends in a late boundary.
An epoch is numbered by hall time: its boundary's time over the length in force; a short slot that ends within the epoch keeps the number
and lags, and one that ends later lapses the epoch (R181, R183, R188 to R190). -/
def Obligations.EpochCourse : Prop :=
  ∀ (s : State), running s = true →
    (s.seq.boundary = 0 → exec .epochBoundary s = .next (openEpoch (openingAt s (nextBoundary s)) (advanceTo (nextBoundary s) s)))
    ∧ (s.seq.fallow = true → s.seq.short = false →
      exec .epochBoundary s = .next (openEpoch (openingAt s (nextBoundary s)) (advanceTo (nextBoundary s) s)))
    ∧ (∀ o, awaitsSlot s = true → s.seq.overrun = false → slotTime s + 5000 ≤ nextBoundary s →
      exec (.fallowSlotBegin o) s = .next (
        let t := advanceTo (slotTime s) s
        let urgent := urgentRound (rateTriggered t.psr.cur) t
        retestLanes o.lanePasses (takeovers o.noTime o.takeoverDark
          (calibrateSlot o urgent (slotSteps o (nextBoundary t) urgent (beginSlot false t))))))
    ∧ (s.seq.boundary ≠ 0 → s.seq.fallow = false → s.seq.overrun = false →
      exec .epochOverrun s = .next (let t := advanceTo (nextBoundary s - 5000) s
        raise .seq 0 {} { t with seq := { t.seq with overrun := true, overruns := sat 0xFFFFFFFF (t.seq.overruns + 1) } }))
    ∧ (∀ o, awaitsSlot s = true → s.seq.overrun = true →
      exec (.shortFallowSlot o) s = .next (
        let t := advanceTo (slotTime s) s
        skipReadings (slotSteps o (now t + 5000) false (beginSlot true t))))
    ∧ (s.seq.boundary ≠ 0 → s.seq.fallow = true → s.seq.short = true →
      exec .lateBoundary s = .next (openEpoch (openingAt s (s.seq.slotStart + 5000)) (advanceTo (s.seq.slotStart + 5000) s)))
    ∧ (∀ t : Nat, s.tsl.lenNext = s.tsl.len → nextBoundary s ≤ t →
      let l := s.tsl.len.toNat * 50000
      (t < nextBoundary s + l → openingAt s t = { epoch := nextBoundary s / l, lag := t - nextBoundary s, lapsed := false, len := s.tsl.len })
      ∧ (nextBoundary s + l ≤ t →
          openingAt s t = { epoch := nextBoundary s / l + 1, lag := t - nextBoundary s - l, lapsed := true, len := s.tsl.len }))

/-! ### Memory errors and the ledger -/

/-- Refresh of the memories has no effect that an access sees; a read of HBM3E that passes on a reread is counted, with its event; a
persistent error puts the ring that met it in FAULTED, and one in the reads of an admission is kept for its second check; a stack with 16 of them in 16 epochs, or with command parity lost, and a package fail
(R219 to R222, R227, R232). -/
def Obligations.MemoryErrors : Prop :=
  ∀ (s : State),
    exec .hbmRefresh s = .next s ∧ exec .lpddrRefresh s = .next s
    ∧ (∀ a use, a < hbmEnd → exec (.parityReread a use 1) s = .next (raise .hms 0 (readInfo a use) { s with hms := { s.hms with
        retries := s.hms.retries + 1, hbm := update s.hms.hbm (stackOf a) (fun k => { k with cur := k.cur + 1 }) } }))
    ∧ (∀ a i, a < hbmEnd → (ringOf s i).state = .enabled → s.hif.evRingEn = false → ∃ t, exec (.persistentError a (.ring i)) s = .next t
        ∧ (ringOf t i).state = .faulted ∧ (ringOf t i).cause = 3 ∧ t.hms.lastErr = some a ∧ t.hms.persist = s.hms.persist + 1
        ∧ t.mem = s.mem ∧ t.hostMem = s.hostMem ∧ t.seq = s.seq ∧ t.stalls = s.stalls)
    ∧ (∀ a, a < hbmEnd → ∃ t, exec (.persistentError a .admission) s = .next t
        ∧ t.seq.admitBad = a :: s.seq.admitBad ∧ t.seq.graphs = s.seq.graphs ∧ t.mem = s.mem ∧ t.hms.persist = s.hms.persist + 1)
    ∧ (∀ n, n < 10 → stackState s n = .inService → 16 ≤ ((s.hms.hbm.getD n {}).persist.filter (fun e => s.seq.epoch < e + 16)).length →
      exec (.stackFail n) s = .next (failStack n s))
    ∧ (∀ n, n < 10 → stackState s n = .inService → n < s.hms.hbm.length → ∃ t, exec (.stackCaParityLoss n) s = .next t
        ∧ stackState t n = .failing ∧ t.ev.hms.toNat.testBit 2 = true)
    ∧ (∀ n, n < 12 → s.lms.failed.toNat.testBit n = false → s.lms.tier ≠ .failed → ∃ t, exec (.lpddrPackageFail n) s = .next t
        ∧ t.lms.failed.toNat.testBit n = true ∧ t.lms.failing = true ∧ t.ev.lms.toNat.testBit 2 = true)

/-! ### Links -/

/-- Frames that arrive on an active lane: a good DATA frame of a collective in progress is stored in its place of the receive area and
acknowledged; one asked for again is sent again, and the fourth failure of one frame on one lane drops the lane; a frame that is not good is
discarded and counted on its lane and for the block, with OLE_CRC, and with no collective in progress the almanac and the stalls stay as they
are; IDLE and SERVICE have their effect, and a frame that carries the peer's report of a late start is noted (R240, R247, R252 to R258, R263). -/
def Obligations.LinkFrames : Prop :=
  ∀ (f : LinkFrame) (s : State), (linkLane s f.lane).state = .active →
    let counted := takeReport f { s with ole := { s.ole with cur := { s.ole.cur with frames := s.ole.cur.frames + 1 } } }
    (frameGood f 1 = true → s.ole.coll = none → exec (.frameData f) s = .next counted)
    ∧ (∀ c g q v, frameGood f 1 = true → liveColl counted = some (c, g) →
      let p := (linkLane s f.lane).port.toNat
      let n := frameNumber (lowestMissing c p) (frameSeq f.check)
      arriving counted c g p = some (q, v) → n < framesOf c.size → c.got.contains (p, n) = false → exec (.frameData f) s
        = .next (awaitPeer q (takeAck f.lane f (modColl (fun c => moveCursor f.lane n { c with got := (p, n) :: c.got })
            (taskWrite g (c.recv + v * c.size + 472 * n) (f.payload.take (c.size - 472 * n)) counted)))))
    ∧ (frameGood f 1 = false → exec (.frameData f) s = .next (discardFrame f.lane f s))
    ∧ (frameGood f 2 = true → s.ole.reconf = [] → exec (.frameIdle f) s = .next (takeAck f.lane f (takeReport f s)))
    ∧ (frameGood f 3 = false → exec (.frameResendReq f) s = .next (discardFrame f.lane f s))
    ∧ (∀ c g x, frameGood f 3 = true → liveColl s = some (c, g) →
      let p := (linkLane s f.lane).port.toNat
      let n := frameNumber (acked c p) (frameAck f.check)
      c.sent.find? (fun x => decide (x.1 = p) && decide (x.2.2 = n)) = some x → (linkLane s x.2.1).state = .active →
      (c.fails = [] →
        exec (.frameResendReq f) s = .next (resendOn p n x.2.1 (modColl (fun c => { c with fails := [(x.2.1, n, 1)] }) s)))
      ∧ (c.fails = [(x.2.1, n, 3)] →
        exec (.frameResendReq f) s = .next (dropLanes true [x.2.1] (modColl (fun c => { c with fails := [(x.2.1, n, 4)] }) s))))
    ∧ (frameGood f 4 = true → f.pausing = true → exec (.frameService f) s
      = .next (each f.names (fun l t => modLinkLane l (fun x => { x with pauseUntil := some (now t + 10000) }) t) s))
    ∧ (frameGood f 4 = true → f.pausing = false → exec (.frameService f) s = .next (dropLanes false f.names (takeReport f s)))
    ∧ (frameGood f 1 = false → s.ole.coll = none → f.lane < s.ole.lanes.length →
      ∃ t, exec (.frameData f) s = .next t ∧ t.ole.cur.crc = s.ole.cur.crc + 1 ∧ (linkLane t f.lane).fails = (linkLane s f.lane).fails + 1
        ∧ (linkLane t f.lane).state = .active ∧ t.ev.ole.toNat.testBit 0 = true ∧ t.seq = s.seq ∧ t.stalls = s.stalls)

/-- Lanes and ports. A lane out of lock, or discarding for the ninth time in an epoch, is dropped, but not while it pauses; a pause ends; light at a
dark port starts its training, which puts the port UP with its lanes active and bars those that failed its test frames, or DOWN with a reason; loss of light parks the port and makes it
dark; a dark port probes; the power monitor parks a port. A lane dropped leaves service at once with OLE_LANE_FAIL, and no other lane changes; one that is
not active is left as it is (R243, R258, R260, R261, R263, R301). -/
def Obligations.LanesAndPorts : Prop :=
  ∀ (s : State),
    (∀ l, (linkLane s l).pauseUntil = none → exec (.laneLockLoss l) s = .next (dropLanes true [l] s))
    ∧ (∀ l t, (linkLane s l).pauseUntil = some t → exec (.laneLockLoss l) s = .next s)
    ∧ (∀ l, 8 < (linkLane s l).epochFails → exec (.laneDiscardLimit l) s = .next (dropLanes true [l] s))
    ∧ (∀ l t, (linkLane s l).pauseUntil = some t →
      exec (.lanePauseEnd l) s = .next (modLinkLane l (fun x => { x with pauseUntil := none }) (advanceTo t s)))
    ∧ (∀ p, p < 4 → running s = true → (portOf s p).state = .dark →
      exec (.portLightArrival p) s = .next (trainPort p (modPort p (fun q => { q with blocked := false, probes := 0 }) s))
      ∧ exec (.aprProbe p) s = .next (modPort p (fun q => { q with probes := q.probes + 1 }) (emit (.probe p) s)))
    ∧ (∀ p o,
      let lanes := (List.range 32).filter (fun l =>
        decide (steeredBy s.ole.restLanes s l = p) && decide ((linkLane s l).state ≠ .dark) && !o.failed.contains l)
      (portOf s p).state = .training → trainReason s lanes o = none → exec (.portTrainingDone p o) s = .next (groupState
        (barFailed p o (each lanes (fun l t => modLinkLane l (fun x => { x with state := .active, port := BitVec.ofNat 2 p, barred := false }) t)
          (modPort p (fun q => { q with
            state := .up, reason := 0, peer := o.index, peerPort := o.port, rtt := BitVec.ofNat 12 o.rtt }) s)))))
    ∧ (∀ p o r,
      let lanes := (List.range 32).filter (fun l =>
        decide (steeredBy s.ole.restLanes s l = p) && decide ((linkLane s l).state ≠ .dark) && !o.failed.contains l)
      (portOf s p).state = .training → trainReason s lanes o = some r → (portOf s p).peer ≠ o.index →
      exec (.portTrainingDone p o) s = .next (raise .ole 4 { unit := some p } (groupState (barFailed p o (modPort p (fun q => { q with
        state := .down, reason := r, peer := o.index, peerPort := o.port, rtt := BitVec.ofNat 12 (min o.rtt 4095) }) s)))))
    ∧ (∀ p, p < 4 → (portOf s p).state ≠ .dark → exec (.lossOfSignal p) s = .next (
      raise .ole 4 { unit := some p } (raise .ole 5 { unit := some p } (groupState (modPort p (fun q => { q with state := .dark }) (parkPort p s))))))
    ∧ (∀ p, p < 4 → exec (.portPowerMonitorTrip p) s = .next (parkPort p s))
    ∧ (∀ l, (linkLane s l).pauseUntil = none → s.ole.coll = none → l < s.ole.lanes.length → (linkLane s l).state = .active →
      ∃ t, exec (.laneLockLoss l) s = .next t ∧ (linkLane t l).state = .dropped
        ∧ t.ev.ole.toNat.testBit 2 = true ∧ t.seq = s.seq ∧ (∀ k, k ≠ l → linkLane t k = linkLane s k))
    ∧ (∀ l, (linkLane s l).pauseUntil = none → (linkLane s l).state ≠ .active → exec (.laneLockLoss l) s = .next s)

/-- A collective's phases. At 3 us a phase whose lanes are all verified is sent, and a lane not verified by then is dropped, with
OLE_RECONF_LATE; a window that ends with every frame goes on to the next
phase, and one that misses frames holds the links; the hold ends with the last frame, or at 1 ms ends the collective with HW_LINK_FAILED
(R247, R255 to R257). -/
def Obligations.CollectivePhases : Prop :=
  ∀ (s : State),
    (∀ t, s.ole.steering = some t → s.ole.reconf = [] → exec .reconfigurationDeadline s = .next (
      let u := advanceTo (t + 3000) s
      sendPhase (modColl (fun c => { c with waiting := false }) { u with ole := { u.ole with steering := none, reconf := [] } })))
    ∧ (∀ t l k, s.ole.steering = some t → s.ole.reconf = [(l, k)] → exec .reconfigurationDeadline s = .next (
      let u := advanceTo (t + 3000) s
      sendPhase (modColl (fun c => { c with waiting := false }) (raise .ole 6 { unit := some l }
        (dropLanes true [l] { u with ole := { u.ole with steering := none, reconf := [] } })))))
    ∧ (∀ c g, liveColl s = some (c, g) → c.waiting = false → s.seq.linkHold = none →
      let u := advanceTo (windowEnd s c g) (sendRequests s)
      (missingFrames u c g = [] → exec .phaseWindowEnd s = .next (nextPhase u))
      ∧ (∀ m, (missingFrames u c g).getLast? = some m → exec .phaseWindowEnd s = .next (
          raise .ole 1 { graph := some c.slot, task := c.task, unit := some m.1 } { u with
            seq := { u.seq with linkHold := some (now u) }
            ole := { u.ole with lastHold := { cause := if c.lost then 2 else if c.peerLate then 3 else if c.retried then 1 else 3
                                              peer := ((arriving u c g m.1).map (fun q => q.1)).getD 0, graph := c.slot, task := c.task } } })))
    ∧ (∀ t c g, s.seq.linkHold = some t → liveColl s = some (c, g) → phaseComplete s c g = true →
      exec .linkHoldEnd s = .next (nextPhase (endLinkHold t s)))
    ∧ (∀ t, s.seq.linkHold = some t → s.ole.coll = none → exec .linkHoldEnd s = .next (endLinkHold t s))
    ∧ (∀ t c g,
      let u := advanceTo (t + 1000000) s
      s.seq.linkHold = some t → liveColl u = some (c, g) → phaseComplete u c g = false → exec .linkHoldTimeout s = .next (
        taskEnd c.slot c.task Status.hwLinkFailed 0 0 (endColl (endLinkHold t
          { u with ole := { u.ole with lastHold := { u.ole.lastHold with cause := 4 } } }))))

/-! ### Light -/

/-- The sources of a computing arcade: a spare locks; a source that does not lock at start-up fails and its locked partner serves; a trip
fails the serving source, opens a light hold and locks the spare; the spare that has locked serves and the arcade's hold ends; a spare that
fails to lock within 250 us makes the arcade dark; a locked spare due to take over and found worn is kept as WORN, and a warm spare that
fails is FAILED, each with its event. A link source that fails makes its eight lanes dark, and its warm spare begins to lock (R293, R297,
R299 to R301, R304). -/
def Obligations.Sources : Prop :=
  ∀ (s : State),
    (∀ i, i < 48 → (sourceAt s i).state = .locking → exec (.spareLocked i) s = .next (modSource i (fun x => { x with state := .locked }) s))
    ∧ (∀ i, (sourceAt s i).state = .locking → s.cls.tripped = [] → partnerOf i ≠ i → (sourceAt s (partnerOf i)).state = .locked →
      exec (.sourceLockTimeout i) s
        = .next (modSource (partnerOf i) (fun x => { x with state := .serving }) (modSource i (fun x => { x with state := .failed }) s)))
    ∧ (∀ a i, running s = true → a < 24 → s.cls.dark = [] → s.cls.tripped = [] → servingOf s a = some i →
      (sourceAt s (partnerOf i)).state = .warm → exec (.lightTrip a) s = .next (
        let t := modSource i (fun x => { x with state := .failed, due := none }) s
        modSource (partnerOf i) (fun x => { x with state := .locking }) (raise .cls 2 { unit := some i } { t with
          seq := { t.seq with lightHold := some (t.seq.lightHold.getD (now t)) }
          cls := { t.cls with tripped := [(a, now t)], waits := t.cls.waits.filter (fun j => j ≠ i), requests := t.cls.requests.filter (fun j => j ≠ i)
                              last := { kind := 2, src := i, dst := partnerOf i, dark := 0 } } })))
    ∧ (∀ a t i, s.cls.tripped.find? (fun q => q.1 = a) = some (a, t) → [2 * a, 2 * a + 1].find? (fun i => (sourceAt s i).state = .locked) = some i →
      exec (.lightHoldEnd a) s = .next (
        let u := modSource i (fun x => { x with state := .serving, due := none }) s
        lightHoldMayEnd { u with cls := { u.cls with
          tripped := u.cls.tripped.filter (fun q => q.1 ≠ a)
          last := { kind := 2, src := partnerOf i, dst := i, dark := sat 0xFFFF ((now u - t) / 100) } } }))
    ∧ (∀ a t i, s.cls.tripped.find? (fun q => q.1 = a) = some (a, t) → [2 * a, 2 * a + 1].find? (fun i => (sourceAt s i).state = .locking) = some i →
      exec (.spareLockFail a) s = .next (darkArcade a (raise .cls 3 { unit := some i }
        (modSource i (fun x => { x with state := .failed }) (advanceTo (t + 250000) s)))))
    ∧ (∀ i, (sourceAt s i).due.isSome = true → (sourceAt s i).state = .locked → (sourceAt s (partnerOf i)).state = .serving →
      exec (.sourceWorn i) s = .next (raise .cls 1 { unit := some i } (modSource i (fun x => { x with state := .worn, due := none }) s)))
    ∧ (∀ i, (sourceAt s i).state = .warm → s.cls.tripped = [] → exec (.spareSourceFail i) s = .next (raise .cls 4 { unit := some i }
        (modSource (partnerOf i) (fun y => { y with due := none }) (modSource i (fun y => { y with state := .failed, due := none }) s))))
    ∧ (∀ i, 48 ≤ i → (sourceAt s i).state = .serving → (sourceAt s (partnerOf i)).state = .warm → partnerOf i ≠ i →
      exec (.linkSourceFail i) s = .next (
        let t := modSource i (fun x => { x with state := .failed, due := none }) s
        let t := raise .cls 2 { unit := some i } { t with cls := { t.cls with last := { kind := 2, src := i, dst := partnerOf i, dark := 0 } } }
        modSource (partnerOf i) (fun x => { x with state := .locking })
          (each (engineLanes i) (fun l u => modLinkLane l (fun x => { x with state := .dark, retested := false }) u)
            (dropLanes true (engineLanes i) t))))

/-! ### Calibration -/

/-- Start-up calibration and reacquisition begin once every pair of sources has settled, and their editions become current; a monitor
input's sample, taken at its place in its converter's scan, enters its history; one railed for eight scans is faulted; a zone calm for 64
epochs returns to its feed, with the ratio it found kept where the temperature moved by more than 3 degrees; a weak row asks for its stall's
probe. The edition of a start-up calibration rests on what it measured; with it no trim is pending, the phase is idle and CAL_STARTUP_DONE is
set (R264, R267, R269, R271, R279, R281, R282). -/
def Obligations.Calibration : Prop :=
  ∀ (s : State),
    (pairsSettled s = true → s.cal.phase = 0 → s.seq.graphs = [] →
      exec .startupCalibration s = .next { s with cal := { s.cal with phase := 1, phaseAt := now s } }
      ∧ exec .reacquisition s = .next { s with cal := { s.cal with phase := 8, phaseAt := now s } })
    ∧ (∀ o, s.cal.phase = 1 → o.slow = false →
      exec (.startupCalibrationDone o) s = .next (startupCalibration o s))
    ∧ (∀ o, s.cal.phase = 8 → o.slow = false → exec (.reacquisitionDone o) s
      = .next (if fullNeeded o then { s with cal := { s.cal with phase := 1, phaseAt := now s } }
          else editionBuilt o (reacquired s) (failRows o s)))
    ∧ (∀ n raw, 1688 ≤ n → n < 2048 → raw < 65536 → diesPowered s = true → s.cal.scan.getD (n % 4) 0 = n / 4 →
      exec (.monitorAdcSample n raw) s = .next (
        let t := { s with cal := { s.cal with scan := update s.cal.scan (n % 4) (fun k => (k + 1) % 512) } }
        let u := setMon n { monOf s n with raw := raw, hist := (raw :: (monOf s n).hist).take 8
                                           railed := if decide (raw = 0) || decide (raw = 0xFFFF) then min 8 ((monOf s n).railed + 1) else 0 } t
        if running u then useSample n u else u))
    ∧ (∀ n raw, n < 816 → raw < 65536 → diesPowered s = true → s.cal.scan.getD (n % 4) 0 = n / 4 →
      ∃ t, exec (.monitorAdcSample n raw) s = .next t
        ∧ (monOf t n).raw = raw ∧ (monOf t n).hist = (raw :: (monOf s n).hist).take 8)
    ∧ (∀ n, (monOf s n).railed = 8 → (monOf s n).faulted = false → n < 816 →
      exec (.monitorInputFault n) s = .next (raise .cal 6 { unit := some n } (setMon n { monOf s n with faulted := true } s)))
    ∧ (∀ z, (zoneAt s z).loop = true → (zoneAt s z).calm = 64 → ((sensorAt s (zoneSensor z)).temp - (zoneAt s z).entryTemp).natAbs ≤ 48 →
      exec (.zoneLoopExit z) s = .next (modZone z (fun _ => { zoneAt s z with loop := false, badScans := 0, calm := 0, corr := 0 }) s))
    ∧ (∀ z, (zoneAt s z).loop = true → (zoneAt s z).calm = 64 →
      let d := (sensorAt s (zoneSensor z)).temp - (zoneAt s z).entryTemp
      48 < d.natAbs → exec (.zoneLoopExit z) s = .next (modZone z (fun _ => { zoneAt s z with
        loop := false, badScans := 0, calm := 0, corr := 0
        kappaN := if d < 0 then -(zoneAt s z).corr else (zoneAt s z).corr, kappaD := d.natAbs }) s))
    ∧ (∀ g row, 4 ≤ (assoc (68 * g + row) s.cal.low).getD 0 → (stallAt s g).weak.contains row = false → exec (.weakRow g row) s = .next (
        let t := modStall g (fun st => { st with weak := st.weak ++ [row] }) s
        probeRequest g (raise .cal 5 { unit := some g, logical := (stallAt t g).logical.getD 0xFFFF } t)))
    ∧ (∀ o, s.cal.phase = 1 → o.slow = false → ∃ t, exec (.startupCalibrationDone o) s = .next t
      ∧ t.cal.trims.base = s.cal.measured + 1 ∧ t.cal.trims.zeroBase = s.cal.measured + 1 ∧ t.cal.measured = s.cal.measured + 1
      ∧ t.cal.trimsPending = t.cal.trims ∧ t.cal.phase = 0 ∧ t.cal.pending = none ∧ t.cal.started = true
      ∧ t.tdw.trimPending = false ∧ t.tdw.edition = s.tdw.edition + 1 ∧ t.ev.cal.toNat.testBit 0 = true ∧ t.seq.graphs = s.seq.graphs
      ∧ t.hms = s.hms ∧ (s.hif.evRingEn = false → t.regions = s.regions))

/-! ### Temperature and throttling -/

/-- A sensor's sample is its reading, unless it puts the module in FROST; one judged invalid no longer counts; a domain leaves its level 10
ms after its reading fell below; the skip count falls by at most 6 every 100 us; fast sampling ends; a sensor at 115 degrees takes every
supply but the backup domain away (R355, R357, R358, R361, R367). -/
def Obligations.Temperatures : Prop :=
  ∀ (s : State),
    (∀ i t, i < 278 → i < s.tps.sensors.length → s.msc.mode = .idle → domainPowered s (sensorDomain i) = true → -640 ≤ t → t ≤ 1000 →
      ∃ u, exec (.sensorSample i t) s = .next u ∧ ((sensorAt u i).temp = t ∧ (sensorAt u i).sampled = true ∨ u.msc.mode = .frost))
    ∧ (∀ i, i < 278 → s.msc.mode ≠ .off → domainPowered s (sensorDomain i) = true → (sensorAt s i).valid = true →
      exec (.sensorInvalid i) s = .next (invalidate i s))
    ∧ (∀ d t, (domainAt s d).level = 1 → (domainAt s d).below.getD 0 none = some t → now s ≤ t + 10000000 → t + 10000000 < 2 ^ 64 → exec (.thermalLevelLeave d) s
      = .next (withLevel (modDomain d (fun x => { x with level := 0 })) (advanceTo (t + 10000000) s)))
    ∧ (levelK (levelInForce s) < s.tps.k → exec .throttleStepDown s = .next (let u := advanceTo (s.tps.stepAt + 100000) s
        { u with tps := { u.tps with k := max (levelK (levelInForce s)) (s.tps.k - 6), stepAt := now u } }))
    ∧ (∀ d, d < 7 → ((sensorsOf d).map (fun i => (sensorAt s i).fastUntil)).foldl max 0 ≠ 0 → exec (.fastSamplingEnd d) s = .next (
        setFast d (each (sensorsOf d) (fun i t => modSensor i (fun x => { x with fastUntil := 0 }) t)
          (advanceTo (((sensorsOf d).map (fun i => (sensorAt s i).fastUntil)).foldl max 0) s))))
    ∧ (∀ i t, i < 278 → s.msc.mode ≠ .off → 1840 ≤ t → t ≤ 2400 → domainPowered s (sensorDomain i) = true → (sensorAt s i).valid = true →
      ∃ u, exec (.hardwareTrip i t) s = .next u ∧ u.msc.mode = .off ∧ u.tps.trip = some (i, t, s.msc.calS, s.msc.calNs) ∧ u.tps.groups = 1 ∧ u.mem = []
        ∧ u.msc.journal = s.msc.journal ∧ u.hostMem = s.hostMem)

/-! ### Power -/

/-- The input and its supplies. A qualified input brings an enabled module up into STANDBY; an input interruption of each cause takes it to
OFF, the one for undervoltage shown with its record in the journal; in OFF the switch opens; a rail that does not come up stops the sequence
in STANDBY (R373 to R376, R383, R391, R392, R426, R451). -/
def Obligations.InputPower : Prop :=
  ∀ (s : State),
    exec .pwrEnAssert s = .next { s with tps := { s.tps with pwrEn := true } }
    ∧ exec .reverseCurrent s = .next { s with tps := { s.tps with switch := false } }
    ∧ (s.msc.mode = .off → s.tps.pwrEn = true → s.tps.offLatch = false → exec .inputQualified s
      = .next (powerOn 0 { s with tps := { s.tps with switch := true } }))
    ∧ (s.msc.mode = .off → exec .inputQualificationLost s = .next { s with tps := { s.tps with switch := false } })
    ∧ (s.msc.mode = .off → exec .inputUndervoltage s = .next { s with tps := { s.tps with offLatch := false, switch := false } })
    ∧ (s.msc.mode ≠ .off →
      (∃ t, exec .inputUndervoltage s = .next t ∧ t.msc.mode = .off ∧ t.tps.groups = 1 ∧ s.msc.journalSeq < t.msc.journalSeq ∧ t.mem = []
        ∧ t.seq.graphs = [] ∧ t.hif.rings = [] ∧ t.msc.hostKeys = s.msc.hostKeys)
      ∧ exec .inputUndervoltage s = .next (inputInterruption 1 0xFF s)
      ∧ exec .inputOvervoltage s = .next (inputInterruption 2 0xFF s)
      ∧ exec .breakerTrip s = .next (inputInterruption 3 0xFF s)
      ∧ exec .pwrEnDeassert s = .next (inputInterruption 4 0xFF { s with tps := { s.tps with pwrEn := false, offLatch := false } })
      ∧ (∀ group, 1 ≤ group → group ≤ 5 → s.tps.groups.toNat.testBit group = true →
          exec (.railDroop group) s = .next (inputInterruption 6 (Config.railCode group) s)))
    ∧ (∀ group, sequencing s = true → 2 ≤ group → group ≤ 5 → s.msc.mode = .standby → ∃ t, exec (.railFault group) s = .next t
        ∧ t.msc.mode = .standby ∧ t.tps.groups = 3 ∧ t.msc.resetting = none ∧ t.regions = [] ∧ t.ev.tps.toNat.testBit 18 = true)

/-- Power telemetry and its levels. A sample enters the averages; P1s is within 1.5 % and 2 W of the mean of
the last second, and its rules raise and lower the level; loss of telemetry holds the level at 3; an excursion
raises it, and at level 3 ends in an input interruption; the backup domain's own events (R379 to R382, R385, R387). -/
def Obligations.PowerTelemetry : Prop :=
  ∀ (s : State), s.msc.mode ≠ .off →
    (∀ v i, v < 65536 → i < 65536 → ∃ t, exec (.telemetrySample v i) s = .next t ∧ t.tps.inV = v ∧ t.tps.inI = i ∧ t.tps.isoOk = true
      ∧ t.tps.currents = (i :: s.tps.currents).take 100 ∧ t.tps.powers = (v * i :: s.tps.powers).take 10
      ∧ t.tps.p100 = sat 0xFFFF (((v * i :: s.tps.powers).take 10).sum / (10000 * ((v * i :: s.tps.powers).take 10).length)))
    ∧ (∀ x : Nat, let l := (s.tps.msPower :: s.tps.secPower).take 1000
       let mean := (l.map (fun q => q.1)).sum / (10000 * (l.map (fun q => q.2)).sum)
       let p := if 200 * ((x : Int) - mean).natAbs ≤ 3 * mean + 400 then x else mean
       let u := { s with tps := { s.tps with msPower := (0, 0), secPower := l, p1s := sat 0xFFFF p } }
       (940 < p → p ≤ 985 → exec (.p1sUpdate x) s = .next u)
       ∧ (985 < p → since s s.tps.sustAt 50000000 = true → exec (.p1sUpdate x) s
          = .next (raiseLp { u with tps := { u.tps with sustAt := some (now s) } }))
       ∧ (p ≤ 940 → s.tps.excursion = false → s.tps.calmAt + 100000000 ≤ now s → since s s.tps.fallAt 100000000 = true → s.tps.isoLost = false →
          0 < s.tps.lp → exec (.p1sUpdate x) s = .next (withLevel (fun s =>
            raise .tps 10 {} { s with tps := { s.tps with lp := s.tps.lp - 1, fallAt := some (now s) } }) u)))
    ∧ (s.tps.excursion = true → exec .excursionStep s = .next (
        let t := advanceTo (s.tps.excAt + 10000000 + 5000000 * s.tps.excSteps) s
        raiseLp { t with tps := { t.tps with excSteps := t.tps.excSteps + 1 } }))
    ∧ (s.tps.excursion = true → s.tps.lp = 3 → s.tps.overAt = none → exec .energyLimitShutdown s
      = .next (inputInterruption 5 0xFF (advanceTo (s.tps.excAt + 20000000) s)))
    ∧ (∃ t, exec .telemetryLoss s = .next t ∧ t.tps.isoOk = false ∧ t.tps.isoLost = true ∧ t.tps.lp = 3 ∧ t.ev.tps.toNat.testBit 11 = true)
    ∧ exec .telemetryReturn s = .next { s with tps := { s.tps with isoOk := true, isoLost := false } }
    ∧ exec .backupDomainPowerOn s = .next (raise .tps 16 {}
        { s with msc := { s.msc with calS := 0, calNs := 0, calSet := false }, tps := { s.tps with trip := none } })
    ∧ (∀ cap ext, exec (.supercapLow cap ext) s = .next (
        let t := { s with tps := { s.tps with bkCap := sat 4095 cap, bkExt := sat 4095 ext } }
        if cap < 2200 ∧ ext < 2500 then raise .tps 17 {} t else t))

/-! ### Lifecycle -/

/-- Actions and resets. The action set begins 1 ms after its completion; RESET_N performs a cold reset from IDLE and holds STANDBY; its
release lets STANDBY go on; a reset under way ends in its end state, and what waited proceeds; in STANDBY measured boot brings the module up
or puts it in RECOVERY (R323, R391, R392, R394, R404, R451). -/
def Obligations.ActionsAndResets : Prop :=
  ∀ (s : State),
    (∀ a, s.msc.action = some a → exec .mscActionStart s = .next (
      let t := advanceTo s.msc.actionAt s
      beginAction a { t with msc := { t.msc with action := none } }))
    ∧ (s.msc.mode = .idle → resetLight s = true → exec .resetNPulse s = .next (
      let t := coldContents (endBulk (dropWorkAll (abandonStep (endUpdate s))))
      { t with msc := { t.msc with resetting := some (.reset .cold 2), running := false } }))
    ∧ (s.msc.mode = .standby → exec .resetNPulse s = .next { s with msc := { s.msc with resetHeld := true } })
    ∧ exec .resetNRelease s = .next { s with msc := { s.msc with resetHeld := false } }
    ∧ (∀ o, s.msc.mode = .standby → s.msc.resetHeld = false → s.msc.resetting = none → s.msc.running = true → exec (.standbyExit o) s = .next (
      let t := measuredBoot s
      if t.msc.mode = .recovery then t else bringUp o t))
    ∧ (∀ o source, s.msc.resetting = some (.reset .function source) → exec (.resetEnd o) s = .next (
      runWaiting (runAccesses (resetDone 4 source 0 false false s))))
    ∧ (∀ o k, s.msc.resetting = some k → exec (.resetEnd o) s = .next (runWaiting (runAccesses (resetEnd o s))))

/-- A cold reset loses every graph, every ring, every event bit and every hold, and the contents of HBM3E and of staging; the numbering of
the journal, where no system-calibration step was running, and the enrolled keys stay (R394, R397). -/
def Obligations.ColdReset : Prop :=
  ∀ (s : State), s.msc.mode = .idle → resetLight s = true → ∃ t, exec .resetNPulse s = .next t
    ∧ t.msc.resetting = some (.reset .cold 2) ∧ t.msc.running = false ∧ t.seq.graphs = [] ∧ t.hif.rings = [] ∧ t.ev = {}
    ∧ t.stalls.all (fun st => !st.front.valid && !st.shadow.valid) = true ∧ t.regions = []
    ∧ (s.cal.sysRun = none → t.msc.journalSeq = s.msc.journalSeq) ∧ t.msc.hostKeys = s.msc.hostKeys ∧ t.msc.mode = .idle
    ∧ (∀ k v, (k, v) ∈ t.mem → hbmEnd ≤ k ∧ (k < stagingBase ∨ stagingEnd ≤ k))

/-- Watchdogs and the front end. A unit late by 64 work cycles is FAULTED, with its event; the MSC core restarts, or on the third restart in
60 s enters RECOVERY; a silent MSC's accepted POWER_OFF is taken by the front end (R402, R404, R406). -/
def Obligations.Watchdogs : Prop :=
  ∀ (s : State),
    (∀ block half, running s = true → unitExists block half = true → s.msc.units.contains (block, half) = false →
      ∃ t, exec (.unitWatchdogExpiry block half) s = .next t ∧ (block, half) ∈ t.msc.units ∧ t.ev.msc.toNat.testBit 5 = true)
    ∧ (s.msc.running = true → s.msc.mode = .idle → s.msc.wdTimes = [] → (fwOf s 0).trial = none → exec .mscWatchdogExpiry s = .next (
      raise .msc 4 {} { s with msc := { s.msc with
        wdTimes := [now s], wdTotal := sat 255 (s.msc.wdTotal + 1), running := false, restartAt := now s } }))
    ∧ (s.msc.running = true → s.msc.mode = .idle →
      2 ≤ (s.msc.wdTimes.filter (fun t => decide (now s < t + 60000000000))).length → exec .mscWatchdogExpiry s = .next (enterRecovery s))
    ∧ (∀ who, s.msc.running = false → s.msc.waiting = [(who, .powerOff)] → exec .frontEndFallback s = .next (
      beginAction .powerOff (complete who (Status.ok, 0, []) { s with msc := { s.msc with waiting := [] } })))

/-- Firmware. Held manifests are arbitrated at the end of their interval; a lock without progress for 60 s is released; a trial that passes
60 s commits its counter; an install in RECOVERY fails where window 0 does not serve the manifest; where it serves manifest and image the
manifest is checked, and the image then written, held to its digest and made active; 1 ms after it is done the module resets; the journal's gap record is written each second (R419, R420, R425, R427, R430). -/
def Obligations.FirmwareAndJournal : Prop :=
  ∀ (s : State),
    (∀ h, s.msc.held = [h] → s.msc.running = true → exec .updateArbitrationEnd s = .next (
      let t := advanceTo ((now s / 1000000 + 1) * 1000000) s
      arbitrate h { t with msc := { t.msc with held := [] } }))
    ∧ (∀ u, s.msc.update = some u → exec .updateLockTimeout s = .next (
      let t := advanceTo (u.lastAt + 60000000000) s
      { t with msc := { t.msc with update := none } }))
    ∧ (∀ c t, (fwOf s c).trial = some t → exec (.trialEnd c) s = .next (
      let u := modFw c (fun f => { f with trial := none }) (advanceTo t s)
      journalSlot 2 c (fwOf s c).active (commitCounter c ((fwOf s c).security.getD (fwIndex (fwOf s c).active) 0) u)))
    ∧ (s.msc.mode = .recovery → s.msc.rcvState = 1 → serves s windowBase 1344 false = false → exec .recoveryInstall s
      = .next { s with msc := { s.msc with rcvState := 5, rcvStatus := Status.addressInvalid } })
    ∧ (s.msc.mode = .recovery → s.msc.rcvState = 1 → serves s windowBase 1344 false = true →
      let m := manifestOf (readBytes s windowBase 1344)
      let c := m.component.toNat
      let slot := targetSlot s c
      let image := readBytes s (windowBase + 4096) m.length.toNat
      let failed (st : BitVec 16) (t : State) : State := { t with msc := { t.msc with rcvState := 5, rcvStatus := st } }
      serves s (windowBase + 4096) m.length.toNat false = true → exec .recoveryInstall s = .next (
        match manifestCheck s m with
        | some e => failed e.1 (manifestRefused m e.2 s)
        | none =>
          let t := modFw c (fun f => programImage slot 0 image (setVerified slot false f)) s
          if le 32 (Config.shake256 image).toNat = fit 32 m.digest then
            let t := recoveryInstalled c slot m (slotVerified c slot m t)
            { t with msc := { t.msc with rcvState := 4, rcvAt := now t } }
          else failed Status.paramInvalid t))
    ∧ (s.msc.mode = .recovery → s.msc.rcvState = 4 → s.msc.resetting = none → exec .recoveryReset s
      = .next (beginReset .powerOn 8 (advanceTo (s.msc.rcvAt + 1000000) s)))
    ∧ (∀ g, s.msc.jGap = some g → exec .journalGapRecord s = .next (
      let t := advanceTo ((s.msc.jSecond + 1) * 1000000000) s
      raise .msc 23 {} (journalOne [0x72] (le 8 g.1 ++ le 4 g.2) { t with msc := { t.msc with jGap := none } })))

/-! ### Events -/

/-- An event sets its bit, and leaves every bit of every other block as it was but for HIF_EVENT_LOST and HIF_RING_FAULT. It changes nothing else of the
module apart from rings, memory where their entries stand, the journal, event frames and messages. A bit that its rule records only on a change from 0 to
1, and that is set already, changes nothing but a pending source's message; with no event ring in use no byte of memory and no ring changes (R341, R427,
R444). -/
def Obligations.EventFrame : Prop :=
  ∀ (c : Src) (b : Nat) (i : EvInfo) (s : State), b < 32 →
    ((raise c b i s).ev.read c).toNat.testBit b = true
      ∧ (∀ d k, (d, k) ≠ (c, b) → (d, k) ≠ (.hif, 4) → (d, k) ≠ (.hif, 5) →
          ((raise c b i s).ev.read d).toNat.testBit k = (s.ev.read d).toNat.testBit k)
      ∧ (raise c b i s).apart = s.apart
      ∧ (recRule c b = .edge → (s.ev.read c).toNat.testBit b = true →
          ∃ o p, raise c b i s = { s with out := o, hif := { s.hif with msixPending := p } })
      ∧ (s.hif.evRingEn = false → i.graph = none →
          (raise c b i s).mem = s.mem ∧ (raise c b i s).hostMem = s.hostMem ∧ (raise c b i s).hif.rings = s.hif.rings)

/-- The record of an event goes to the module's event ring where that is enabled with room: PROD counts it and its 64 bytes stand in the entry
(R331, R341). -/
def Obligations.EventRecorded : Prop :=
  ∀ (c : Src) (b : Nat) (i : EvInfo) (s : State), s.hif.evRingEn = true → i.graph = none → recorded c b ((s.ev.read c).toNat.testBit b) = true →
    let n := s.hif.evRing.toNat
    let r := ringOf s n
    r.type = .event → r.gapFirst = none → ringTakes s n 1 = true → ringServes s n = true → r.intEn = false →
    (ringOf (raise c b i s) n).prod = r.prod + 1
      ∧ (raise c b i s).mem = (writeBytes (r.entry r.prod) (fit 64 (eventRecord s c b i)) s).mem
      ∧ (raise c b i s).hif.eventNumber = (s.hif.eventNumber + 1) % 2 ^ 64

/-! ### Frames -/

/-- Every byte of both memories reads as before after a row that stores none: the reads, the settings and the steps of the engines that only change
registers. -/
def Obligations.RowsThatStoreNothing : Prop :=
  ∀ (i : Instr) (s t : State), exec i s = .next t →
    (match i with
      | .apertureRead _ _ => s.hif.evRingEn = false ∧ apertureOpen s = true
      | .pwrEnAssert => True
      | .reverseCurrent => True
      | .resetNRelease => True
      | .telemetryReturn => True
      | .pcieLinkUp .. => s.hif.egress = []
      | .pcieLinkDown => True
      | .controlLinkUp _ => True
      | .msixUnmask _ => True
      | .hbmRefresh => True
      | .lpddrRefresh => True
      | .rampFill _ => True
      | .shadowLoad _ _ _ false => True
      | .shadowLoadComplete _ => True
      | .holdRefresh _ _ => True
      | .opticalReplay _ => True
      | .replayHoldEnd => True
      | .substitutionHoldEnd => True
      | .pdelayRequestTimer => True
      | .sessionConfirmTimeout _ => True
      | .sessionIdleTimeout _ => True
      | .eventCopyDrop _ => True
      | .updateLockTimeout => True
      | .throttleStepDown => True
      | .zoneLoopExit _ => True
      | _ => False) →
    t.mem = s.mem ∧ t.hostMem = s.hostMem ∧ t.seq.graphs = s.seq.graphs ∧ t.regions = s.regions
      ∧ (∀ b, readByte t b = readByte s b)
end

