-- ==== Sys2Proof/Laws/State.lean ====
section
/-! SUPPORT. What each named update leaves in every field of State: one lemma for each field, true by unfolding the update. -/

namespace Sys2Proof.Machine

/-! ### emit -/

@[simp] theorem emit_ev (o : Output) (s : State) : (emit o s).ev = s.ev := rfl
@[simp] theorem emit_stalls (o : Output) (s : State) : (emit o s).stalls = s.stalls := rfl
@[simp] theorem emit_tdw (o : Output) (s : State) : (emit o s).tdw = s.tdw := rfl
@[simp] theorem emit_psr (o : Output) (s : State) : (emit o s).psr = s.psr := rfl
@[simp] theorem emit_squ (o : Output) (s : State) : (emit o s).squ = s.squ := rfl
@[simp] theorem emit_lge (o : Output) (s : State) : (emit o s).lge = s.lge := rfl
@[simp] theorem emit_xl (o : Output) (s : State) : (emit o s).xl = s.xl := rfl
@[simp] theorem emit_seq (o : Output) (s : State) : (emit o s).seq = s.seq := rfl
@[simp] theorem emit_tsl (o : Output) (s : State) : (emit o s).tsl = s.tsl := rfl
@[simp] theorem emit_hms (o : Output) (s : State) : (emit o s).hms = s.hms := rfl
@[simp] theorem emit_lms (o : Output) (s : State) : (emit o s).lms = s.lms := rfl
@[simp] theorem emit_regions (o : Output) (s : State) : (emit o s).regions = s.regions := rfl
@[simp] theorem emit_ole (o : Output) (s : State) : (emit o s).ole = s.ole := rfl
@[simp] theorem emit_cp (o : Output) (s : State) : (emit o s).cp = s.cp := rfl
@[simp] theorem emit_hif (o : Output) (s : State) : (emit o s).hif = s.hif := rfl
@[simp] theorem emit_cal (o : Output) (s : State) : (emit o s).cal = s.cal := rfl
@[simp] theorem emit_cls (o : Output) (s : State) : (emit o s).cls = s.cls := rfl
@[simp] theorem emit_tps (o : Output) (s : State) : (emit o s).tps = s.tps := rfl
@[simp] theorem emit_msc (o : Output) (s : State) : (emit o s).msc = s.msc := rfl
@[simp] theorem emit_mem (o : Output) (s : State) : (emit o s).mem = s.mem := rfl
@[simp] theorem emit_hostMem (o : Output) (s : State) : (emit o s).hostMem = s.hostMem := rfl
@[simp] theorem emit_out (o : Output) (s : State) : (emit o s).out = o :: s.out := rfl
@[simp] theorem emit_fresh (o : Output) (s : State) : (emit o s).fresh = s.fresh := rfl
@[simp] theorem emit_pending (o : Output) (s : State) : (emit o s).pending = s.pending := rfl

/-! ### elapse -/

@[simp] theorem elapse_ev (d : Nat) (s : State) : (elapse d s).ev = s.ev := rfl
@[simp] theorem elapse_stalls (d : Nat) (s : State) : (elapse d s).stalls = s.stalls := rfl
@[simp] theorem elapse_tdw (d : Nat) (s : State) : (elapse d s).tdw = s.tdw := rfl
@[simp] theorem elapse_psr (d : Nat) (s : State) : (elapse d s).psr = s.psr := rfl
@[simp] theorem elapse_squ (d : Nat) (s : State) : (elapse d s).squ = s.squ := rfl
@[simp] theorem elapse_lge (d : Nat) (s : State) : (elapse d s).lge = s.lge := rfl
@[simp] theorem elapse_xl (d : Nat) (s : State) : (elapse d s).xl = s.xl := rfl
@[simp] theorem elapse_hms (d : Nat) (s : State) : (elapse d s).hms = s.hms := rfl
@[simp] theorem elapse_lms (d : Nat) (s : State) : (elapse d s).lms = s.lms := rfl
@[simp] theorem elapse_regions (d : Nat) (s : State) : (elapse d s).regions = s.regions := rfl
@[simp] theorem elapse_ole (d : Nat) (s : State) : (elapse d s).ole = s.ole := rfl
@[simp] theorem elapse_cp (d : Nat) (s : State) : (elapse d s).cp = s.cp := rfl
@[simp] theorem elapse_hif (d : Nat) (s : State) : (elapse d s).hif = s.hif := rfl
@[simp] theorem elapse_cal (d : Nat) (s : State) : (elapse d s).cal = s.cal := rfl
@[simp] theorem elapse_cls (d : Nat) (s : State) : (elapse d s).cls = s.cls := rfl
@[simp] theorem elapse_mem (d : Nat) (s : State) : (elapse d s).mem = s.mem := rfl
@[simp] theorem elapse_hostMem (d : Nat) (s : State) : (elapse d s).hostMem = s.hostMem := rfl
@[simp] theorem elapse_out (d : Nat) (s : State) : (elapse d s).out = s.out := rfl
@[simp] theorem elapse_fresh (d : Nat) (s : State) : (elapse d s).fresh = s.fresh := rfl
@[simp] theorem elapse_pending (d : Nat) (s : State) : (elapse d s).pending = s.pending := rfl

/-! ### setRing -/

@[simp] theorem setRing_ev (i : Nat) (r : Ring) (s : State) : (setRing i r s).ev = s.ev := rfl
@[simp] theorem setRing_stalls (i : Nat) (r : Ring) (s : State) : (setRing i r s).stalls = s.stalls := rfl
@[simp] theorem setRing_tdw (i : Nat) (r : Ring) (s : State) : (setRing i r s).tdw = s.tdw := rfl
@[simp] theorem setRing_psr (i : Nat) (r : Ring) (s : State) : (setRing i r s).psr = s.psr := rfl
@[simp] theorem setRing_squ (i : Nat) (r : Ring) (s : State) : (setRing i r s).squ = s.squ := rfl
@[simp] theorem setRing_lge (i : Nat) (r : Ring) (s : State) : (setRing i r s).lge = s.lge := rfl
@[simp] theorem setRing_xl (i : Nat) (r : Ring) (s : State) : (setRing i r s).xl = s.xl := rfl
@[simp] theorem setRing_seq (i : Nat) (r : Ring) (s : State) : (setRing i r s).seq = s.seq := rfl
@[simp] theorem setRing_tsl (i : Nat) (r : Ring) (s : State) : (setRing i r s).tsl = s.tsl := rfl
@[simp] theorem setRing_hms (i : Nat) (r : Ring) (s : State) : (setRing i r s).hms = s.hms := rfl
@[simp] theorem setRing_lms (i : Nat) (r : Ring) (s : State) : (setRing i r s).lms = s.lms := rfl
@[simp] theorem setRing_regions (i : Nat) (r : Ring) (s : State) : (setRing i r s).regions = s.regions := rfl
@[simp] theorem setRing_ole (i : Nat) (r : Ring) (s : State) : (setRing i r s).ole = s.ole := rfl
@[simp] theorem setRing_cp (i : Nat) (r : Ring) (s : State) : (setRing i r s).cp = s.cp := rfl
@[simp] theorem setRing_hif (i : Nat) (r : Ring) (s : State) : (setRing i r s).hif = { s.hif with rings := insertKey i r s.hif.rings } := rfl
@[simp] theorem setRing_cal (i : Nat) (r : Ring) (s : State) : (setRing i r s).cal = s.cal := rfl
@[simp] theorem setRing_cls (i : Nat) (r : Ring) (s : State) : (setRing i r s).cls = s.cls := rfl
@[simp] theorem setRing_tps (i : Nat) (r : Ring) (s : State) : (setRing i r s).tps = s.tps := rfl
@[simp] theorem setRing_msc (i : Nat) (r : Ring) (s : State) : (setRing i r s).msc = s.msc := rfl
@[simp] theorem setRing_mem (i : Nat) (r : Ring) (s : State) : (setRing i r s).mem = s.mem := rfl
@[simp] theorem setRing_hostMem (i : Nat) (r : Ring) (s : State) : (setRing i r s).hostMem = s.hostMem := rfl
@[simp] theorem setRing_out (i : Nat) (r : Ring) (s : State) : (setRing i r s).out = s.out := rfl
@[simp] theorem setRing_fresh (i : Nat) (r : Ring) (s : State) : (setRing i r s).fresh = s.fresh := rfl
@[simp] theorem setRing_pending (i : Nat) (r : Ring) (s : State) : (setRing i r s).pending = s.pending := rfl

/-! ### modRing -/

@[simp] theorem modRing_ev (i : Nat) (f : Ring → Ring) (s : State) : (modRing i f s).ev = s.ev := rfl
@[simp] theorem modRing_stalls (i : Nat) (f : Ring → Ring) (s : State) : (modRing i f s).stalls = s.stalls := rfl
@[simp] theorem modRing_tdw (i : Nat) (f : Ring → Ring) (s : State) : (modRing i f s).tdw = s.tdw := rfl
@[simp] theorem modRing_psr (i : Nat) (f : Ring → Ring) (s : State) : (modRing i f s).psr = s.psr := rfl
@[simp] theorem modRing_squ (i : Nat) (f : Ring → Ring) (s : State) : (modRing i f s).squ = s.squ := rfl
@[simp] theorem modRing_lge (i : Nat) (f : Ring → Ring) (s : State) : (modRing i f s).lge = s.lge := rfl
@[simp] theorem modRing_xl (i : Nat) (f : Ring → Ring) (s : State) : (modRing i f s).xl = s.xl := rfl
@[simp] theorem modRing_seq (i : Nat) (f : Ring → Ring) (s : State) : (modRing i f s).seq = s.seq := rfl
@[simp] theorem modRing_tsl (i : Nat) (f : Ring → Ring) (s : State) : (modRing i f s).tsl = s.tsl := rfl
@[simp] theorem modRing_hms (i : Nat) (f : Ring → Ring) (s : State) : (modRing i f s).hms = s.hms := rfl
@[simp] theorem modRing_lms (i : Nat) (f : Ring → Ring) (s : State) : (modRing i f s).lms = s.lms := rfl
@[simp] theorem modRing_regions (i : Nat) (f : Ring → Ring) (s : State) : (modRing i f s).regions = s.regions := rfl
@[simp] theorem modRing_ole (i : Nat) (f : Ring → Ring) (s : State) : (modRing i f s).ole = s.ole := rfl
@[simp] theorem modRing_cp (i : Nat) (f : Ring → Ring) (s : State) : (modRing i f s).cp = s.cp := rfl
@[simp] theorem modRing_hif (i : Nat) (f : Ring → Ring) (s : State) :
    (modRing i f s).hif = { s.hif with rings := insertKey i (f (ringOf s i)) s.hif.rings } := rfl
@[simp] theorem modRing_cal (i : Nat) (f : Ring → Ring) (s : State) : (modRing i f s).cal = s.cal := rfl
@[simp] theorem modRing_cls (i : Nat) (f : Ring → Ring) (s : State) : (modRing i f s).cls = s.cls := rfl
@[simp] theorem modRing_tps (i : Nat) (f : Ring → Ring) (s : State) : (modRing i f s).tps = s.tps := rfl
@[simp] theorem modRing_msc (i : Nat) (f : Ring → Ring) (s : State) : (modRing i f s).msc = s.msc := rfl
@[simp] theorem modRing_mem (i : Nat) (f : Ring → Ring) (s : State) : (modRing i f s).mem = s.mem := rfl
@[simp] theorem modRing_hostMem (i : Nat) (f : Ring → Ring) (s : State) : (modRing i f s).hostMem = s.hostMem := rfl
@[simp] theorem modRing_out (i : Nat) (f : Ring → Ring) (s : State) : (modRing i f s).out = s.out := rfl
@[simp] theorem modRing_fresh (i : Nat) (f : Ring → Ring) (s : State) : (modRing i f s).fresh = s.fresh := rfl
@[simp] theorem modRing_pending (i : Nat) (f : Ring → Ring) (s : State) : (modRing i f s).pending = s.pending := rfl

/-! ### modGraph -/

@[simp] theorem modGraph_ev (slot : Nat) (f : Graph → Graph) (s : State) : (modGraph slot f s).ev = s.ev := rfl
@[simp] theorem modGraph_stalls (slot : Nat) (f : Graph → Graph) (s : State) : (modGraph slot f s).stalls = s.stalls := rfl
@[simp] theorem modGraph_tdw (slot : Nat) (f : Graph → Graph) (s : State) : (modGraph slot f s).tdw = s.tdw := rfl
@[simp] theorem modGraph_psr (slot : Nat) (f : Graph → Graph) (s : State) : (modGraph slot f s).psr = s.psr := rfl
@[simp] theorem modGraph_squ (slot : Nat) (f : Graph → Graph) (s : State) : (modGraph slot f s).squ = s.squ := rfl
@[simp] theorem modGraph_lge (slot : Nat) (f : Graph → Graph) (s : State) : (modGraph slot f s).lge = s.lge := rfl
@[simp] theorem modGraph_xl (slot : Nat) (f : Graph → Graph) (s : State) : (modGraph slot f s).xl = s.xl := rfl
@[simp] theorem modGraph_seq (slot : Nat) (f : Graph → Graph) (s : State) :
    (modGraph slot f s).seq = { s.seq with graphs := s.seq.graphs.map (fun g => if g.slot = slot then f g else g) } := rfl
@[simp] theorem modGraph_tsl (slot : Nat) (f : Graph → Graph) (s : State) : (modGraph slot f s).tsl = s.tsl := rfl
@[simp] theorem modGraph_hms (slot : Nat) (f : Graph → Graph) (s : State) : (modGraph slot f s).hms = s.hms := rfl
@[simp] theorem modGraph_lms (slot : Nat) (f : Graph → Graph) (s : State) : (modGraph slot f s).lms = s.lms := rfl
@[simp] theorem modGraph_regions (slot : Nat) (f : Graph → Graph) (s : State) : (modGraph slot f s).regions = s.regions := rfl
@[simp] theorem modGraph_ole (slot : Nat) (f : Graph → Graph) (s : State) : (modGraph slot f s).ole = s.ole := rfl
@[simp] theorem modGraph_cp (slot : Nat) (f : Graph → Graph) (s : State) : (modGraph slot f s).cp = s.cp := rfl
@[simp] theorem modGraph_hif (slot : Nat) (f : Graph → Graph) (s : State) : (modGraph slot f s).hif = s.hif := rfl
@[simp] theorem modGraph_cal (slot : Nat) (f : Graph → Graph) (s : State) : (modGraph slot f s).cal = s.cal := rfl
@[simp] theorem modGraph_cls (slot : Nat) (f : Graph → Graph) (s : State) : (modGraph slot f s).cls = s.cls := rfl
@[simp] theorem modGraph_tps (slot : Nat) (f : Graph → Graph) (s : State) : (modGraph slot f s).tps = s.tps := rfl
@[simp] theorem modGraph_msc (slot : Nat) (f : Graph → Graph) (s : State) : (modGraph slot f s).msc = s.msc := rfl
@[simp] theorem modGraph_mem (slot : Nat) (f : Graph → Graph) (s : State) : (modGraph slot f s).mem = s.mem := rfl
@[simp] theorem modGraph_hostMem (slot : Nat) (f : Graph → Graph) (s : State) : (modGraph slot f s).hostMem = s.hostMem := rfl
@[simp] theorem modGraph_out (slot : Nat) (f : Graph → Graph) (s : State) : (modGraph slot f s).out = s.out := rfl
@[simp] theorem modGraph_fresh (slot : Nat) (f : Graph → Graph) (s : State) : (modGraph slot f s).fresh = s.fresh := rfl
@[simp] theorem modGraph_pending (slot : Nat) (f : Graph → Graph) (s : State) : (modGraph slot f s).pending = s.pending := rfl

/-! ### modStall -/

@[simp] theorem modStall_ev (g : Nat) (f : Stall → Stall) (s : State) : (modStall g f s).ev = s.ev := rfl
@[simp] theorem modStall_stalls (g : Nat) (f : Stall → Stall) (s : State) : (modStall g f s).stalls = update s.stalls g f := rfl
@[simp] theorem modStall_tdw (g : Nat) (f : Stall → Stall) (s : State) : (modStall g f s).tdw = s.tdw := rfl
@[simp] theorem modStall_psr (g : Nat) (f : Stall → Stall) (s : State) : (modStall g f s).psr = s.psr := rfl
@[simp] theorem modStall_squ (g : Nat) (f : Stall → Stall) (s : State) : (modStall g f s).squ = s.squ := rfl
@[simp] theorem modStall_lge (g : Nat) (f : Stall → Stall) (s : State) : (modStall g f s).lge = s.lge := rfl
@[simp] theorem modStall_xl (g : Nat) (f : Stall → Stall) (s : State) : (modStall g f s).xl = s.xl := rfl
@[simp] theorem modStall_seq (g : Nat) (f : Stall → Stall) (s : State) : (modStall g f s).seq = s.seq := rfl
@[simp] theorem modStall_tsl (g : Nat) (f : Stall → Stall) (s : State) : (modStall g f s).tsl = s.tsl := rfl
@[simp] theorem modStall_hms (g : Nat) (f : Stall → Stall) (s : State) : (modStall g f s).hms = s.hms := rfl
@[simp] theorem modStall_lms (g : Nat) (f : Stall → Stall) (s : State) : (modStall g f s).lms = s.lms := rfl
@[simp] theorem modStall_regions (g : Nat) (f : Stall → Stall) (s : State) : (modStall g f s).regions = s.regions := rfl
@[simp] theorem modStall_ole (g : Nat) (f : Stall → Stall) (s : State) : (modStall g f s).ole = s.ole := rfl
@[simp] theorem modStall_cp (g : Nat) (f : Stall → Stall) (s : State) : (modStall g f s).cp = s.cp := rfl
@[simp] theorem modStall_hif (g : Nat) (f : Stall → Stall) (s : State) : (modStall g f s).hif = s.hif := rfl
@[simp] theorem modStall_cal (g : Nat) (f : Stall → Stall) (s : State) : (modStall g f s).cal = s.cal := rfl
@[simp] theorem modStall_cls (g : Nat) (f : Stall → Stall) (s : State) : (modStall g f s).cls = s.cls := rfl
@[simp] theorem modStall_tps (g : Nat) (f : Stall → Stall) (s : State) : (modStall g f s).tps = s.tps := rfl
@[simp] theorem modStall_msc (g : Nat) (f : Stall → Stall) (s : State) : (modStall g f s).msc = s.msc := rfl
@[simp] theorem modStall_mem (g : Nat) (f : Stall → Stall) (s : State) : (modStall g f s).mem = s.mem := rfl
@[simp] theorem modStall_hostMem (g : Nat) (f : Stall → Stall) (s : State) : (modStall g f s).hostMem = s.hostMem := rfl
@[simp] theorem modStall_out (g : Nat) (f : Stall → Stall) (s : State) : (modStall g f s).out = s.out := rfl
@[simp] theorem modStall_fresh (g : Nat) (f : Stall → Stall) (s : State) : (modStall g f s).fresh = s.fresh := rfl
@[simp] theorem modStall_pending (g : Nat) (f : Stall → Stall) (s : State) : (modStall g f s).pending = s.pending := rfl

/-! ### staleRegions -/

@[simp] theorem staleRegions_ev (a n : Nat) (s : State) : (staleRegions a n s).ev = s.ev := rfl
@[simp] theorem staleRegions_stalls (a n : Nat) (s : State) : (staleRegions a n s).stalls = s.stalls := rfl
@[simp] theorem staleRegions_tdw (a n : Nat) (s : State) : (staleRegions a n s).tdw = s.tdw := rfl
@[simp] theorem staleRegions_psr (a n : Nat) (s : State) : (staleRegions a n s).psr = s.psr := rfl
@[simp] theorem staleRegions_squ (a n : Nat) (s : State) : (staleRegions a n s).squ = s.squ := rfl
@[simp] theorem staleRegions_lge (a n : Nat) (s : State) : (staleRegions a n s).lge = s.lge := rfl
@[simp] theorem staleRegions_xl (a n : Nat) (s : State) : (staleRegions a n s).xl = s.xl := rfl
@[simp] theorem staleRegions_seq (a n : Nat) (s : State) : (staleRegions a n s).seq = s.seq := rfl
@[simp] theorem staleRegions_tsl (a n : Nat) (s : State) : (staleRegions a n s).tsl = s.tsl := rfl
@[simp] theorem staleRegions_hms (a n : Nat) (s : State) : (staleRegions a n s).hms = s.hms := rfl
@[simp] theorem staleRegions_lms (a n : Nat) (s : State) : (staleRegions a n s).lms = s.lms := rfl
@[simp] theorem staleRegions_ole (a n : Nat) (s : State) : (staleRegions a n s).ole = s.ole := rfl
@[simp] theorem staleRegions_cp (a n : Nat) (s : State) : (staleRegions a n s).cp = s.cp := rfl
@[simp] theorem staleRegions_hif (a n : Nat) (s : State) : (staleRegions a n s).hif = s.hif := rfl
@[simp] theorem staleRegions_cal (a n : Nat) (s : State) : (staleRegions a n s).cal = s.cal := rfl
@[simp] theorem staleRegions_cls (a n : Nat) (s : State) : (staleRegions a n s).cls = s.cls := rfl
@[simp] theorem staleRegions_tps (a n : Nat) (s : State) : (staleRegions a n s).tps = s.tps := rfl
@[simp] theorem staleRegions_msc (a n : Nat) (s : State) : (staleRegions a n s).msc = s.msc := rfl
@[simp] theorem staleRegions_mem (a n : Nat) (s : State) : (staleRegions a n s).mem = s.mem := rfl
@[simp] theorem staleRegions_hostMem (a n : Nat) (s : State) : (staleRegions a n s).hostMem = s.hostMem := rfl
@[simp] theorem staleRegions_out (a n : Nat) (s : State) : (staleRegions a n s).out = s.out := rfl
@[simp] theorem staleRegions_fresh (a n : Nat) (s : State) : (staleRegions a n s).fresh = s.fresh := rfl
@[simp] theorem staleRegions_pending (a n : Nat) (s : State) : (staleRegions a n s).pending = s.pending := rfl

/-! ### modSession -/

@[simp] theorem modSession_ev (n : Nat) (f : Session → Session) (s : State) : (modSession n f s).ev = s.ev := rfl
@[simp] theorem modSession_stalls (n : Nat) (f : Session → Session) (s : State) : (modSession n f s).stalls = s.stalls := rfl
@[simp] theorem modSession_tdw (n : Nat) (f : Session → Session) (s : State) : (modSession n f s).tdw = s.tdw := rfl
@[simp] theorem modSession_psr (n : Nat) (f : Session → Session) (s : State) : (modSession n f s).psr = s.psr := rfl
@[simp] theorem modSession_squ (n : Nat) (f : Session → Session) (s : State) : (modSession n f s).squ = s.squ := rfl
@[simp] theorem modSession_lge (n : Nat) (f : Session → Session) (s : State) : (modSession n f s).lge = s.lge := rfl
@[simp] theorem modSession_xl (n : Nat) (f : Session → Session) (s : State) : (modSession n f s).xl = s.xl := rfl
@[simp] theorem modSession_seq (n : Nat) (f : Session → Session) (s : State) : (modSession n f s).seq = s.seq := rfl
@[simp] theorem modSession_tsl (n : Nat) (f : Session → Session) (s : State) : (modSession n f s).tsl = s.tsl := rfl
@[simp] theorem modSession_hms (n : Nat) (f : Session → Session) (s : State) : (modSession n f s).hms = s.hms := rfl
@[simp] theorem modSession_lms (n : Nat) (f : Session → Session) (s : State) : (modSession n f s).lms = s.lms := rfl
@[simp] theorem modSession_regions (n : Nat) (f : Session → Session) (s : State) : (modSession n f s).regions = s.regions := rfl
@[simp] theorem modSession_ole (n : Nat) (f : Session → Session) (s : State) : (modSession n f s).ole = s.ole := rfl
@[simp] theorem modSession_cp (n : Nat) (f : Session → Session) (s : State) :
    (modSession n f s).cp = { s.cp with sessions := update s.cp.sessions (n - 1) f } := rfl
@[simp] theorem modSession_hif (n : Nat) (f : Session → Session) (s : State) : (modSession n f s).hif = s.hif := rfl
@[simp] theorem modSession_cal (n : Nat) (f : Session → Session) (s : State) : (modSession n f s).cal = s.cal := rfl
@[simp] theorem modSession_cls (n : Nat) (f : Session → Session) (s : State) : (modSession n f s).cls = s.cls := rfl
@[simp] theorem modSession_tps (n : Nat) (f : Session → Session) (s : State) : (modSession n f s).tps = s.tps := rfl
@[simp] theorem modSession_msc (n : Nat) (f : Session → Session) (s : State) : (modSession n f s).msc = s.msc := rfl
@[simp] theorem modSession_mem (n : Nat) (f : Session → Session) (s : State) : (modSession n f s).mem = s.mem := rfl
@[simp] theorem modSession_hostMem (n : Nat) (f : Session → Session) (s : State) : (modSession n f s).hostMem = s.hostMem := rfl
@[simp] theorem modSession_out (n : Nat) (f : Session → Session) (s : State) : (modSession n f s).out = s.out := rfl
@[simp] theorem modSession_fresh (n : Nat) (f : Session → Session) (s : State) : (modSession n f s).fresh = s.fresh := rfl
@[simp] theorem modSession_pending (n : Nat) (f : Session → Session) (s : State) : (modSession n f s).pending = s.pending := rfl

/-! ### modLane -/

@[simp] theorem modLane_ev (n : Nat) (f : Lane → Lane) (s : State) : (modLane n f s).ev = s.ev := rfl
@[simp] theorem modLane_stalls (n : Nat) (f : Lane → Lane) (s : State) : (modLane n f s).stalls = s.stalls := rfl
@[simp] theorem modLane_tdw (n : Nat) (f : Lane → Lane) (s : State) : (modLane n f s).tdw = s.tdw := rfl
@[simp] theorem modLane_psr (n : Nat) (f : Lane → Lane) (s : State) : (modLane n f s).psr = s.psr := rfl
@[simp] theorem modLane_squ (n : Nat) (f : Lane → Lane) (s : State) : (modLane n f s).squ = s.squ := rfl
@[simp] theorem modLane_lge (n : Nat) (f : Lane → Lane) (s : State) : (modLane n f s).lge = s.lge := rfl
@[simp] theorem modLane_xl (n : Nat) (f : Lane → Lane) (s : State) : (modLane n f s).xl = s.xl := rfl
@[simp] theorem modLane_seq (n : Nat) (f : Lane → Lane) (s : State) : (modLane n f s).seq = s.seq := rfl
@[simp] theorem modLane_tsl (n : Nat) (f : Lane → Lane) (s : State) : (modLane n f s).tsl = { s.tsl with lanes := update s.tsl.lanes n f } := rfl
@[simp] theorem modLane_hms (n : Nat) (f : Lane → Lane) (s : State) : (modLane n f s).hms = s.hms := rfl
@[simp] theorem modLane_lms (n : Nat) (f : Lane → Lane) (s : State) : (modLane n f s).lms = s.lms := rfl
@[simp] theorem modLane_regions (n : Nat) (f : Lane → Lane) (s : State) : (modLane n f s).regions = s.regions := rfl
@[simp] theorem modLane_ole (n : Nat) (f : Lane → Lane) (s : State) : (modLane n f s).ole = s.ole := rfl
@[simp] theorem modLane_cp (n : Nat) (f : Lane → Lane) (s : State) : (modLane n f s).cp = s.cp := rfl
@[simp] theorem modLane_hif (n : Nat) (f : Lane → Lane) (s : State) : (modLane n f s).hif = s.hif := rfl
@[simp] theorem modLane_cal (n : Nat) (f : Lane → Lane) (s : State) : (modLane n f s).cal = s.cal := rfl
@[simp] theorem modLane_cls (n : Nat) (f : Lane → Lane) (s : State) : (modLane n f s).cls = s.cls := rfl
@[simp] theorem modLane_tps (n : Nat) (f : Lane → Lane) (s : State) : (modLane n f s).tps = s.tps := rfl
@[simp] theorem modLane_msc (n : Nat) (f : Lane → Lane) (s : State) : (modLane n f s).msc = s.msc := rfl
@[simp] theorem modLane_mem (n : Nat) (f : Lane → Lane) (s : State) : (modLane n f s).mem = s.mem := rfl
@[simp] theorem modLane_hostMem (n : Nat) (f : Lane → Lane) (s : State) : (modLane n f s).hostMem = s.hostMem := rfl
@[simp] theorem modLane_out (n : Nat) (f : Lane → Lane) (s : State) : (modLane n f s).out = s.out := rfl
@[simp] theorem modLane_fresh (n : Nat) (f : Lane → Lane) (s : State) : (modLane n f s).fresh = s.fresh := rfl
@[simp] theorem modLane_pending (n : Nat) (f : Lane → Lane) (s : State) : (modLane n f s).pending = s.pending := rfl

/-! ### modLinkLane -/

@[simp] theorem modLinkLane_ev (l : Nat) (f : LinkLane → LinkLane) (s : State) : (modLinkLane l f s).ev = s.ev := rfl
@[simp] theorem modLinkLane_stalls (l : Nat) (f : LinkLane → LinkLane) (s : State) : (modLinkLane l f s).stalls = s.stalls := rfl
@[simp] theorem modLinkLane_tdw (l : Nat) (f : LinkLane → LinkLane) (s : State) : (modLinkLane l f s).tdw = s.tdw := rfl
@[simp] theorem modLinkLane_psr (l : Nat) (f : LinkLane → LinkLane) (s : State) : (modLinkLane l f s).psr = s.psr := rfl
@[simp] theorem modLinkLane_squ (l : Nat) (f : LinkLane → LinkLane) (s : State) : (modLinkLane l f s).squ = s.squ := rfl
@[simp] theorem modLinkLane_lge (l : Nat) (f : LinkLane → LinkLane) (s : State) : (modLinkLane l f s).lge = s.lge := rfl
@[simp] theorem modLinkLane_xl (l : Nat) (f : LinkLane → LinkLane) (s : State) : (modLinkLane l f s).xl = s.xl := rfl
@[simp] theorem modLinkLane_seq (l : Nat) (f : LinkLane → LinkLane) (s : State) : (modLinkLane l f s).seq = s.seq := rfl
@[simp] theorem modLinkLane_tsl (l : Nat) (f : LinkLane → LinkLane) (s : State) : (modLinkLane l f s).tsl = s.tsl := rfl
@[simp] theorem modLinkLane_hms (l : Nat) (f : LinkLane → LinkLane) (s : State) : (modLinkLane l f s).hms = s.hms := rfl
@[simp] theorem modLinkLane_lms (l : Nat) (f : LinkLane → LinkLane) (s : State) : (modLinkLane l f s).lms = s.lms := rfl
@[simp] theorem modLinkLane_regions (l : Nat) (f : LinkLane → LinkLane) (s : State) : (modLinkLane l f s).regions = s.regions := rfl
@[simp] theorem modLinkLane_ole (l : Nat) (f : LinkLane → LinkLane) (s : State) :
    (modLinkLane l f s).ole = { s.ole with lanes := update s.ole.lanes l f } := rfl
@[simp] theorem modLinkLane_cp (l : Nat) (f : LinkLane → LinkLane) (s : State) : (modLinkLane l f s).cp = s.cp := rfl
@[simp] theorem modLinkLane_hif (l : Nat) (f : LinkLane → LinkLane) (s : State) : (modLinkLane l f s).hif = s.hif := rfl
@[simp] theorem modLinkLane_cal (l : Nat) (f : LinkLane → LinkLane) (s : State) : (modLinkLane l f s).cal = s.cal := rfl
@[simp] theorem modLinkLane_cls (l : Nat) (f : LinkLane → LinkLane) (s : State) : (modLinkLane l f s).cls = s.cls := rfl
@[simp] theorem modLinkLane_tps (l : Nat) (f : LinkLane → LinkLane) (s : State) : (modLinkLane l f s).tps = s.tps := rfl
@[simp] theorem modLinkLane_msc (l : Nat) (f : LinkLane → LinkLane) (s : State) : (modLinkLane l f s).msc = s.msc := rfl
@[simp] theorem modLinkLane_mem (l : Nat) (f : LinkLane → LinkLane) (s : State) : (modLinkLane l f s).mem = s.mem := rfl
@[simp] theorem modLinkLane_hostMem (l : Nat) (f : LinkLane → LinkLane) (s : State) : (modLinkLane l f s).hostMem = s.hostMem := rfl
@[simp] theorem modLinkLane_out (l : Nat) (f : LinkLane → LinkLane) (s : State) : (modLinkLane l f s).out = s.out := rfl
@[simp] theorem modLinkLane_fresh (l : Nat) (f : LinkLane → LinkLane) (s : State) : (modLinkLane l f s).fresh = s.fresh := rfl
@[simp] theorem modLinkLane_pending (l : Nat) (f : LinkLane → LinkLane) (s : State) : (modLinkLane l f s).pending = s.pending := rfl

/-! ### modPort -/

@[simp] theorem modPort_ev (p : Nat) (f : Port → Port) (s : State) : (modPort p f s).ev = s.ev := rfl
@[simp] theorem modPort_stalls (p : Nat) (f : Port → Port) (s : State) : (modPort p f s).stalls = s.stalls := rfl
@[simp] theorem modPort_tdw (p : Nat) (f : Port → Port) (s : State) : (modPort p f s).tdw = s.tdw := rfl
@[simp] theorem modPort_psr (p : Nat) (f : Port → Port) (s : State) : (modPort p f s).psr = s.psr := rfl
@[simp] theorem modPort_squ (p : Nat) (f : Port → Port) (s : State) : (modPort p f s).squ = s.squ := rfl
@[simp] theorem modPort_lge (p : Nat) (f : Port → Port) (s : State) : (modPort p f s).lge = s.lge := rfl
@[simp] theorem modPort_xl (p : Nat) (f : Port → Port) (s : State) : (modPort p f s).xl = s.xl := rfl
@[simp] theorem modPort_seq (p : Nat) (f : Port → Port) (s : State) : (modPort p f s).seq = s.seq := rfl
@[simp] theorem modPort_tsl (p : Nat) (f : Port → Port) (s : State) : (modPort p f s).tsl = s.tsl := rfl
@[simp] theorem modPort_hms (p : Nat) (f : Port → Port) (s : State) : (modPort p f s).hms = s.hms := rfl
@[simp] theorem modPort_lms (p : Nat) (f : Port → Port) (s : State) : (modPort p f s).lms = s.lms := rfl
@[simp] theorem modPort_regions (p : Nat) (f : Port → Port) (s : State) : (modPort p f s).regions = s.regions := rfl
@[simp] theorem modPort_ole (p : Nat) (f : Port → Port) (s : State) : (modPort p f s).ole = { s.ole with ports := update s.ole.ports p f } := rfl
@[simp] theorem modPort_cp (p : Nat) (f : Port → Port) (s : State) : (modPort p f s).cp = s.cp := rfl
@[simp] theorem modPort_hif (p : Nat) (f : Port → Port) (s : State) : (modPort p f s).hif = s.hif := rfl
@[simp] theorem modPort_cal (p : Nat) (f : Port → Port) (s : State) : (modPort p f s).cal = s.cal := rfl
@[simp] theorem modPort_cls (p : Nat) (f : Port → Port) (s : State) : (modPort p f s).cls = s.cls := rfl
@[simp] theorem modPort_tps (p : Nat) (f : Port → Port) (s : State) : (modPort p f s).tps = s.tps := rfl
@[simp] theorem modPort_msc (p : Nat) (f : Port → Port) (s : State) : (modPort p f s).msc = s.msc := rfl
@[simp] theorem modPort_mem (p : Nat) (f : Port → Port) (s : State) : (modPort p f s).mem = s.mem := rfl
@[simp] theorem modPort_hostMem (p : Nat) (f : Port → Port) (s : State) : (modPort p f s).hostMem = s.hostMem := rfl
@[simp] theorem modPort_out (p : Nat) (f : Port → Port) (s : State) : (modPort p f s).out = s.out := rfl
@[simp] theorem modPort_fresh (p : Nat) (f : Port → Port) (s : State) : (modPort p f s).fresh = s.fresh := rfl
@[simp] theorem modPort_pending (p : Nat) (f : Port → Port) (s : State) : (modPort p f s).pending = s.pending := rfl

/-! ### modColl -/

@[simp] theorem modColl_ev (f : Coll → Coll) (s : State) : (modColl f s).ev = s.ev := rfl
@[simp] theorem modColl_stalls (f : Coll → Coll) (s : State) : (modColl f s).stalls = s.stalls := rfl
@[simp] theorem modColl_tdw (f : Coll → Coll) (s : State) : (modColl f s).tdw = s.tdw := rfl
@[simp] theorem modColl_psr (f : Coll → Coll) (s : State) : (modColl f s).psr = s.psr := rfl
@[simp] theorem modColl_squ (f : Coll → Coll) (s : State) : (modColl f s).squ = s.squ := rfl
@[simp] theorem modColl_lge (f : Coll → Coll) (s : State) : (modColl f s).lge = s.lge := rfl
@[simp] theorem modColl_xl (f : Coll → Coll) (s : State) : (modColl f s).xl = s.xl := rfl
@[simp] theorem modColl_seq (f : Coll → Coll) (s : State) : (modColl f s).seq = s.seq := rfl
@[simp] theorem modColl_tsl (f : Coll → Coll) (s : State) : (modColl f s).tsl = s.tsl := rfl
@[simp] theorem modColl_hms (f : Coll → Coll) (s : State) : (modColl f s).hms = s.hms := rfl
@[simp] theorem modColl_lms (f : Coll → Coll) (s : State) : (modColl f s).lms = s.lms := rfl
@[simp] theorem modColl_regions (f : Coll → Coll) (s : State) : (modColl f s).regions = s.regions := rfl
@[simp] theorem modColl_ole (f : Coll → Coll) (s : State) : (modColl f s).ole = { s.ole with coll := s.ole.coll.map f } := rfl
@[simp] theorem modColl_cp (f : Coll → Coll) (s : State) : (modColl f s).cp = s.cp := rfl
@[simp] theorem modColl_hif (f : Coll → Coll) (s : State) : (modColl f s).hif = s.hif := rfl
@[simp] theorem modColl_cal (f : Coll → Coll) (s : State) : (modColl f s).cal = s.cal := rfl
@[simp] theorem modColl_cls (f : Coll → Coll) (s : State) : (modColl f s).cls = s.cls := rfl
@[simp] theorem modColl_tps (f : Coll → Coll) (s : State) : (modColl f s).tps = s.tps := rfl
@[simp] theorem modColl_msc (f : Coll → Coll) (s : State) : (modColl f s).msc = s.msc := rfl
@[simp] theorem modColl_mem (f : Coll → Coll) (s : State) : (modColl f s).mem = s.mem := rfl
@[simp] theorem modColl_hostMem (f : Coll → Coll) (s : State) : (modColl f s).hostMem = s.hostMem := rfl
@[simp] theorem modColl_out (f : Coll → Coll) (s : State) : (modColl f s).out = s.out := rfl
@[simp] theorem modColl_fresh (f : Coll → Coll) (s : State) : (modColl f s).fresh = s.fresh := rfl
@[simp] theorem modColl_pending (f : Coll → Coll) (s : State) : (modColl f s).pending = s.pending := rfl

/-! ### modSource -/

@[simp] theorem modSource_ev (i : Nat) (f : Source → Source) (s : State) : (modSource i f s).ev = s.ev := rfl
@[simp] theorem modSource_stalls (i : Nat) (f : Source → Source) (s : State) : (modSource i f s).stalls = s.stalls := rfl
@[simp] theorem modSource_tdw (i : Nat) (f : Source → Source) (s : State) : (modSource i f s).tdw = s.tdw := rfl
@[simp] theorem modSource_psr (i : Nat) (f : Source → Source) (s : State) : (modSource i f s).psr = s.psr := rfl
@[simp] theorem modSource_squ (i : Nat) (f : Source → Source) (s : State) : (modSource i f s).squ = s.squ := rfl
@[simp] theorem modSource_lge (i : Nat) (f : Source → Source) (s : State) : (modSource i f s).lge = s.lge := rfl
@[simp] theorem modSource_xl (i : Nat) (f : Source → Source) (s : State) : (modSource i f s).xl = s.xl := rfl
@[simp] theorem modSource_seq (i : Nat) (f : Source → Source) (s : State) : (modSource i f s).seq = s.seq := rfl
@[simp] theorem modSource_tsl (i : Nat) (f : Source → Source) (s : State) : (modSource i f s).tsl = s.tsl := rfl
@[simp] theorem modSource_hms (i : Nat) (f : Source → Source) (s : State) : (modSource i f s).hms = s.hms := rfl
@[simp] theorem modSource_lms (i : Nat) (f : Source → Source) (s : State) : (modSource i f s).lms = s.lms := rfl
@[simp] theorem modSource_regions (i : Nat) (f : Source → Source) (s : State) : (modSource i f s).regions = s.regions := rfl
@[simp] theorem modSource_ole (i : Nat) (f : Source → Source) (s : State) : (modSource i f s).ole = s.ole := rfl
@[simp] theorem modSource_cp (i : Nat) (f : Source → Source) (s : State) : (modSource i f s).cp = s.cp := rfl
@[simp] theorem modSource_hif (i : Nat) (f : Source → Source) (s : State) : (modSource i f s).hif = s.hif := rfl
@[simp] theorem modSource_cal (i : Nat) (f : Source → Source) (s : State) : (modSource i f s).cal = s.cal := rfl
@[simp] theorem modSource_cls (i : Nat) (f : Source → Source) (s : State) :
    (modSource i f s).cls = { s.cls with sources := update s.cls.sources i f } := rfl
@[simp] theorem modSource_tps (i : Nat) (f : Source → Source) (s : State) : (modSource i f s).tps = s.tps := rfl
@[simp] theorem modSource_msc (i : Nat) (f : Source → Source) (s : State) : (modSource i f s).msc = s.msc := rfl
@[simp] theorem modSource_mem (i : Nat) (f : Source → Source) (s : State) : (modSource i f s).mem = s.mem := rfl
@[simp] theorem modSource_hostMem (i : Nat) (f : Source → Source) (s : State) : (modSource i f s).hostMem = s.hostMem := rfl
@[simp] theorem modSource_out (i : Nat) (f : Source → Source) (s : State) : (modSource i f s).out = s.out := rfl
@[simp] theorem modSource_fresh (i : Nat) (f : Source → Source) (s : State) : (modSource i f s).fresh = s.fresh := rfl
@[simp] theorem modSource_pending (i : Nat) (f : Source → Source) (s : State) : (modSource i f s).pending = s.pending := rfl

/-! ### modStallCal -/

@[simp] theorem modStallCal_ev (g : Nat) (f : StallCal → StallCal) (s : State) : (modStallCal g f s).ev = s.ev := rfl
@[simp] theorem modStallCal_stalls (g : Nat) (f : StallCal → StallCal) (s : State) : (modStallCal g f s).stalls = s.stalls := rfl
@[simp] theorem modStallCal_tdw (g : Nat) (f : StallCal → StallCal) (s : State) : (modStallCal g f s).tdw = s.tdw := rfl
@[simp] theorem modStallCal_psr (g : Nat) (f : StallCal → StallCal) (s : State) : (modStallCal g f s).psr = s.psr := rfl
@[simp] theorem modStallCal_squ (g : Nat) (f : StallCal → StallCal) (s : State) : (modStallCal g f s).squ = s.squ := rfl
@[simp] theorem modStallCal_lge (g : Nat) (f : StallCal → StallCal) (s : State) : (modStallCal g f s).lge = s.lge := rfl
@[simp] theorem modStallCal_xl (g : Nat) (f : StallCal → StallCal) (s : State) : (modStallCal g f s).xl = s.xl := rfl
@[simp] theorem modStallCal_seq (g : Nat) (f : StallCal → StallCal) (s : State) : (modStallCal g f s).seq = s.seq := rfl
@[simp] theorem modStallCal_tsl (g : Nat) (f : StallCal → StallCal) (s : State) : (modStallCal g f s).tsl = s.tsl := rfl
@[simp] theorem modStallCal_hms (g : Nat) (f : StallCal → StallCal) (s : State) : (modStallCal g f s).hms = s.hms := rfl
@[simp] theorem modStallCal_lms (g : Nat) (f : StallCal → StallCal) (s : State) : (modStallCal g f s).lms = s.lms := rfl
@[simp] theorem modStallCal_regions (g : Nat) (f : StallCal → StallCal) (s : State) : (modStallCal g f s).regions = s.regions := rfl
@[simp] theorem modStallCal_ole (g : Nat) (f : StallCal → StallCal) (s : State) : (modStallCal g f s).ole = s.ole := rfl
@[simp] theorem modStallCal_cp (g : Nat) (f : StallCal → StallCal) (s : State) : (modStallCal g f s).cp = s.cp := rfl
@[simp] theorem modStallCal_hif (g : Nat) (f : StallCal → StallCal) (s : State) : (modStallCal g f s).hif = s.hif := rfl
@[simp] theorem modStallCal_cal (g : Nat) (f : StallCal → StallCal) (s : State) :
    (modStallCal g f s).cal = { s.cal with stalls := update s.cal.stalls g f } := rfl
@[simp] theorem modStallCal_cls (g : Nat) (f : StallCal → StallCal) (s : State) : (modStallCal g f s).cls = s.cls := rfl
@[simp] theorem modStallCal_tps (g : Nat) (f : StallCal → StallCal) (s : State) : (modStallCal g f s).tps = s.tps := rfl
@[simp] theorem modStallCal_msc (g : Nat) (f : StallCal → StallCal) (s : State) : (modStallCal g f s).msc = s.msc := rfl
@[simp] theorem modStallCal_mem (g : Nat) (f : StallCal → StallCal) (s : State) : (modStallCal g f s).mem = s.mem := rfl
@[simp] theorem modStallCal_hostMem (g : Nat) (f : StallCal → StallCal) (s : State) : (modStallCal g f s).hostMem = s.hostMem := rfl
@[simp] theorem modStallCal_out (g : Nat) (f : StallCal → StallCal) (s : State) : (modStallCal g f s).out = s.out := rfl
@[simp] theorem modStallCal_fresh (g : Nat) (f : StallCal → StallCal) (s : State) : (modStallCal g f s).fresh = s.fresh := rfl
@[simp] theorem modStallCal_pending (g : Nat) (f : StallCal → StallCal) (s : State) : (modStallCal g f s).pending = s.pending := rfl

/-! ### modZone -/

@[simp] theorem modZone_ev (z : Nat) (f : Zone → Zone) (s : State) : (modZone z f s).ev = s.ev := rfl
@[simp] theorem modZone_stalls (z : Nat) (f : Zone → Zone) (s : State) : (modZone z f s).stalls = s.stalls := rfl
@[simp] theorem modZone_tdw (z : Nat) (f : Zone → Zone) (s : State) : (modZone z f s).tdw = s.tdw := rfl
@[simp] theorem modZone_psr (z : Nat) (f : Zone → Zone) (s : State) : (modZone z f s).psr = s.psr := rfl
@[simp] theorem modZone_squ (z : Nat) (f : Zone → Zone) (s : State) : (modZone z f s).squ = s.squ := rfl
@[simp] theorem modZone_lge (z : Nat) (f : Zone → Zone) (s : State) : (modZone z f s).lge = s.lge := rfl
@[simp] theorem modZone_xl (z : Nat) (f : Zone → Zone) (s : State) : (modZone z f s).xl = s.xl := rfl
@[simp] theorem modZone_seq (z : Nat) (f : Zone → Zone) (s : State) : (modZone z f s).seq = s.seq := rfl
@[simp] theorem modZone_tsl (z : Nat) (f : Zone → Zone) (s : State) : (modZone z f s).tsl = s.tsl := rfl
@[simp] theorem modZone_hms (z : Nat) (f : Zone → Zone) (s : State) : (modZone z f s).hms = s.hms := rfl
@[simp] theorem modZone_lms (z : Nat) (f : Zone → Zone) (s : State) : (modZone z f s).lms = s.lms := rfl
@[simp] theorem modZone_regions (z : Nat) (f : Zone → Zone) (s : State) : (modZone z f s).regions = s.regions := rfl
@[simp] theorem modZone_ole (z : Nat) (f : Zone → Zone) (s : State) : (modZone z f s).ole = s.ole := rfl
@[simp] theorem modZone_cp (z : Nat) (f : Zone → Zone) (s : State) : (modZone z f s).cp = s.cp := rfl
@[simp] theorem modZone_hif (z : Nat) (f : Zone → Zone) (s : State) : (modZone z f s).hif = s.hif := rfl
@[simp] theorem modZone_cal (z : Nat) (f : Zone → Zone) (s : State) : (modZone z f s).cal = { s.cal with zones := update s.cal.zones z f } := rfl
@[simp] theorem modZone_cls (z : Nat) (f : Zone → Zone) (s : State) : (modZone z f s).cls = s.cls := rfl
@[simp] theorem modZone_tps (z : Nat) (f : Zone → Zone) (s : State) : (modZone z f s).tps = s.tps := rfl
@[simp] theorem modZone_msc (z : Nat) (f : Zone → Zone) (s : State) : (modZone z f s).msc = s.msc := rfl
@[simp] theorem modZone_mem (z : Nat) (f : Zone → Zone) (s : State) : (modZone z f s).mem = s.mem := rfl
@[simp] theorem modZone_hostMem (z : Nat) (f : Zone → Zone) (s : State) : (modZone z f s).hostMem = s.hostMem := rfl
@[simp] theorem modZone_out (z : Nat) (f : Zone → Zone) (s : State) : (modZone z f s).out = s.out := rfl
@[simp] theorem modZone_fresh (z : Nat) (f : Zone → Zone) (s : State) : (modZone z f s).fresh = s.fresh := rfl
@[simp] theorem modZone_pending (z : Nat) (f : Zone → Zone) (s : State) : (modZone z f s).pending = s.pending := rfl

/-! ### setMon -/

@[simp] theorem setMon_ev (n : Nat) (m : Mon) (s : State) : (setMon n m s).ev = s.ev := rfl
@[simp] theorem setMon_stalls (n : Nat) (m : Mon) (s : State) : (setMon n m s).stalls = s.stalls := rfl
@[simp] theorem setMon_tdw (n : Nat) (m : Mon) (s : State) : (setMon n m s).tdw = s.tdw := rfl
@[simp] theorem setMon_psr (n : Nat) (m : Mon) (s : State) : (setMon n m s).psr = s.psr := rfl
@[simp] theorem setMon_squ (n : Nat) (m : Mon) (s : State) : (setMon n m s).squ = s.squ := rfl
@[simp] theorem setMon_lge (n : Nat) (m : Mon) (s : State) : (setMon n m s).lge = s.lge := rfl
@[simp] theorem setMon_xl (n : Nat) (m : Mon) (s : State) : (setMon n m s).xl = s.xl := rfl
@[simp] theorem setMon_seq (n : Nat) (m : Mon) (s : State) : (setMon n m s).seq = s.seq := rfl
@[simp] theorem setMon_tsl (n : Nat) (m : Mon) (s : State) : (setMon n m s).tsl = s.tsl := rfl
@[simp] theorem setMon_hms (n : Nat) (m : Mon) (s : State) : (setMon n m s).hms = s.hms := rfl
@[simp] theorem setMon_lms (n : Nat) (m : Mon) (s : State) : (setMon n m s).lms = s.lms := rfl
@[simp] theorem setMon_regions (n : Nat) (m : Mon) (s : State) : (setMon n m s).regions = s.regions := rfl
@[simp] theorem setMon_ole (n : Nat) (m : Mon) (s : State) : (setMon n m s).ole = s.ole := rfl
@[simp] theorem setMon_cp (n : Nat) (m : Mon) (s : State) : (setMon n m s).cp = s.cp := rfl
@[simp] theorem setMon_hif (n : Nat) (m : Mon) (s : State) : (setMon n m s).hif = s.hif := rfl
@[simp] theorem setMon_cal (n : Nat) (m : Mon) (s : State) : (setMon n m s).cal = { s.cal with mons := insertKey n m s.cal.mons } := rfl
@[simp] theorem setMon_cls (n : Nat) (m : Mon) (s : State) : (setMon n m s).cls = s.cls := rfl
@[simp] theorem setMon_tps (n : Nat) (m : Mon) (s : State) : (setMon n m s).tps = s.tps := rfl
@[simp] theorem setMon_msc (n : Nat) (m : Mon) (s : State) : (setMon n m s).msc = s.msc := rfl
@[simp] theorem setMon_mem (n : Nat) (m : Mon) (s : State) : (setMon n m s).mem = s.mem := rfl
@[simp] theorem setMon_hostMem (n : Nat) (m : Mon) (s : State) : (setMon n m s).hostMem = s.hostMem := rfl
@[simp] theorem setMon_out (n : Nat) (m : Mon) (s : State) : (setMon n m s).out = s.out := rfl
@[simp] theorem setMon_fresh (n : Nat) (m : Mon) (s : State) : (setMon n m s).fresh = s.fresh := rfl
@[simp] theorem setMon_pending (n : Nat) (m : Mon) (s : State) : (setMon n m s).pending = s.pending := rfl

/-! ### modFw -/

@[simp] theorem modFw_ev (c : Nat) (f : FwSlot → FwSlot) (s : State) : (modFw c f s).ev = s.ev := rfl
@[simp] theorem modFw_stalls (c : Nat) (f : FwSlot → FwSlot) (s : State) : (modFw c f s).stalls = s.stalls := rfl
@[simp] theorem modFw_tdw (c : Nat) (f : FwSlot → FwSlot) (s : State) : (modFw c f s).tdw = s.tdw := rfl
@[simp] theorem modFw_psr (c : Nat) (f : FwSlot → FwSlot) (s : State) : (modFw c f s).psr = s.psr := rfl
@[simp] theorem modFw_squ (c : Nat) (f : FwSlot → FwSlot) (s : State) : (modFw c f s).squ = s.squ := rfl
@[simp] theorem modFw_lge (c : Nat) (f : FwSlot → FwSlot) (s : State) : (modFw c f s).lge = s.lge := rfl
@[simp] theorem modFw_xl (c : Nat) (f : FwSlot → FwSlot) (s : State) : (modFw c f s).xl = s.xl := rfl
@[simp] theorem modFw_seq (c : Nat) (f : FwSlot → FwSlot) (s : State) : (modFw c f s).seq = s.seq := rfl
@[simp] theorem modFw_tsl (c : Nat) (f : FwSlot → FwSlot) (s : State) : (modFw c f s).tsl = s.tsl := rfl
@[simp] theorem modFw_hms (c : Nat) (f : FwSlot → FwSlot) (s : State) : (modFw c f s).hms = s.hms := rfl
@[simp] theorem modFw_lms (c : Nat) (f : FwSlot → FwSlot) (s : State) : (modFw c f s).lms = s.lms := rfl
@[simp] theorem modFw_regions (c : Nat) (f : FwSlot → FwSlot) (s : State) : (modFw c f s).regions = s.regions := rfl
@[simp] theorem modFw_ole (c : Nat) (f : FwSlot → FwSlot) (s : State) : (modFw c f s).ole = s.ole := rfl
@[simp] theorem modFw_cp (c : Nat) (f : FwSlot → FwSlot) (s : State) : (modFw c f s).cp = s.cp := rfl
@[simp] theorem modFw_hif (c : Nat) (f : FwSlot → FwSlot) (s : State) : (modFw c f s).hif = s.hif := rfl
@[simp] theorem modFw_cal (c : Nat) (f : FwSlot → FwSlot) (s : State) : (modFw c f s).cal = s.cal := rfl
@[simp] theorem modFw_cls (c : Nat) (f : FwSlot → FwSlot) (s : State) : (modFw c f s).cls = s.cls := rfl
@[simp] theorem modFw_tps (c : Nat) (f : FwSlot → FwSlot) (s : State) : (modFw c f s).tps = s.tps := rfl
@[simp] theorem modFw_msc (c : Nat) (f : FwSlot → FwSlot) (s : State) : (modFw c f s).msc = { s.msc with fw := update s.msc.fw c f } := rfl
@[simp] theorem modFw_mem (c : Nat) (f : FwSlot → FwSlot) (s : State) : (modFw c f s).mem = s.mem := rfl
@[simp] theorem modFw_hostMem (c : Nat) (f : FwSlot → FwSlot) (s : State) : (modFw c f s).hostMem = s.hostMem := rfl
@[simp] theorem modFw_out (c : Nat) (f : FwSlot → FwSlot) (s : State) : (modFw c f s).out = s.out := rfl
@[simp] theorem modFw_fresh (c : Nat) (f : FwSlot → FwSlot) (s : State) : (modFw c f s).fresh = s.fresh := rfl
@[simp] theorem modFw_pending (c : Nat) (f : FwSlot → FwSlot) (s : State) : (modFw c f s).pending = s.pending := rfl

/-! ### modSensor -/

@[simp] theorem modSensor_ev (i : Nat) (f : Sensor → Sensor) (s : State) : (modSensor i f s).ev = s.ev := rfl
@[simp] theorem modSensor_stalls (i : Nat) (f : Sensor → Sensor) (s : State) : (modSensor i f s).stalls = s.stalls := rfl
@[simp] theorem modSensor_tdw (i : Nat) (f : Sensor → Sensor) (s : State) : (modSensor i f s).tdw = s.tdw := rfl
@[simp] theorem modSensor_psr (i : Nat) (f : Sensor → Sensor) (s : State) : (modSensor i f s).psr = s.psr := rfl
@[simp] theorem modSensor_squ (i : Nat) (f : Sensor → Sensor) (s : State) : (modSensor i f s).squ = s.squ := rfl
@[simp] theorem modSensor_lge (i : Nat) (f : Sensor → Sensor) (s : State) : (modSensor i f s).lge = s.lge := rfl
@[simp] theorem modSensor_xl (i : Nat) (f : Sensor → Sensor) (s : State) : (modSensor i f s).xl = s.xl := rfl
@[simp] theorem modSensor_seq (i : Nat) (f : Sensor → Sensor) (s : State) : (modSensor i f s).seq = s.seq := rfl
@[simp] theorem modSensor_tsl (i : Nat) (f : Sensor → Sensor) (s : State) : (modSensor i f s).tsl = s.tsl := rfl
@[simp] theorem modSensor_hms (i : Nat) (f : Sensor → Sensor) (s : State) : (modSensor i f s).hms = s.hms := rfl
@[simp] theorem modSensor_lms (i : Nat) (f : Sensor → Sensor) (s : State) : (modSensor i f s).lms = s.lms := rfl
@[simp] theorem modSensor_regions (i : Nat) (f : Sensor → Sensor) (s : State) : (modSensor i f s).regions = s.regions := rfl
@[simp] theorem modSensor_ole (i : Nat) (f : Sensor → Sensor) (s : State) : (modSensor i f s).ole = s.ole := rfl
@[simp] theorem modSensor_cp (i : Nat) (f : Sensor → Sensor) (s : State) : (modSensor i f s).cp = s.cp := rfl
@[simp] theorem modSensor_hif (i : Nat) (f : Sensor → Sensor) (s : State) : (modSensor i f s).hif = s.hif := rfl
@[simp] theorem modSensor_cal (i : Nat) (f : Sensor → Sensor) (s : State) : (modSensor i f s).cal = s.cal := rfl
@[simp] theorem modSensor_cls (i : Nat) (f : Sensor → Sensor) (s : State) : (modSensor i f s).cls = s.cls := rfl
@[simp] theorem modSensor_tps (i : Nat) (f : Sensor → Sensor) (s : State) :
    (modSensor i f s).tps = { s.tps with sensors := update s.tps.sensors i f } := rfl
@[simp] theorem modSensor_msc (i : Nat) (f : Sensor → Sensor) (s : State) : (modSensor i f s).msc = s.msc := rfl
@[simp] theorem modSensor_mem (i : Nat) (f : Sensor → Sensor) (s : State) : (modSensor i f s).mem = s.mem := rfl
@[simp] theorem modSensor_hostMem (i : Nat) (f : Sensor → Sensor) (s : State) : (modSensor i f s).hostMem = s.hostMem := rfl
@[simp] theorem modSensor_out (i : Nat) (f : Sensor → Sensor) (s : State) : (modSensor i f s).out = s.out := rfl
@[simp] theorem modSensor_fresh (i : Nat) (f : Sensor → Sensor) (s : State) : (modSensor i f s).fresh = s.fresh := rfl
@[simp] theorem modSensor_pending (i : Nat) (f : Sensor → Sensor) (s : State) : (modSensor i f s).pending = s.pending := rfl

/-! ### modDomain -/

@[simp] theorem modDomain_ev (d : Nat) (f : Domain → Domain) (s : State) : (modDomain d f s).ev = s.ev := rfl
@[simp] theorem modDomain_stalls (d : Nat) (f : Domain → Domain) (s : State) : (modDomain d f s).stalls = s.stalls := rfl
@[simp] theorem modDomain_tdw (d : Nat) (f : Domain → Domain) (s : State) : (modDomain d f s).tdw = s.tdw := rfl
@[simp] theorem modDomain_psr (d : Nat) (f : Domain → Domain) (s : State) : (modDomain d f s).psr = s.psr := rfl
@[simp] theorem modDomain_squ (d : Nat) (f : Domain → Domain) (s : State) : (modDomain d f s).squ = s.squ := rfl
@[simp] theorem modDomain_lge (d : Nat) (f : Domain → Domain) (s : State) : (modDomain d f s).lge = s.lge := rfl
@[simp] theorem modDomain_xl (d : Nat) (f : Domain → Domain) (s : State) : (modDomain d f s).xl = s.xl := rfl
@[simp] theorem modDomain_seq (d : Nat) (f : Domain → Domain) (s : State) : (modDomain d f s).seq = s.seq := rfl
@[simp] theorem modDomain_tsl (d : Nat) (f : Domain → Domain) (s : State) : (modDomain d f s).tsl = s.tsl := rfl
@[simp] theorem modDomain_hms (d : Nat) (f : Domain → Domain) (s : State) : (modDomain d f s).hms = s.hms := rfl
@[simp] theorem modDomain_lms (d : Nat) (f : Domain → Domain) (s : State) : (modDomain d f s).lms = s.lms := rfl
@[simp] theorem modDomain_regions (d : Nat) (f : Domain → Domain) (s : State) : (modDomain d f s).regions = s.regions := rfl
@[simp] theorem modDomain_ole (d : Nat) (f : Domain → Domain) (s : State) : (modDomain d f s).ole = s.ole := rfl
@[simp] theorem modDomain_cp (d : Nat) (f : Domain → Domain) (s : State) : (modDomain d f s).cp = s.cp := rfl
@[simp] theorem modDomain_hif (d : Nat) (f : Domain → Domain) (s : State) : (modDomain d f s).hif = s.hif := rfl
@[simp] theorem modDomain_cal (d : Nat) (f : Domain → Domain) (s : State) : (modDomain d f s).cal = s.cal := rfl
@[simp] theorem modDomain_cls (d : Nat) (f : Domain → Domain) (s : State) : (modDomain d f s).cls = s.cls := rfl
@[simp] theorem modDomain_tps (d : Nat) (f : Domain → Domain) (s : State) :
    (modDomain d f s).tps = { s.tps with domains := update s.tps.domains d f } := rfl
@[simp] theorem modDomain_msc (d : Nat) (f : Domain → Domain) (s : State) : (modDomain d f s).msc = s.msc := rfl
@[simp] theorem modDomain_mem (d : Nat) (f : Domain → Domain) (s : State) : (modDomain d f s).mem = s.mem := rfl
@[simp] theorem modDomain_hostMem (d : Nat) (f : Domain → Domain) (s : State) : (modDomain d f s).hostMem = s.hostMem := rfl
@[simp] theorem modDomain_out (d : Nat) (f : Domain → Domain) (s : State) : (modDomain d f s).out = s.out := rfl
@[simp] theorem modDomain_fresh (d : Nat) (f : Domain → Domain) (s : State) : (modDomain d f s).fresh = s.fresh := rfl
@[simp] theorem modDomain_pending (d : Nat) (f : Domain → Domain) (s : State) : (modDomain d f s).pending = s.pending := rfl

/-! ### modSubst -/

@[simp] theorem modSubst_ev (l : Nat) (f : Subst → Subst) (s : State) : (modSubst l f s).ev = s.ev := rfl
@[simp] theorem modSubst_stalls (l : Nat) (f : Subst → Subst) (s : State) : (modSubst l f s).stalls = s.stalls := rfl
@[simp] theorem modSubst_tdw (l : Nat) (f : Subst → Subst) (s : State) : (modSubst l f s).tdw = s.tdw := rfl
@[simp] theorem modSubst_psr (l : Nat) (f : Subst → Subst) (s : State) : (modSubst l f s).psr = s.psr := rfl
@[simp] theorem modSubst_squ (l : Nat) (f : Subst → Subst) (s : State) : (modSubst l f s).squ = s.squ := rfl
@[simp] theorem modSubst_lge (l : Nat) (f : Subst → Subst) (s : State) :
    (modSubst l f s).lge = { s.lge with subst := s.lge.subst.map (fun x => if x.logical = l then f x else x) } := rfl
@[simp] theorem modSubst_xl (l : Nat) (f : Subst → Subst) (s : State) : (modSubst l f s).xl = s.xl := rfl
@[simp] theorem modSubst_seq (l : Nat) (f : Subst → Subst) (s : State) : (modSubst l f s).seq = s.seq := rfl
@[simp] theorem modSubst_tsl (l : Nat) (f : Subst → Subst) (s : State) : (modSubst l f s).tsl = s.tsl := rfl
@[simp] theorem modSubst_hms (l : Nat) (f : Subst → Subst) (s : State) : (modSubst l f s).hms = s.hms := rfl
@[simp] theorem modSubst_lms (l : Nat) (f : Subst → Subst) (s : State) : (modSubst l f s).lms = s.lms := rfl
@[simp] theorem modSubst_regions (l : Nat) (f : Subst → Subst) (s : State) : (modSubst l f s).regions = s.regions := rfl
@[simp] theorem modSubst_ole (l : Nat) (f : Subst → Subst) (s : State) : (modSubst l f s).ole = s.ole := rfl
@[simp] theorem modSubst_cp (l : Nat) (f : Subst → Subst) (s : State) : (modSubst l f s).cp = s.cp := rfl
@[simp] theorem modSubst_hif (l : Nat) (f : Subst → Subst) (s : State) : (modSubst l f s).hif = s.hif := rfl
@[simp] theorem modSubst_cal (l : Nat) (f : Subst → Subst) (s : State) : (modSubst l f s).cal = s.cal := rfl
@[simp] theorem modSubst_cls (l : Nat) (f : Subst → Subst) (s : State) : (modSubst l f s).cls = s.cls := rfl
@[simp] theorem modSubst_tps (l : Nat) (f : Subst → Subst) (s : State) : (modSubst l f s).tps = s.tps := rfl
@[simp] theorem modSubst_msc (l : Nat) (f : Subst → Subst) (s : State) : (modSubst l f s).msc = s.msc := rfl
@[simp] theorem modSubst_mem (l : Nat) (f : Subst → Subst) (s : State) : (modSubst l f s).mem = s.mem := rfl
@[simp] theorem modSubst_hostMem (l : Nat) (f : Subst → Subst) (s : State) : (modSubst l f s).hostMem = s.hostMem := rfl
@[simp] theorem modSubst_out (l : Nat) (f : Subst → Subst) (s : State) : (modSubst l f s).out = s.out := rfl
@[simp] theorem modSubst_fresh (l : Nat) (f : Subst → Subst) (s : State) : (modSubst l f s).fresh = s.fresh := rfl
@[simp] theorem modSubst_pending (l : Nat) (f : Subst → Subst) (s : State) : (modSubst l f s).pending = s.pending := rfl

/-! ### setSource -/

@[simp] theorem setSource_ev (q : Nat × Nat × Int) (s : State) : (setSource q s).ev = s.ev := rfl
@[simp] theorem setSource_stalls (q : Nat × Nat × Int) (s : State) : (setSource q s).stalls = s.stalls := rfl
@[simp] theorem setSource_tdw (q : Nat × Nat × Int) (s : State) : (setSource q s).tdw = s.tdw := rfl
@[simp] theorem setSource_psr (q : Nat × Nat × Int) (s : State) : (setSource q s).psr = s.psr := rfl
@[simp] theorem setSource_squ (q : Nat × Nat × Int) (s : State) : (setSource q s).squ = s.squ := rfl
@[simp] theorem setSource_lge (q : Nat × Nat × Int) (s : State) : (setSource q s).lge = s.lge := rfl
@[simp] theorem setSource_xl (q : Nat × Nat × Int) (s : State) : (setSource q s).xl = s.xl := rfl
@[simp] theorem setSource_seq (q : Nat × Nat × Int) (s : State) : (setSource q s).seq = s.seq := rfl
@[simp] theorem setSource_tsl (q : Nat × Nat × Int) (s : State) : (setSource q s).tsl = s.tsl := rfl
@[simp] theorem setSource_hms (q : Nat × Nat × Int) (s : State) : (setSource q s).hms = s.hms := rfl
@[simp] theorem setSource_lms (q : Nat × Nat × Int) (s : State) : (setSource q s).lms = s.lms := rfl
@[simp] theorem setSource_regions (q : Nat × Nat × Int) (s : State) : (setSource q s).regions = s.regions := rfl
@[simp] theorem setSource_ole (q : Nat × Nat × Int) (s : State) : (setSource q s).ole = s.ole := rfl
@[simp] theorem setSource_cp (q : Nat × Nat × Int) (s : State) : (setSource q s).cp = s.cp := rfl
@[simp] theorem setSource_hif (q : Nat × Nat × Int) (s : State) : (setSource q s).hif = s.hif := rfl
@[simp] theorem setSource_cal (q : Nat × Nat × Int) (s : State) : (setSource q s).cal = s.cal := rfl
@[simp] theorem setSource_tps (q : Nat × Nat × Int) (s : State) : (setSource q s).tps = s.tps := rfl
@[simp] theorem setSource_msc (q : Nat × Nat × Int) (s : State) : (setSource q s).msc = s.msc := rfl
@[simp] theorem setSource_mem (q : Nat × Nat × Int) (s : State) : (setSource q s).mem = s.mem := rfl
@[simp] theorem setSource_hostMem (q : Nat × Nat × Int) (s : State) : (setSource q s).hostMem = s.hostMem := rfl
@[simp] theorem setSource_out (q : Nat × Nat × Int) (s : State) : (setSource q s).out = s.out := rfl
@[simp] theorem setSource_fresh (q : Nat × Nat × Int) (s : State) : (setSource q s).fresh = s.fresh := rfl
@[simp] theorem setSource_pending (q : Nat × Nat × Int) (s : State) : (setSource q s).pending = s.pending := rfl

/-! ### enterPage -/

@[simp] theorem enterPage_ev (o : Opening) (s : State) : (enterPage o s).ev = s.ev := rfl
@[simp] theorem enterPage_stalls (o : Opening) (s : State) : (enterPage o s).stalls = s.stalls := rfl
@[simp] theorem enterPage_tdw (o : Opening) (s : State) : (enterPage o s).tdw = s.tdw := rfl
@[simp] theorem enterPage_psr (o : Opening) (s : State) : (enterPage o s).psr = s.psr := rfl
@[simp] theorem enterPage_squ (o : Opening) (s : State) : (enterPage o s).squ = s.squ := rfl
@[simp] theorem enterPage_xl (o : Opening) (s : State) : (enterPage o s).xl = s.xl := rfl
@[simp] theorem enterPage_tsl (o : Opening) (s : State) : (enterPage o s).tsl = { s.tsl with len := o.len } := rfl
@[simp] theorem enterPage_hms (o : Opening) (s : State) : (enterPage o s).hms = s.hms := rfl
@[simp] theorem enterPage_lms (o : Opening) (s : State) : (enterPage o s).lms = s.lms := rfl
@[simp] theorem enterPage_regions (o : Opening) (s : State) : (enterPage o s).regions = s.regions := rfl
@[simp] theorem enterPage_ole (o : Opening) (s : State) : (enterPage o s).ole = s.ole := rfl
@[simp] theorem enterPage_cp (o : Opening) (s : State) : (enterPage o s).cp = s.cp := rfl
@[simp] theorem enterPage_hif (o : Opening) (s : State) : (enterPage o s).hif = s.hif := rfl
@[simp] theorem enterPage_cal (o : Opening) (s : State) : (enterPage o s).cal = s.cal := rfl
@[simp] theorem enterPage_cls (o : Opening) (s : State) : (enterPage o s).cls = s.cls := rfl
@[simp] theorem enterPage_tps (o : Opening) (s : State) : (enterPage o s).tps = s.tps := rfl
@[simp] theorem enterPage_msc (o : Opening) (s : State) : (enterPage o s).msc = s.msc := rfl
@[simp] theorem enterPage_mem (o : Opening) (s : State) : (enterPage o s).mem = s.mem := rfl
@[simp] theorem enterPage_hostMem (o : Opening) (s : State) : (enterPage o s).hostMem = s.hostMem := rfl
@[simp] theorem enterPage_out (o : Opening) (s : State) : (enterPage o s).out = s.out := rfl
@[simp] theorem enterPage_fresh (o : Opening) (s : State) : (enterPage o s).fresh = s.fresh := rfl
@[simp] theorem enterPage_pending (o : Opening) (s : State) : (enterPage o s).pending = s.pending := rfl

/-! ### dischargeAll -/

@[simp] theorem dischargeAll_ev (s : State) : (dischargeAll s).ev = s.ev := rfl
@[simp] theorem dischargeAll_stalls (s : State) : (dischargeAll s).stalls = s.stalls.map dischargeStall := rfl
@[simp] theorem dischargeAll_tdw (s : State) : (dischargeAll s).tdw = s.tdw := rfl
@[simp] theorem dischargeAll_psr (s : State) : (dischargeAll s).psr = s.psr := rfl
@[simp] theorem dischargeAll_squ (s : State) : (dischargeAll s).squ = s.squ := rfl
@[simp] theorem dischargeAll_lge (s : State) : (dischargeAll s).lge = s.lge := rfl
@[simp] theorem dischargeAll_xl (s : State) : (dischargeAll s).xl = s.xl := rfl
@[simp] theorem dischargeAll_seq (s : State) : (dischargeAll s).seq = s.seq := rfl
@[simp] theorem dischargeAll_tsl (s : State) : (dischargeAll s).tsl = s.tsl := rfl
@[simp] theorem dischargeAll_hms (s : State) : (dischargeAll s).hms = s.hms := rfl
@[simp] theorem dischargeAll_lms (s : State) : (dischargeAll s).lms = s.lms := rfl
@[simp] theorem dischargeAll_regions (s : State) : (dischargeAll s).regions = s.regions := rfl
@[simp] theorem dischargeAll_ole (s : State) : (dischargeAll s).ole = s.ole := rfl
@[simp] theorem dischargeAll_cp (s : State) : (dischargeAll s).cp = s.cp := rfl
@[simp] theorem dischargeAll_hif (s : State) : (dischargeAll s).hif = s.hif := rfl
@[simp] theorem dischargeAll_cal (s : State) : (dischargeAll s).cal = s.cal := rfl
@[simp] theorem dischargeAll_cls (s : State) : (dischargeAll s).cls = s.cls := rfl
@[simp] theorem dischargeAll_tps (s : State) : (dischargeAll s).tps = s.tps := rfl
@[simp] theorem dischargeAll_msc (s : State) : (dischargeAll s).msc = s.msc := rfl
@[simp] theorem dischargeAll_mem (s : State) : (dischargeAll s).mem = s.mem := rfl
@[simp] theorem dischargeAll_hostMem (s : State) : (dischargeAll s).hostMem = s.hostMem := rfl
@[simp] theorem dischargeAll_out (s : State) : (dischargeAll s).out = s.out := rfl
@[simp] theorem dischargeAll_fresh (s : State) : (dischargeAll s).fresh = s.fresh := rfl
@[simp] theorem dischargeAll_pending (s : State) : (dischargeAll s).pending = s.pending := rfl

/-! ### dropWork -/

@[simp] theorem dropWork_ev (slot t : Nat) (s : State) : (dropWork slot t s).ev = s.ev := rfl
@[simp] theorem dropWork_stalls (slot t : Nat) (s : State) : (dropWork slot t s).stalls = s.stalls := rfl
@[simp] theorem dropWork_tdw (slot t : Nat) (s : State) : (dropWork slot t s).tdw = s.tdw := rfl
@[simp] theorem dropWork_squ (slot t : Nat) (s : State) : (dropWork slot t s).squ = s.squ := rfl
@[simp] theorem dropWork_lge (slot t : Nat) (s : State) : (dropWork slot t s).lge = s.lge := rfl
@[simp] theorem dropWork_seq (slot t : Nat) (s : State) : (dropWork slot t s).seq = s.seq := rfl
@[simp] theorem dropWork_tsl (slot t : Nat) (s : State) : (dropWork slot t s).tsl = s.tsl := rfl
@[simp] theorem dropWork_hms (slot t : Nat) (s : State) : (dropWork slot t s).hms = s.hms := rfl
@[simp] theorem dropWork_lms (slot t : Nat) (s : State) : (dropWork slot t s).lms = s.lms := rfl
@[simp] theorem dropWork_regions (slot t : Nat) (s : State) : (dropWork slot t s).regions = s.regions := rfl
@[simp] theorem dropWork_ole (slot t : Nat) (s : State) : (dropWork slot t s).ole = s.ole := rfl
@[simp] theorem dropWork_cp (slot t : Nat) (s : State) : (dropWork slot t s).cp = s.cp := rfl
@[simp] theorem dropWork_hif (slot t : Nat) (s : State) : (dropWork slot t s).hif = s.hif := rfl
@[simp] theorem dropWork_cal (slot t : Nat) (s : State) : (dropWork slot t s).cal = s.cal := rfl
@[simp] theorem dropWork_cls (slot t : Nat) (s : State) : (dropWork slot t s).cls = s.cls := rfl
@[simp] theorem dropWork_tps (slot t : Nat) (s : State) : (dropWork slot t s).tps = s.tps := rfl
@[simp] theorem dropWork_msc (slot t : Nat) (s : State) : (dropWork slot t s).msc = s.msc := rfl
@[simp] theorem dropWork_mem (slot t : Nat) (s : State) : (dropWork slot t s).mem = s.mem := rfl
@[simp] theorem dropWork_hostMem (slot t : Nat) (s : State) : (dropWork slot t s).hostMem = s.hostMem := rfl
@[simp] theorem dropWork_out (slot t : Nat) (s : State) : (dropWork slot t s).out = s.out := rfl
@[simp] theorem dropWork_fresh (slot t : Nat) (s : State) : (dropWork slot t s).fresh = s.fresh := rfl
@[simp] theorem dropWork_pending (slot t : Nat) (s : State) : (dropWork slot t s).pending = s.pending := rfl

end Sys2Proof.Machine
end

