-- ==== Sys2Proof/Laws/Events.lean ====
section
/-! SUPPORT. What setting an event bit, writing its record and posting an entry to a ring can change. -/

namespace Sys2Proof.Machine

/-- `f` changes nothing that stands apart from the recording of events. -/
abbrev Apart (f : State → State) : Prop := ∀ s, (f s).apart = s.apart

theorem sessions_update (l : List Session) (n : Nat) (f : Session → Session) (h : ∀ x, { f x with events := 0 } = { x with events := 0 }) :
    (update l n f).map (fun x => { x with events := 0 }) = l.map (fun x => { x with events := 0 }) := by
  induction l generalizing n with
  | nil => rfl
  | cons a r ih => cases n with
    | zero => simp [update, h]
    | succ n => simp [update, ih]

theorem setSessions_apart (s : State) (l : List Session)
    (h : l.map (fun x => { x with events := 0 }) = s.cp.sessions.map (fun x => { x with events := 0 })) :
    ({ s with cp := { s.cp with sessions := l } } : State).apart = s.apart := by
  simp only [State.apart, Cp.apart, h]

theorem each_apart {α : Type} (l : List α) (f : α → State → State) (h : ∀ a, Apart (f a)) : Apart (each l f) := by
  induction l with
  | nil => intro s; rfl
  | cons a r ih => intro s; rw [each, ih, h]

theorem setRing_apart (i : Nat) (r : Ring) : Apart (setRing i r) := fun _ => rfl
theorem modRing_apart (i : Nat) (f : Ring → Ring) : Apart (modRing i f) := fun _ => rfl
theorem emit_apart (o : Output) : Apart (emit o) := fun _ => rfl
theorem sendMessage_apart (f : Frame) : Apart (sendMessage f) := fun _ => rfl

theorem writeByte_apart (a : Nat) (v : Byte) : Apart (writeByte a v) := by
  intro s; unfold writeByte; split <;> rfl

theorem writeBytes_apart (bs : List Byte) (a : Nat) : Apart (writeBytes a bs) := by
  induction bs generalizing a with
  | nil => intro s; rfl
  | cons b r ih => intro s; rw [writeBytes, ih, writeByte_apart]

theorem sendVector_apart (v : Nat) : Apart (sendVector v) := by
  intro s; unfold sendVector; split
  · rfl
  · split <;> rfl

theorem irqIfPending_apart (c : Src) : Apart (irqIfPending c) := by
  intro s; unfold irqIfPending; split
  · exact sendVector_apart _ s
  · rfl

theorem setBit_apart (c : Src) (b : Nat) : Apart (setBit c b) := by
  intro s; unfold setBit; dsimp only; split
  · rfl
  · rw [irqIfPending_apart]; rfl

theorem journalOne_apart (h t : List Byte) : Apart (journalOne h t) := fun _ => rfl
theorem countJournal_apart (n : Nat) : Apart (fun s => { s with msc := { s.msc with jCount := n } }) := fun _ => rfl
theorem journalGap_apart (g : Option (Nat × Nat)) : Apart (fun s => { s with msc := { s.msc with jGap := g } }) := fun _ => rfl
theorem journalSecond_apart (n : Nat) : Apart (fun s => { s with msc := { s.msc with jSecond := n, jCount := 0 } }) := fun _ => rfl

theorem journalEvent_apart (n : Nat) (h t : List Byte) : Apart (journalEvent n h t) := by
  intro s; unfold journalEvent
  have key : ∀ c : State, c.apart = s.apart → State.apart (if c.msc.jCount < 64 then
      { journalOne h t c with msc := { (journalOne h t c).msc with jCount := (journalOne h t c).msc.jCount + 1 } }
      else { c with msc := { c.msc with jGap := some (match c.msc.jGap with | none => (n, 1) | some (f, k) => (f, k + 1)) } }) = s.apart := by
    intro c hc
    split
    · exact (countJournal_apart _ (journalOne h t c)).trans ((journalOne_apart h t c).trans hc)
    · exact (journalGap_apart _ c).trans hc
  apply key
  split
  · rfl
  · exact journalSecond_apart _ s

theorem ringSignal_apart (i : Nat) : Apart (ringSignal i) := by
  intro s; unfold ringSignal; dsimp only; split
  · split
    · rw [sendVector_apart]; rfl
    · rfl
  · rfl

theorem staleRegions_apart (a n : Nat) : Apart (staleRegions a n) := by
  intro s
  have h : ∀ l : List Region, (l.map (fun r => if regionTouches a n r then { r with stale := true } else r)).map (fun r => { r with stale := false })
      = l.map (fun r => { r with stale := false }) := by
    intro l
    induction l with
    | nil => rfl
    | cons r l ih =>
      simp only [List.map_cons, ih]
      split <;> rfl
  simp only [State.apart, staleRegions, h]

theorem storeTask_apart (a : Nat) (bs : List Byte) : Apart (storeTask a bs) := by
  intro s; unfold storeTask; rw [staleRegions_apart, writeBytes_apart]

theorem ringStore_apart (i : Nat) (e : List Byte) : Apart (ringStore i e) := by
  intro s; unfold ringStore; dsimp only; rw [ringSignal_apart, modRing_apart, storeTask_apart]

theorem faultRing_apart (i : Nat) (c : BitVec 3) : Apart (faultRing i c) := fun _ => rfl
theorem ringLost_apart (i : Nat) : Apart (ringLost i) := fun _ => rfl

theorem eventLost_apart (i n : Nat) : Apart (eventLost i n) := by
  intro s; unfold eventLost; dsimp only; rw [setBit_apart]; rfl

theorem writeGap_apart (i : Nat) : Apart (writeGap i) := by
  intro s; unfold writeGap; dsimp only; split
  · rfl
  · split
    · rw [ringStore_apart]; rfl
    · rfl

theorem eventCopies_apart (c : Src) (e : List Byte) : Apart (eventCopies c e) := by
  apply each_apart; intro n s; dsimp only; split
  · exact setSessions_apart (sendMessage _ s) _ (sessions_update _ _ _ (fun _ => rfl))
  · rfl

theorem putEvent_apart (ring n : Nat) (e : List Byte) (f : State → State) (h : Apart f) : Apart (putEvent ring n e f) := by
  intro s; unfold putEvent; dsimp only
  split
  · exact writeGap_apart _ s
  · split
    · rw [ringLost_apart, writeGap_apart]
    · split
      · split
        · rw [ringStore_apart, writeGap_apart]
        · rw [h, ringLost_apart, faultRing_apart, writeGap_apart]
      · split
        · rw [eventLost_apart, writeGap_apart]
        · exact writeGap_apart _ s

theorem eventRings_apart (g : Option Nat) (put : Nat → State → State) (h : ∀ r, Apart (put r)) : Apart (eventRings g put) := by
  intro s; unfold eventRings
  cases g with
  | none =>
    dsimp only; split
    · exact h _ s
    · rfl
  | some r =>
    dsimp only; split
    · rw [h, h]
    · exact h _ s

theorem journalRecord_apart (c : Src) (b n : Nat) (e : List Byte) (i : EvInfo) : Apart (journalRecord c b n e i) := by
  intro s; unfold journalRecord; split
  · exact journalEvent_apart _ _ _ s
  · rfl

theorem writeRecord_apart (c : Src) (b : Nat) (i : EvInfo) (f : Nat → State → State) (h : ∀ r, Apart (f r)) :
    Apart (writeRecord c b i f) := by
  intro s
  rw [writeRecord, journalRecord_apart, eventCopies_apart, eventRings_apart _ _ (fun r => putEvent_apart r _ _ _ (h r))]
  rfl

theorem raiseWith_apart (f : Nat → State → State) (h : ∀ r, Apart (f r)) (c : Src) (b : Nat) (i : EvInfo) : Apart (raiseWith f c b i) := by
  intro s; unfold raiseWith; split
  · rw [writeRecord_apart c b i f h, setBit_apart]
  · exact setBit_apart c b s

theorem raiseFuel_apart (fuel : Nat) (c : Src) (b : Nat) (i : EvInfo) : Apart (raiseFuel fuel c b i) := by
  induction fuel generalizing c b i with
  | zero => intro s; rw [raiseFuel]; exact raiseWith_apart _ (fun _ => setBit_apart _ _) c b i s
  | succ f ih => intro s; rw [raiseFuel]; exact raiseWith_apart _ (fun _ => ih _ _ _) c b i s

/-- Setting an event bit with its record changes nothing apart from what records are kept in. -/
theorem raise_apart (c : Src) (b : Nat) (i : EvInfo) : Apart (raise c b i) := raiseFuel_apart 2 c b i

theorem ringPush_apart (i : Nat) (e : List Byte) : Apart (ringPush i e) := by
  intro s; unfold ringPush; split
  · rfl
  · split
    · split
      · exact ringStore_apart _ _ s
      · rw [raise_apart]; rfl
    · rfl

theorem ringPushReserved_apart (i : Nat) (e : List Byte) : Apart (ringPushReserved i e) := by
  intro s; unfold ringPushReserved; rw [ringPush_apart]; rfl

theorem telemetryPush_apart (i : Nat) (es : List (List Byte)) : Apart (telemetryPush i es) := by
  intro s; unfold telemetryPush; split
  · exact each_apart _ _ (ringPush_apart i) s
  · exact raise_apart _ _ _ s

/-! ### The fields that an event record leaves -/

@[simp] theorem raise_stalls (c : Src) (b : Nat) (i : EvInfo) (s : State) : (raise c b i s).stalls = s.stalls := by
  have h := congrArg (fun x : State => x.stalls) (raise_apart c b i s); exact h
@[simp] theorem raise_tdw (c : Src) (b : Nat) (i : EvInfo) (s : State) : (raise c b i s).tdw = s.tdw := by
  have h := congrArg (fun x : State => x.tdw) (raise_apart c b i s); exact h
@[simp] theorem raise_psr (c : Src) (b : Nat) (i : EvInfo) (s : State) : (raise c b i s).psr = s.psr := by
  have h := congrArg (fun x : State => x.psr) (raise_apart c b i s); exact h
@[simp] theorem raise_squ (c : Src) (b : Nat) (i : EvInfo) (s : State) : (raise c b i s).squ = s.squ := by
  have h := congrArg (fun x : State => x.squ) (raise_apart c b i s); exact h
@[simp] theorem raise_lge (c : Src) (b : Nat) (i : EvInfo) (s : State) : (raise c b i s).lge = s.lge := by
  have h := congrArg (fun x : State => x.lge) (raise_apart c b i s); exact h
@[simp] theorem raise_xl (c : Src) (b : Nat) (i : EvInfo) (s : State) : (raise c b i s).xl = s.xl := by
  have h := congrArg (fun x : State => x.xl) (raise_apart c b i s); exact h
@[simp] theorem raise_seq (c : Src) (b : Nat) (i : EvInfo) (s : State) : (raise c b i s).seq = s.seq := by
  have h := congrArg (fun x : State => x.seq) (raise_apart c b i s); exact h
@[simp] theorem raise_tsl (c : Src) (b : Nat) (i : EvInfo) (s : State) : (raise c b i s).tsl = s.tsl := by
  have h := congrArg (fun x : State => x.tsl) (raise_apart c b i s); exact h
@[simp] theorem raise_hms (c : Src) (b : Nat) (i : EvInfo) (s : State) : (raise c b i s).hms = s.hms := by
  have h := congrArg (fun x : State => x.hms) (raise_apart c b i s); exact h
@[simp] theorem raise_lms (c : Src) (b : Nat) (i : EvInfo) (s : State) : (raise c b i s).lms = s.lms := by
  have h := congrArg (fun x : State => x.lms) (raise_apart c b i s); exact h
theorem raise_regions (c : Src) (b : Nat) (i : EvInfo) (s : State) :
    (raise c b i s).regions.map (fun r => { r with stale := false }) = s.regions.map (fun r => { r with stale := false }) := by
  have h := congrArg (fun x : State => x.regions) (raise_apart c b i s); exact h
@[simp] theorem raise_ole (c : Src) (b : Nat) (i : EvInfo) (s : State) : (raise c b i s).ole = s.ole := by
  have h := congrArg (fun x : State => x.ole) (raise_apart c b i s); exact h
@[simp] theorem raise_cal (c : Src) (b : Nat) (i : EvInfo) (s : State) : (raise c b i s).cal = s.cal := by
  have h := congrArg (fun x : State => x.cal) (raise_apart c b i s); exact h
@[simp] theorem raise_cls (c : Src) (b : Nat) (i : EvInfo) (s : State) : (raise c b i s).cls = s.cls := by
  have h := congrArg (fun x : State => x.cls) (raise_apart c b i s); exact h
@[simp] theorem raise_tps (c : Src) (b : Nat) (i : EvInfo) (s : State) : (raise c b i s).tps = s.tps := by
  have h := congrArg (fun x : State => x.tps) (raise_apart c b i s); exact h
@[simp] theorem raise_fresh (c : Src) (b : Nat) (i : EvInfo) (s : State) : (raise c b i s).fresh = s.fresh := by
  have h := congrArg (fun x : State => x.fresh) (raise_apart c b i s); exact h
@[simp] theorem raise_pending (c : Src) (b : Nat) (i : EvInfo) (s : State) : (raise c b i s).pending = s.pending := by
  have h := congrArg (fun x : State => x.pending) (raise_apart c b i s); exact h
@[simp] theorem raise_msc_strapPcieOff (c : Src) (b : Nat) (i : EvInfo) (s : State) : (raise c b i s).msc.strapPcieOff = s.msc.strapPcieOff := by
  have h := congrArg (fun x : State => x.msc.strapPcieOff) (raise_apart c b i s); exact h
@[simp] theorem raise_msc_mode (c : Src) (b : Nat) (i : EvInfo) (s : State) : (raise c b i s).msc.mode = s.msc.mode := by
  have h := congrArg (fun x : State => x.msc.mode) (raise_apart c b i s); exact h
@[simp] theorem raise_msc_running (c : Src) (b : Nat) (i : EvInfo) (s : State) : (raise c b i s).msc.running = s.msc.running := by
  have h := congrArg (fun x : State => x.msc.running) (raise_apart c b i s); exact h
@[simp] theorem raise_msc_resetting (c : Src) (b : Nat) (i : EvInfo) (s : State) : (raise c b i s).msc.resetting = s.msc.resetting := by
  have h := congrArg (fun x : State => x.msc.resetting) (raise_apart c b i s); exact h
@[simp] theorem raise_msc_waiting (c : Src) (b : Nat) (i : EvInfo) (s : State) : (raise c b i s).msc.waiting = s.msc.waiting := by
  have h := congrArg (fun x : State => x.msc.waiting) (raise_apart c b i s); exact h
@[simp] theorem raise_msc_action (c : Src) (b : Nat) (i : EvInfo) (s : State) : (raise c b i s).msc.action = s.msc.action := by
  have h := congrArg (fun x : State => x.msc.action) (raise_apart c b i s); exact h
@[simp] theorem raise_msc_update (c : Src) (b : Nat) (i : EvInfo) (s : State) : (raise c b i s).msc.update = s.msc.update := by
  have h := congrArg (fun x : State => x.msc.update) (raise_apart c b i s); exact h
@[simp] theorem raise_msc_held (c : Src) (b : Nat) (i : EvInfo) (s : State) : (raise c b i s).msc.held = s.msc.held := by
  have h := congrArg (fun x : State => x.msc.held) (raise_apart c b i s); exact h
@[simp] theorem raise_hif_wins (c : Src) (b : Nat) (i : EvInfo) (s : State) : (raise c b i s).hif.wins = s.hif.wins := by
  have h := congrArg (fun x : State => x.hif.wins) (raise_apart c b i s); exact h
@[simp] theorem raise_hif_irqEn (c : Src) (b : Nat) (i : EvInfo) (s : State) : (raise c b i s).hif.irqEn = s.hif.irqEn := by
  have h := congrArg (fun x : State => x.hif.irqEn) (raise_apart c b i s); exact h
@[simp] theorem raise_hif_irqVec (c : Src) (b : Nat) (i : EvInfo) (s : State) : (raise c b i s).hif.irqVec = s.hif.irqVec := by
  have h := congrArg (fun x : State => x.hif.irqVec) (raise_apart c b i s); exact h
@[simp] theorem raise_hif_irqGlobal (c : Src) (b : Nat) (i : EvInfo) (s : State) : (raise c b i s).hif.irqGlobal = s.hif.irqGlobal := by
  have h := congrArg (fun x : State => x.hif.irqGlobal) (raise_apart c b i s); exact h
@[simp] theorem raise_hif_aper (c : Src) (b : Nat) (i : EvInfo) (s : State) : (raise c b i s).hif.aper = s.hif.aper := by
  have h := congrArg (fun x : State => x.hif.aper) (raise_apart c b i s); exact h
@[simp] theorem raise_hif_bulk (c : Src) (b : Nat) (i : EvInfo) (s : State) : (raise c b i s).hif.bulk = s.hif.bulk := by
  have h := congrArg (fun x : State => x.hif.bulk) (raise_apart c b i s); exact h
@[simp] theorem raise_hif_evRing (c : Src) (b : Nat) (i : EvInfo) (s : State) : (raise c b i s).hif.evRing = s.hif.evRing := by
  have h := congrArg (fun x : State => x.hif.evRing) (raise_apart c b i s); exact h
@[simp] theorem raise_hif_evRingEn (c : Src) (b : Nat) (i : EvInfo) (s : State) : (raise c b i s).hif.evRingEn = s.hif.evRingEn := by
  have h := congrArg (fun x : State => x.hif.evRingEn) (raise_apart c b i s); exact h
@[simp] theorem raise_hif_msixMask (c : Src) (b : Nat) (i : EvInfo) (s : State) : (raise c b i s).hif.msixMask = s.hif.msixMask := by
  have h := congrArg (fun x : State => x.hif.msixMask) (raise_apart c b i s); exact h

@[simp] theorem setBit_stalls (c : Src) (b : Nat) (s : State) : (setBit c b s).stalls = s.stalls := by
  have h := congrArg (fun x : State => x.stalls) (setBit_apart c b s); exact h
@[simp] theorem setBit_tdw (c : Src) (b : Nat) (s : State) : (setBit c b s).tdw = s.tdw := by
  have h := congrArg (fun x : State => x.tdw) (setBit_apart c b s); exact h
@[simp] theorem setBit_psr (c : Src) (b : Nat) (s : State) : (setBit c b s).psr = s.psr := by
  have h := congrArg (fun x : State => x.psr) (setBit_apart c b s); exact h
@[simp] theorem setBit_squ (c : Src) (b : Nat) (s : State) : (setBit c b s).squ = s.squ := by
  have h := congrArg (fun x : State => x.squ) (setBit_apart c b s); exact h
@[simp] theorem setBit_lge (c : Src) (b : Nat) (s : State) : (setBit c b s).lge = s.lge := by
  have h := congrArg (fun x : State => x.lge) (setBit_apart c b s); exact h
@[simp] theorem setBit_xl (c : Src) (b : Nat) (s : State) : (setBit c b s).xl = s.xl := by
  have h := congrArg (fun x : State => x.xl) (setBit_apart c b s); exact h
@[simp] theorem setBit_seq (c : Src) (b : Nat) (s : State) : (setBit c b s).seq = s.seq := by
  have h := congrArg (fun x : State => x.seq) (setBit_apart c b s); exact h
@[simp] theorem setBit_tsl (c : Src) (b : Nat) (s : State) : (setBit c b s).tsl = s.tsl := by
  have h := congrArg (fun x : State => x.tsl) (setBit_apart c b s); exact h
@[simp] theorem setBit_hms (c : Src) (b : Nat) (s : State) : (setBit c b s).hms = s.hms := by
  have h := congrArg (fun x : State => x.hms) (setBit_apart c b s); exact h
@[simp] theorem setBit_lms (c : Src) (b : Nat) (s : State) : (setBit c b s).lms = s.lms := by
  have h := congrArg (fun x : State => x.lms) (setBit_apart c b s); exact h
@[simp] theorem setBit_regions (c : Src) (b : Nat) (s : State) : (setBit c b s).regions = s.regions := by
  have hv : ∀ (v : Nat) (s : State), (sendVector v s).regions = s.regions := by
    intro v s; unfold sendVector; split
    · rfl
    · split <;> rfl
  have hi : ∀ (c : Src) (s : State), (irqIfPending c s).regions = s.regions := by
    intro c s; unfold irqIfPending; split
    · exact hv _ s
    · rfl
  unfold setBit; dsimp only; split
  · rfl
  · rw [hi]
@[simp] theorem setBit_ole (c : Src) (b : Nat) (s : State) : (setBit c b s).ole = s.ole := by
  have h := congrArg (fun x : State => x.ole) (setBit_apart c b s); exact h
@[simp] theorem setBit_cal (c : Src) (b : Nat) (s : State) : (setBit c b s).cal = s.cal := by
  have h := congrArg (fun x : State => x.cal) (setBit_apart c b s); exact h
@[simp] theorem setBit_cls (c : Src) (b : Nat) (s : State) : (setBit c b s).cls = s.cls := by
  have h := congrArg (fun x : State => x.cls) (setBit_apart c b s); exact h
@[simp] theorem setBit_tps (c : Src) (b : Nat) (s : State) : (setBit c b s).tps = s.tps := by
  have h := congrArg (fun x : State => x.tps) (setBit_apart c b s); exact h
@[simp] theorem setBit_fresh (c : Src) (b : Nat) (s : State) : (setBit c b s).fresh = s.fresh := by
  have h := congrArg (fun x : State => x.fresh) (setBit_apart c b s); exact h
@[simp] theorem setBit_pending (c : Src) (b : Nat) (s : State) : (setBit c b s).pending = s.pending := by
  have h := congrArg (fun x : State => x.pending) (setBit_apart c b s); exact h
@[simp] theorem setBit_msc_strapPcieOff (c : Src) (b : Nat) (s : State) : (setBit c b s).msc.strapPcieOff = s.msc.strapPcieOff := by
  have h := congrArg (fun x : State => x.msc.strapPcieOff) (setBit_apart c b s); exact h
@[simp] theorem setBit_msc_mode (c : Src) (b : Nat) (s : State) : (setBit c b s).msc.mode = s.msc.mode := by
  have h := congrArg (fun x : State => x.msc.mode) (setBit_apart c b s); exact h
@[simp] theorem setBit_msc_running (c : Src) (b : Nat) (s : State) : (setBit c b s).msc.running = s.msc.running := by
  have h := congrArg (fun x : State => x.msc.running) (setBit_apart c b s); exact h
@[simp] theorem setBit_msc_resetting (c : Src) (b : Nat) (s : State) : (setBit c b s).msc.resetting = s.msc.resetting := by
  have h := congrArg (fun x : State => x.msc.resetting) (setBit_apart c b s); exact h
@[simp] theorem setBit_msc_waiting (c : Src) (b : Nat) (s : State) : (setBit c b s).msc.waiting = s.msc.waiting := by
  have h := congrArg (fun x : State => x.msc.waiting) (setBit_apart c b s); exact h
@[simp] theorem setBit_msc_action (c : Src) (b : Nat) (s : State) : (setBit c b s).msc.action = s.msc.action := by
  have h := congrArg (fun x : State => x.msc.action) (setBit_apart c b s); exact h
@[simp] theorem setBit_msc_update (c : Src) (b : Nat) (s : State) : (setBit c b s).msc.update = s.msc.update := by
  have h := congrArg (fun x : State => x.msc.update) (setBit_apart c b s); exact h
@[simp] theorem setBit_msc_held (c : Src) (b : Nat) (s : State) : (setBit c b s).msc.held = s.msc.held := by
  have h := congrArg (fun x : State => x.msc.held) (setBit_apart c b s); exact h
@[simp] theorem setBit_hif_wins (c : Src) (b : Nat) (s : State) : (setBit c b s).hif.wins = s.hif.wins := by
  have h := congrArg (fun x : State => x.hif.wins) (setBit_apart c b s); exact h
@[simp] theorem setBit_hif_irqEn (c : Src) (b : Nat) (s : State) : (setBit c b s).hif.irqEn = s.hif.irqEn := by
  have h := congrArg (fun x : State => x.hif.irqEn) (setBit_apart c b s); exact h
@[simp] theorem setBit_hif_irqVec (c : Src) (b : Nat) (s : State) : (setBit c b s).hif.irqVec = s.hif.irqVec := by
  have h := congrArg (fun x : State => x.hif.irqVec) (setBit_apart c b s); exact h
@[simp] theorem setBit_hif_irqGlobal (c : Src) (b : Nat) (s : State) : (setBit c b s).hif.irqGlobal = s.hif.irqGlobal := by
  have h := congrArg (fun x : State => x.hif.irqGlobal) (setBit_apart c b s); exact h
@[simp] theorem setBit_hif_aper (c : Src) (b : Nat) (s : State) : (setBit c b s).hif.aper = s.hif.aper := by
  have h := congrArg (fun x : State => x.hif.aper) (setBit_apart c b s); exact h
@[simp] theorem setBit_hif_bulk (c : Src) (b : Nat) (s : State) : (setBit c b s).hif.bulk = s.hif.bulk := by
  have h := congrArg (fun x : State => x.hif.bulk) (setBit_apart c b s); exact h
@[simp] theorem setBit_hif_evRing (c : Src) (b : Nat) (s : State) : (setBit c b s).hif.evRing = s.hif.evRing := by
  have h := congrArg (fun x : State => x.hif.evRing) (setBit_apart c b s); exact h
@[simp] theorem setBit_hif_evRingEn (c : Src) (b : Nat) (s : State) : (setBit c b s).hif.evRingEn = s.hif.evRingEn := by
  have h := congrArg (fun x : State => x.hif.evRingEn) (setBit_apart c b s); exact h
@[simp] theorem setBit_hif_msixMask (c : Src) (b : Nat) (s : State) : (setBit c b s).hif.msixMask = s.hif.msixMask := by
  have h := congrArg (fun x : State => x.hif.msixMask) (setBit_apart c b s); exact h

@[simp] theorem writeBytes_stalls (a : Nat) (bs : List Byte) (s : State) : (writeBytes a bs s).stalls = s.stalls := by
  have h := congrArg (fun x : State => x.stalls) (writeBytes_apart bs a s); exact h
@[simp] theorem writeBytes_tdw (a : Nat) (bs : List Byte) (s : State) : (writeBytes a bs s).tdw = s.tdw := by
  have h := congrArg (fun x : State => x.tdw) (writeBytes_apart bs a s); exact h
@[simp] theorem writeBytes_psr (a : Nat) (bs : List Byte) (s : State) : (writeBytes a bs s).psr = s.psr := by
  have h := congrArg (fun x : State => x.psr) (writeBytes_apart bs a s); exact h
@[simp] theorem writeBytes_squ (a : Nat) (bs : List Byte) (s : State) : (writeBytes a bs s).squ = s.squ := by
  have h := congrArg (fun x : State => x.squ) (writeBytes_apart bs a s); exact h
@[simp] theorem writeBytes_lge (a : Nat) (bs : List Byte) (s : State) : (writeBytes a bs s).lge = s.lge := by
  have h := congrArg (fun x : State => x.lge) (writeBytes_apart bs a s); exact h
@[simp] theorem writeBytes_xl (a : Nat) (bs : List Byte) (s : State) : (writeBytes a bs s).xl = s.xl := by
  have h := congrArg (fun x : State => x.xl) (writeBytes_apart bs a s); exact h
@[simp] theorem writeBytes_seq (a : Nat) (bs : List Byte) (s : State) : (writeBytes a bs s).seq = s.seq := by
  have h := congrArg (fun x : State => x.seq) (writeBytes_apart bs a s); exact h
@[simp] theorem writeBytes_tsl (a : Nat) (bs : List Byte) (s : State) : (writeBytes a bs s).tsl = s.tsl := by
  have h := congrArg (fun x : State => x.tsl) (writeBytes_apart bs a s); exact h
@[simp] theorem writeBytes_hms (a : Nat) (bs : List Byte) (s : State) : (writeBytes a bs s).hms = s.hms := by
  have h := congrArg (fun x : State => x.hms) (writeBytes_apart bs a s); exact h
@[simp] theorem writeBytes_lms (a : Nat) (bs : List Byte) (s : State) : (writeBytes a bs s).lms = s.lms := by
  have h := congrArg (fun x : State => x.lms) (writeBytes_apart bs a s); exact h
@[simp] theorem writeBytes_regions (a : Nat) (bs : List Byte) (s : State) : (writeBytes a bs s).regions = s.regions := by
  induction bs generalizing a s with
  | nil => rfl
  | cons b r ih =>
    rw [writeBytes, ih]; unfold writeByte; split <;> rfl
@[simp] theorem writeBytes_ole (a : Nat) (bs : List Byte) (s : State) : (writeBytes a bs s).ole = s.ole := by
  have h := congrArg (fun x : State => x.ole) (writeBytes_apart bs a s); exact h
@[simp] theorem writeBytes_cal (a : Nat) (bs : List Byte) (s : State) : (writeBytes a bs s).cal = s.cal := by
  have h := congrArg (fun x : State => x.cal) (writeBytes_apart bs a s); exact h
@[simp] theorem writeBytes_cls (a : Nat) (bs : List Byte) (s : State) : (writeBytes a bs s).cls = s.cls := by
  have h := congrArg (fun x : State => x.cls) (writeBytes_apart bs a s); exact h
@[simp] theorem writeBytes_tps (a : Nat) (bs : List Byte) (s : State) : (writeBytes a bs s).tps = s.tps := by
  have h := congrArg (fun x : State => x.tps) (writeBytes_apart bs a s); exact h
@[simp] theorem writeBytes_fresh (a : Nat) (bs : List Byte) (s : State) : (writeBytes a bs s).fresh = s.fresh := by
  have h := congrArg (fun x : State => x.fresh) (writeBytes_apart bs a s); exact h
@[simp] theorem writeBytes_pending (a : Nat) (bs : List Byte) (s : State) : (writeBytes a bs s).pending = s.pending := by
  have h := congrArg (fun x : State => x.pending) (writeBytes_apart bs a s); exact h
@[simp] theorem writeBytes_msc_strapPcieOff (a : Nat) (bs : List Byte) (s : State) : (writeBytes a bs s).msc.strapPcieOff = s.msc.strapPcieOff := by
  have h := congrArg (fun x : State => x.msc.strapPcieOff) (writeBytes_apart bs a s); exact h
@[simp] theorem writeBytes_msc_mode (a : Nat) (bs : List Byte) (s : State) : (writeBytes a bs s).msc.mode = s.msc.mode := by
  have h := congrArg (fun x : State => x.msc.mode) (writeBytes_apart bs a s); exact h
@[simp] theorem writeBytes_msc_running (a : Nat) (bs : List Byte) (s : State) : (writeBytes a bs s).msc.running = s.msc.running := by
  have h := congrArg (fun x : State => x.msc.running) (writeBytes_apart bs a s); exact h
@[simp] theorem writeBytes_msc_resetting (a : Nat) (bs : List Byte) (s : State) : (writeBytes a bs s).msc.resetting = s.msc.resetting := by
  have h := congrArg (fun x : State => x.msc.resetting) (writeBytes_apart bs a s); exact h
@[simp] theorem writeBytes_msc_waiting (a : Nat) (bs : List Byte) (s : State) : (writeBytes a bs s).msc.waiting = s.msc.waiting := by
  have h := congrArg (fun x : State => x.msc.waiting) (writeBytes_apart bs a s); exact h
@[simp] theorem writeBytes_msc_action (a : Nat) (bs : List Byte) (s : State) : (writeBytes a bs s).msc.action = s.msc.action := by
  have h := congrArg (fun x : State => x.msc.action) (writeBytes_apart bs a s); exact h
@[simp] theorem writeBytes_msc_update (a : Nat) (bs : List Byte) (s : State) : (writeBytes a bs s).msc.update = s.msc.update := by
  have h := congrArg (fun x : State => x.msc.update) (writeBytes_apart bs a s); exact h
@[simp] theorem writeBytes_msc_held (a : Nat) (bs : List Byte) (s : State) : (writeBytes a bs s).msc.held = s.msc.held := by
  have h := congrArg (fun x : State => x.msc.held) (writeBytes_apart bs a s); exact h
@[simp] theorem writeBytes_hif_wins (a : Nat) (bs : List Byte) (s : State) : (writeBytes a bs s).hif.wins = s.hif.wins := by
  have h := congrArg (fun x : State => x.hif.wins) (writeBytes_apart bs a s); exact h
@[simp] theorem writeBytes_hif_irqEn (a : Nat) (bs : List Byte) (s : State) : (writeBytes a bs s).hif.irqEn = s.hif.irqEn := by
  have h := congrArg (fun x : State => x.hif.irqEn) (writeBytes_apart bs a s); exact h
@[simp] theorem writeBytes_hif_irqVec (a : Nat) (bs : List Byte) (s : State) : (writeBytes a bs s).hif.irqVec = s.hif.irqVec := by
  have h := congrArg (fun x : State => x.hif.irqVec) (writeBytes_apart bs a s); exact h
@[simp] theorem writeBytes_hif_irqGlobal (a : Nat) (bs : List Byte) (s : State) : (writeBytes a bs s).hif.irqGlobal = s.hif.irqGlobal := by
  have h := congrArg (fun x : State => x.hif.irqGlobal) (writeBytes_apart bs a s); exact h
@[simp] theorem writeBytes_hif_aper (a : Nat) (bs : List Byte) (s : State) : (writeBytes a bs s).hif.aper = s.hif.aper := by
  have h := congrArg (fun x : State => x.hif.aper) (writeBytes_apart bs a s); exact h
@[simp] theorem writeBytes_hif_bulk (a : Nat) (bs : List Byte) (s : State) : (writeBytes a bs s).hif.bulk = s.hif.bulk := by
  have h := congrArg (fun x : State => x.hif.bulk) (writeBytes_apart bs a s); exact h
@[simp] theorem writeBytes_hif_evRing (a : Nat) (bs : List Byte) (s : State) : (writeBytes a bs s).hif.evRing = s.hif.evRing := by
  have h := congrArg (fun x : State => x.hif.evRing) (writeBytes_apart bs a s); exact h
@[simp] theorem writeBytes_hif_evRingEn (a : Nat) (bs : List Byte) (s : State) : (writeBytes a bs s).hif.evRingEn = s.hif.evRingEn := by
  have h := congrArg (fun x : State => x.hif.evRingEn) (writeBytes_apart bs a s); exact h
@[simp] theorem writeBytes_hif_msixMask (a : Nat) (bs : List Byte) (s : State) : (writeBytes a bs s).hif.msixMask = s.hif.msixMask := by
  have h := congrArg (fun x : State => x.hif.msixMask) (writeBytes_apart bs a s); exact h

@[simp] theorem ringPush_stalls (i : Nat) (e : List Byte) (s : State) : (ringPush i e s).stalls = s.stalls := by
  have h := congrArg (fun x : State => x.stalls) (ringPush_apart i e s); exact h
@[simp] theorem ringPush_tdw (i : Nat) (e : List Byte) (s : State) : (ringPush i e s).tdw = s.tdw := by
  have h := congrArg (fun x : State => x.tdw) (ringPush_apart i e s); exact h
@[simp] theorem ringPush_psr (i : Nat) (e : List Byte) (s : State) : (ringPush i e s).psr = s.psr := by
  have h := congrArg (fun x : State => x.psr) (ringPush_apart i e s); exact h
@[simp] theorem ringPush_squ (i : Nat) (e : List Byte) (s : State) : (ringPush i e s).squ = s.squ := by
  have h := congrArg (fun x : State => x.squ) (ringPush_apart i e s); exact h
@[simp] theorem ringPush_lge (i : Nat) (e : List Byte) (s : State) : (ringPush i e s).lge = s.lge := by
  have h := congrArg (fun x : State => x.lge) (ringPush_apart i e s); exact h
@[simp] theorem ringPush_xl (i : Nat) (e : List Byte) (s : State) : (ringPush i e s).xl = s.xl := by
  have h := congrArg (fun x : State => x.xl) (ringPush_apart i e s); exact h
@[simp] theorem ringPush_seq (i : Nat) (e : List Byte) (s : State) : (ringPush i e s).seq = s.seq := by
  have h := congrArg (fun x : State => x.seq) (ringPush_apart i e s); exact h
@[simp] theorem ringPush_tsl (i : Nat) (e : List Byte) (s : State) : (ringPush i e s).tsl = s.tsl := by
  have h := congrArg (fun x : State => x.tsl) (ringPush_apart i e s); exact h
@[simp] theorem ringPush_hms (i : Nat) (e : List Byte) (s : State) : (ringPush i e s).hms = s.hms := by
  have h := congrArg (fun x : State => x.hms) (ringPush_apart i e s); exact h
@[simp] theorem ringPush_lms (i : Nat) (e : List Byte) (s : State) : (ringPush i e s).lms = s.lms := by
  have h := congrArg (fun x : State => x.lms) (ringPush_apart i e s); exact h
theorem ringPush_regions (i : Nat) (e : List Byte) (s : State) :
    (ringPush i e s).regions.map (fun r => { r with stale := false }) = s.regions.map (fun r => { r with stale := false }) := by
  have h := congrArg (fun x : State => x.regions) (ringPush_apart i e s); exact h
@[simp] theorem ringPush_ole (i : Nat) (e : List Byte) (s : State) : (ringPush i e s).ole = s.ole := by
  have h := congrArg (fun x : State => x.ole) (ringPush_apart i e s); exact h
@[simp] theorem ringPush_cal (i : Nat) (e : List Byte) (s : State) : (ringPush i e s).cal = s.cal := by
  have h := congrArg (fun x : State => x.cal) (ringPush_apart i e s); exact h
@[simp] theorem ringPush_cls (i : Nat) (e : List Byte) (s : State) : (ringPush i e s).cls = s.cls := by
  have h := congrArg (fun x : State => x.cls) (ringPush_apart i e s); exact h
@[simp] theorem ringPush_tps (i : Nat) (e : List Byte) (s : State) : (ringPush i e s).tps = s.tps := by
  have h := congrArg (fun x : State => x.tps) (ringPush_apart i e s); exact h
@[simp] theorem ringPush_fresh (i : Nat) (e : List Byte) (s : State) : (ringPush i e s).fresh = s.fresh := by
  have h := congrArg (fun x : State => x.fresh) (ringPush_apart i e s); exact h
@[simp] theorem ringPush_pending (i : Nat) (e : List Byte) (s : State) : (ringPush i e s).pending = s.pending := by
  have h := congrArg (fun x : State => x.pending) (ringPush_apart i e s); exact h
@[simp] theorem ringPush_msc_strapPcieOff (i : Nat) (e : List Byte) (s : State) : (ringPush i e s).msc.strapPcieOff = s.msc.strapPcieOff := by
  have h := congrArg (fun x : State => x.msc.strapPcieOff) (ringPush_apart i e s); exact h
@[simp] theorem ringPush_msc_mode (i : Nat) (e : List Byte) (s : State) : (ringPush i e s).msc.mode = s.msc.mode := by
  have h := congrArg (fun x : State => x.msc.mode) (ringPush_apart i e s); exact h
@[simp] theorem ringPush_msc_running (i : Nat) (e : List Byte) (s : State) : (ringPush i e s).msc.running = s.msc.running := by
  have h := congrArg (fun x : State => x.msc.running) (ringPush_apart i e s); exact h
@[simp] theorem ringPush_msc_resetting (i : Nat) (e : List Byte) (s : State) : (ringPush i e s).msc.resetting = s.msc.resetting := by
  have h := congrArg (fun x : State => x.msc.resetting) (ringPush_apart i e s); exact h
@[simp] theorem ringPush_msc_waiting (i : Nat) (e : List Byte) (s : State) : (ringPush i e s).msc.waiting = s.msc.waiting := by
  have h := congrArg (fun x : State => x.msc.waiting) (ringPush_apart i e s); exact h
@[simp] theorem ringPush_msc_action (i : Nat) (e : List Byte) (s : State) : (ringPush i e s).msc.action = s.msc.action := by
  have h := congrArg (fun x : State => x.msc.action) (ringPush_apart i e s); exact h
@[simp] theorem ringPush_msc_update (i : Nat) (e : List Byte) (s : State) : (ringPush i e s).msc.update = s.msc.update := by
  have h := congrArg (fun x : State => x.msc.update) (ringPush_apart i e s); exact h
@[simp] theorem ringPush_msc_held (i : Nat) (e : List Byte) (s : State) : (ringPush i e s).msc.held = s.msc.held := by
  have h := congrArg (fun x : State => x.msc.held) (ringPush_apart i e s); exact h
@[simp] theorem ringPush_hif_wins (i : Nat) (e : List Byte) (s : State) : (ringPush i e s).hif.wins = s.hif.wins := by
  have h := congrArg (fun x : State => x.hif.wins) (ringPush_apart i e s); exact h
@[simp] theorem ringPush_hif_irqEn (i : Nat) (e : List Byte) (s : State) : (ringPush i e s).hif.irqEn = s.hif.irqEn := by
  have h := congrArg (fun x : State => x.hif.irqEn) (ringPush_apart i e s); exact h
@[simp] theorem ringPush_hif_irqVec (i : Nat) (e : List Byte) (s : State) : (ringPush i e s).hif.irqVec = s.hif.irqVec := by
  have h := congrArg (fun x : State => x.hif.irqVec) (ringPush_apart i e s); exact h
@[simp] theorem ringPush_hif_irqGlobal (i : Nat) (e : List Byte) (s : State) : (ringPush i e s).hif.irqGlobal = s.hif.irqGlobal := by
  have h := congrArg (fun x : State => x.hif.irqGlobal) (ringPush_apart i e s); exact h
@[simp] theorem ringPush_hif_aper (i : Nat) (e : List Byte) (s : State) : (ringPush i e s).hif.aper = s.hif.aper := by
  have h := congrArg (fun x : State => x.hif.aper) (ringPush_apart i e s); exact h
@[simp] theorem ringPush_hif_bulk (i : Nat) (e : List Byte) (s : State) : (ringPush i e s).hif.bulk = s.hif.bulk := by
  have h := congrArg (fun x : State => x.hif.bulk) (ringPush_apart i e s); exact h
@[simp] theorem ringPush_hif_evRing (i : Nat) (e : List Byte) (s : State) : (ringPush i e s).hif.evRing = s.hif.evRing := by
  have h := congrArg (fun x : State => x.hif.evRing) (ringPush_apart i e s); exact h
@[simp] theorem ringPush_hif_evRingEn (i : Nat) (e : List Byte) (s : State) : (ringPush i e s).hif.evRingEn = s.hif.evRingEn := by
  have h := congrArg (fun x : State => x.hif.evRingEn) (ringPush_apart i e s); exact h
@[simp] theorem ringPush_hif_msixMask (i : Nat) (e : List Byte) (s : State) : (ringPush i e s).hif.msixMask = s.hif.msixMask := by
  have h := congrArg (fun x : State => x.hif.msixMask) (ringPush_apart i e s); exact h

@[simp] theorem ringPushReserved_stalls (i : Nat) (e : List Byte) (s : State) : (ringPushReserved i e s).stalls = s.stalls := by
  have h := congrArg (fun x : State => x.stalls) (ringPushReserved_apart i e s); exact h
@[simp] theorem ringPushReserved_tdw (i : Nat) (e : List Byte) (s : State) : (ringPushReserved i e s).tdw = s.tdw := by
  have h := congrArg (fun x : State => x.tdw) (ringPushReserved_apart i e s); exact h
@[simp] theorem ringPushReserved_psr (i : Nat) (e : List Byte) (s : State) : (ringPushReserved i e s).psr = s.psr := by
  have h := congrArg (fun x : State => x.psr) (ringPushReserved_apart i e s); exact h
@[simp] theorem ringPushReserved_squ (i : Nat) (e : List Byte) (s : State) : (ringPushReserved i e s).squ = s.squ := by
  have h := congrArg (fun x : State => x.squ) (ringPushReserved_apart i e s); exact h
@[simp] theorem ringPushReserved_lge (i : Nat) (e : List Byte) (s : State) : (ringPushReserved i e s).lge = s.lge := by
  have h := congrArg (fun x : State => x.lge) (ringPushReserved_apart i e s); exact h
@[simp] theorem ringPushReserved_xl (i : Nat) (e : List Byte) (s : State) : (ringPushReserved i e s).xl = s.xl := by
  have h := congrArg (fun x : State => x.xl) (ringPushReserved_apart i e s); exact h
@[simp] theorem ringPushReserved_seq (i : Nat) (e : List Byte) (s : State) : (ringPushReserved i e s).seq = s.seq := by
  have h := congrArg (fun x : State => x.seq) (ringPushReserved_apart i e s); exact h
@[simp] theorem ringPushReserved_tsl (i : Nat) (e : List Byte) (s : State) : (ringPushReserved i e s).tsl = s.tsl := by
  have h := congrArg (fun x : State => x.tsl) (ringPushReserved_apart i e s); exact h
@[simp] theorem ringPushReserved_hms (i : Nat) (e : List Byte) (s : State) : (ringPushReserved i e s).hms = s.hms := by
  have h := congrArg (fun x : State => x.hms) (ringPushReserved_apart i e s); exact h
@[simp] theorem ringPushReserved_lms (i : Nat) (e : List Byte) (s : State) : (ringPushReserved i e s).lms = s.lms := by
  have h := congrArg (fun x : State => x.lms) (ringPushReserved_apart i e s); exact h
theorem ringPushReserved_regions (i : Nat) (e : List Byte) (s : State) :
    (ringPushReserved i e s).regions.map (fun r => { r with stale := false }) = s.regions.map (fun r => { r with stale := false }) := by
  have h := congrArg (fun x : State => x.regions) (ringPushReserved_apart i e s); exact h
@[simp] theorem ringPushReserved_ole (i : Nat) (e : List Byte) (s : State) : (ringPushReserved i e s).ole = s.ole := by
  have h := congrArg (fun x : State => x.ole) (ringPushReserved_apart i e s); exact h
@[simp] theorem ringPushReserved_cal (i : Nat) (e : List Byte) (s : State) : (ringPushReserved i e s).cal = s.cal := by
  have h := congrArg (fun x : State => x.cal) (ringPushReserved_apart i e s); exact h
@[simp] theorem ringPushReserved_cls (i : Nat) (e : List Byte) (s : State) : (ringPushReserved i e s).cls = s.cls := by
  have h := congrArg (fun x : State => x.cls) (ringPushReserved_apart i e s); exact h
@[simp] theorem ringPushReserved_tps (i : Nat) (e : List Byte) (s : State) : (ringPushReserved i e s).tps = s.tps := by
  have h := congrArg (fun x : State => x.tps) (ringPushReserved_apart i e s); exact h
@[simp] theorem ringPushReserved_fresh (i : Nat) (e : List Byte) (s : State) : (ringPushReserved i e s).fresh = s.fresh := by
  have h := congrArg (fun x : State => x.fresh) (ringPushReserved_apart i e s); exact h
@[simp] theorem ringPushReserved_pending (i : Nat) (e : List Byte) (s : State) : (ringPushReserved i e s).pending = s.pending := by
  have h := congrArg (fun x : State => x.pending) (ringPushReserved_apart i e s); exact h
@[simp] theorem ringPushReserved_msc_strapPcieOff (i : Nat) (e : List Byte) (s : State) : (ringPushReserved i e s).msc.strapPcieOff = s.msc.strapPcieOff := by
  have h := congrArg (fun x : State => x.msc.strapPcieOff) (ringPushReserved_apart i e s); exact h
@[simp] theorem ringPushReserved_msc_mode (i : Nat) (e : List Byte) (s : State) : (ringPushReserved i e s).msc.mode = s.msc.mode := by
  have h := congrArg (fun x : State => x.msc.mode) (ringPushReserved_apart i e s); exact h
@[simp] theorem ringPushReserved_msc_running (i : Nat) (e : List Byte) (s : State) : (ringPushReserved i e s).msc.running = s.msc.running := by
  have h := congrArg (fun x : State => x.msc.running) (ringPushReserved_apart i e s); exact h
@[simp] theorem ringPushReserved_msc_resetting (i : Nat) (e : List Byte) (s : State) : (ringPushReserved i e s).msc.resetting = s.msc.resetting := by
  have h := congrArg (fun x : State => x.msc.resetting) (ringPushReserved_apart i e s); exact h
@[simp] theorem ringPushReserved_msc_waiting (i : Nat) (e : List Byte) (s : State) : (ringPushReserved i e s).msc.waiting = s.msc.waiting := by
  have h := congrArg (fun x : State => x.msc.waiting) (ringPushReserved_apart i e s); exact h
@[simp] theorem ringPushReserved_msc_action (i : Nat) (e : List Byte) (s : State) : (ringPushReserved i e s).msc.action = s.msc.action := by
  have h := congrArg (fun x : State => x.msc.action) (ringPushReserved_apart i e s); exact h
@[simp] theorem ringPushReserved_msc_update (i : Nat) (e : List Byte) (s : State) : (ringPushReserved i e s).msc.update = s.msc.update := by
  have h := congrArg (fun x : State => x.msc.update) (ringPushReserved_apart i e s); exact h
@[simp] theorem ringPushReserved_msc_held (i : Nat) (e : List Byte) (s : State) : (ringPushReserved i e s).msc.held = s.msc.held := by
  have h := congrArg (fun x : State => x.msc.held) (ringPushReserved_apart i e s); exact h
@[simp] theorem ringPushReserved_hif_wins (i : Nat) (e : List Byte) (s : State) : (ringPushReserved i e s).hif.wins = s.hif.wins := by
  have h := congrArg (fun x : State => x.hif.wins) (ringPushReserved_apart i e s); exact h
@[simp] theorem ringPushReserved_hif_irqEn (i : Nat) (e : List Byte) (s : State) : (ringPushReserved i e s).hif.irqEn = s.hif.irqEn := by
  have h := congrArg (fun x : State => x.hif.irqEn) (ringPushReserved_apart i e s); exact h
@[simp] theorem ringPushReserved_hif_irqVec (i : Nat) (e : List Byte) (s : State) : (ringPushReserved i e s).hif.irqVec = s.hif.irqVec := by
  have h := congrArg (fun x : State => x.hif.irqVec) (ringPushReserved_apart i e s); exact h
@[simp] theorem ringPushReserved_hif_irqGlobal (i : Nat) (e : List Byte) (s : State) : (ringPushReserved i e s).hif.irqGlobal = s.hif.irqGlobal := by
  have h := congrArg (fun x : State => x.hif.irqGlobal) (ringPushReserved_apart i e s); exact h
@[simp] theorem ringPushReserved_hif_aper (i : Nat) (e : List Byte) (s : State) : (ringPushReserved i e s).hif.aper = s.hif.aper := by
  have h := congrArg (fun x : State => x.hif.aper) (ringPushReserved_apart i e s); exact h
@[simp] theorem ringPushReserved_hif_bulk (i : Nat) (e : List Byte) (s : State) : (ringPushReserved i e s).hif.bulk = s.hif.bulk := by
  have h := congrArg (fun x : State => x.hif.bulk) (ringPushReserved_apart i e s); exact h
@[simp] theorem ringPushReserved_hif_evRing (i : Nat) (e : List Byte) (s : State) : (ringPushReserved i e s).hif.evRing = s.hif.evRing := by
  have h := congrArg (fun x : State => x.hif.evRing) (ringPushReserved_apart i e s); exact h
@[simp] theorem ringPushReserved_hif_evRingEn (i : Nat) (e : List Byte) (s : State) : (ringPushReserved i e s).hif.evRingEn = s.hif.evRingEn := by
  have h := congrArg (fun x : State => x.hif.evRingEn) (ringPushReserved_apart i e s); exact h
@[simp] theorem ringPushReserved_hif_msixMask (i : Nat) (e : List Byte) (s : State) : (ringPushReserved i e s).hif.msixMask = s.hif.msixMask := by
  have h := congrArg (fun x : State => x.hif.msixMask) (ringPushReserved_apart i e s); exact h

end Sys2Proof.Machine
end

