-- ==== Sys2Proof/Laws/Memory.lean ====
section
/-! SUPPORT. Memory as cells in canonical form: reads after writes, and that every operation keeps the form. -/

namespace Sys2Proof.Machine

/-! ### The canonical form -/

/-- Every cell lies above `lo`, rising, and none holds 0x00. -/
def Memory.Above (lo : Nat) : List Host.Cell → Prop
  | [] => True
  | (a, v) :: r => lo ≤ a ∧ v ≠ 0 ∧ Memory.Above (a + 1) r

theorem Memory.above_mono {lo hi : Nat} (h : lo ≤ hi) : ∀ {m : List Host.Cell}, Memory.Above hi m → Memory.Above lo m
  | [], _ => trivial
  | (_, _) :: _, ⟨a, b, c⟩ => ⟨Nat.le_trans h a, b, c⟩

theorem Memory.wf_iff : ∀ m : List Host.Cell, Memory.wf m = true ↔ Memory.Above 0 m
  | [] => by simp [Memory.wf, Memory.Above]
  | [(a, v)] => by simp [Memory.wf, Memory.Above]
  | (a, v) :: (b, w) :: r => by
    rw [Memory.wf, Bool.and_eq_true, Bool.and_eq_true, Memory.wf_iff ((b, w) :: r)]
    simp only [Memory.Above, bne_iff_ne, ne_eq, decide_eq_true_eq, Nat.zero_le, true_and]
    constructor
    · rintro ⟨⟨h1, h2⟩, h3, h4⟩; exact ⟨h1, h2, h3, h4⟩
    · rintro ⟨h1, h2, h3, h4⟩; exact ⟨⟨h1, h2⟩, h3, h4⟩

theorem Memory.above_set (a : Nat) (v : Byte) : ∀ (m : List Host.Cell) (lo : Nat), lo ≤ a → Memory.Above lo m → Memory.Above lo (Memory.set a v m)
  | [], lo, ha, _ => by unfold Memory.set; split <;> simp_all [Memory.Above]
  | (b, w) :: r, lo, ha, ⟨h1, h2, h3⟩ => by
    unfold Memory.set
    split
    · split
      · exact ⟨h1, h2, h3⟩
      · refine ⟨ha, ‹_›, ?_, h2, h3⟩; omega
    · split
      · subst_vars
        split
        · exact Memory.above_mono (by omega) h3
        · exact ⟨h1, ‹_›, h3⟩
      · exact ⟨h1, h2, Memory.above_set a v r (b + 1) (by omega) h3⟩

/-- Writing a byte keeps the form. -/
theorem Memory.wf_set (a : Nat) (v : Byte) (m : List Host.Cell) (h : Memory.wf m = true) : Memory.wf (Memory.set a v m) = true :=
  (Memory.wf_iff _).2 (Memory.above_set a v m 0 (Nat.zero_le _) ((Memory.wf_iff _).1 h))

theorem Memory.above_filter (p : Host.Cell → Bool) : ∀ (m : List Host.Cell) (lo : Nat), Memory.Above lo m → Memory.Above lo (m.filter p)
  | [], _, _ => trivial
  | (a, v) :: r, lo, ⟨h1, h2, h3⟩ => by
    have h4 := Memory.above_filter p r (a + 1) h3
    rw [List.filter_cons]; split
    · exact ⟨h1, h2, h4⟩
    · exact Memory.above_mono (by omega) h4

/-- Losing cells keeps the form. -/
theorem Memory.wf_filter (p : Host.Cell → Bool) (m : List Host.Cell) (h : Memory.wf m = true) : Memory.wf (m.filter p) = true :=
  (Memory.wf_iff _).2 (Memory.above_filter p m 0 ((Memory.wf_iff _).1 h))

theorem Memory.wf_lose (lo hi : Nat) (m : List Host.Cell) (h : Memory.wf m = true) : Memory.wf (Memory.lose lo hi m) = true :=
  Memory.wf_filter _ m h

/-! ### Reads after writes -/

theorem Memory.get_above : ∀ (m : List Host.Cell) (lo a : Nat), a < lo → Memory.Above lo m → Memory.get a m = 0
  | [], _, _, _, _ => rfl
  | (b, w) :: r, lo, a, ha, ⟨h1, _, h3⟩ => by
    rw [Memory.get, if_neg (by omega)]; exact Memory.get_above r (b + 1) a (by omega) h3

theorem Memory.get_set_above (a b : Nat) (v : Byte) : ∀ (m : List Host.Cell) (lo : Nat), Memory.Above lo m →
    Memory.get b (Memory.set a v m) = if b = a then v else Memory.get b m
  | [], _, _ => by
    unfold Memory.set
    split
    · rename_i hv; rw [hv]; simp [Memory.get]
    · by_cases hb : b = a
      · subst hb; simp [Memory.get]
      · rw [if_neg hb, Memory.get, Memory.get]; exact if_neg (fun h => hb h.symm)
  | (c, w) :: r, lo, ⟨h1, h2, h3⟩ => by
    unfold Memory.set
    split
    · rename_i hac
      split
      · rename_i hv
        by_cases hb : b = a
        · subst hb; rw [if_pos rfl, hv, Memory.get, if_neg (by omega)]
          exact Memory.get_above r (c + 1) b (by omega) h3
        · rw [if_neg hb]
      · by_cases hb : b = a
        · subst hb; simp [Memory.get]
        · rw [if_neg hb, Memory.get, if_neg (fun h => hb h.symm)]
    · split
      · rename_i hca
        subst hca
        split
        · rename_i hv
          by_cases hb : b = a
          · subst hb; rw [if_pos rfl, hv]; exact Memory.get_above r (b + 1) b (by omega) h3
          · rw [if_neg hb, Memory.get, if_neg (fun h => hb h.symm)]
        · by_cases hb : b = a
          · subst hb; simp [Memory.get]
          · rw [if_neg hb, Memory.get, if_neg (fun h => hb h.symm), Memory.get, if_neg (fun h => hb h.symm)]
      · by_cases hb : c = b
        · subst hb; rw [if_neg (by omega)]; simp [Memory.get]
        · rw [Memory.get, if_neg hb, Memory.get_set_above a b v r (c + 1) h3, Memory.get, if_neg hb]

/-- A byte read after a write: the byte written at its key, what was there at every other. -/
theorem Memory.get_set (a b : Nat) (v : Byte) (m : List Host.Cell) (h : Memory.wf m = true) :
    Memory.get b (Memory.set a v m) = if b = a then v else Memory.get b m :=
  Memory.get_set_above a b v m 0 ((Memory.wf_iff _).1 h)

/-! ### Every operation keeps the form -/

/-- The outcome, if it is a next state, has memories in canonical form. -/
def KeepsOut : Out → Prop
  | .next t => t.memoryWf
  | _ => True

/-- Two lists of cells in canonical form. -/
def CellsWf (m h : List Host.Cell) : Prop := Memory.wf m = true ∧ Memory.wf h = true

theorem wf_next {t : State} (h : t.memoryWf) : KeepsOut (.next t) := h
theorem cells_of {t : State} (h : t.memoryWf) : CellsWf t.mem t.hostMem := h
theorem wf_ite {c : Prop} [Decidable c] {a b : State} (ha : a.memoryWf) (hb : b.memoryWf) : (if c then a else b).memoryWf := by
  split <;> assumption
theorem wf_iteOut {c : Prop} [Decidable c] {a b : Out} (ha : KeepsOut a) (hb : KeepsOut b) : KeepsOut (if c then a else b) := by
  split <;> assumption
theorem wf_iteSnd {α : Type} {c : Prop} [Decidable c] {a b : α × State} (ha : a.2.memoryWf) (hb : b.2.memoryWf) :
    (if c then a else b).2.memoryWf := by
  split <;> assumption
theorem wf_iteThird {α β : Type} {c : Prop} [Decidable c] {a b : α × β × State} (ha : a.2.2.memoryWf) (hb : b.2.2.memoryWf) :
    (if c then a else b).2.2.memoryWf := by
  split <;> assumption
theorem wf_iteFourth {α β γ : Type} {c : Prop} [Decidable c] {a b : α × β × γ × State} (ha : a.2.2.2.memoryWf) (hb : b.2.2.2.memoryWf) :
    (if c then a else b).2.2.2.memoryWf := by
  split <;> assumption
theorem wf_pair {α : Type} {a : α} {s : State} (h : s.memoryWf) : (a, s).2.memoryWf := h
/-- A state built by a record update: its cells decide. -/
theorem wf_mk {s : State} (h : CellsWf s.mem s.hostMem) : s.memoryWf := h

theorem keeps_each {α : Type} (l : List α) (f : α → State → State) (hf : ∀ a s, State.memoryWf s → (f a s).memoryWf) (s : State)
    (hs : s.memoryWf) : (each l f s).memoryWf := by
  induction l generalizing s with
  | nil => exact hs
  | cons a r ih => exact ih _ (hf a s hs)

theorem keeps_writeByte (a : Nat) (v : Byte) (s : State) (hs : s.memoryWf) : (writeByte a v s).memoryWf := by
  unfold writeByte
  split
  · exact ⟨Memory.wf_set _ _ _ hs.1, hs.2⟩
  · exact ⟨hs.1, Memory.wf_set _ _ _ hs.2⟩
  · exact hs

theorem keeps_writeBytes (a : Nat) (bs : List Byte) (s : State) (hs : s.memoryWf) : (writeBytes a bs s).memoryWf := by
  induction bs generalizing a s with
  | nil => exact hs
  | cons b r ih => exact ih _ _ (keeps_writeByte a b s hs)

end Sys2Proof.Machine
end

