-- ==== Sys2Proof/Laws/KeepsOps.lean ====
section
/-! SUPPORT. Both memories stay in canonical form: one lemma per operation of operations, flags, event recording, operands, stalls and runs. -/

namespace Sys2Proof.Machine

set_option linter.all false

/-! ### Machine/Ops.lean -/

theorem keeps_emit (o : Output) (s : State) (hs : s.memoryWf) :
    (emit o s).memoryWf := by
  unfold emit
  try dsimp only
  repeat' first
    | with_reducible first
      | exact hs | assumption | apply wf_ite | (apply wf_mk; dsimp only; apply cells_of)
    | split | intro _ _ _ | intro _ _ | intro _

theorem keeps_sendMessage (f : Frame) (s : State) (hs : s.memoryWf) :
    (sendMessage f s).memoryWf := by
  unfold sendMessage
  try dsimp only
  repeat' first
    | with_reducible first
      | exact hs | assumption | apply wf_ite | (apply wf_mk; dsimp only; apply cells_of)
    | split | intro _ _ _ | intro _ _ | intro _

theorem keeps_drawFree (s : State) (hs : s.memoryWf) :
    (drawFree s).2.memoryWf := by
  unfold drawFree
  try dsimp only
  repeat' first
    | with_reducible first
      | exact hs | assumption | apply wf_ite | apply wf_iteSnd | (apply wf_mk; dsimp only; apply cells_of)
    | split | intro _ _ _ | intro _ _ | intro _

theorem keeps_elapse (d : Nat) (s : State) (hs : s.memoryWf) :
    (elapse d s).memoryWf := by
  unfold elapse
  try dsimp only
  repeat' first
    | with_reducible first
      | exact hs | assumption | apply wf_ite | (apply wf_mk; dsimp only; apply cells_of)
    | split | intro _ _ _ | intro _ _ | intro _

theorem keeps_tick (s : State) (hs : s.memoryWf) :
    (tick s).memoryWf := by
  unfold tick
  try dsimp only
  repeat' first
    | with_reducible first
      | exact hs | assumption | apply wf_ite | apply keeps_elapse | (apply wf_mk; dsimp only; apply cells_of)
    | split | intro _ _ _ | intro _ _ | intro _

theorem keeps_advanceTo (t : Nat) (s : State) (hs : s.memoryWf) :
    (advanceTo t s).memoryWf := by
  unfold advanceTo
  try dsimp only
  repeat' first
    | with_reducible first
      | exact hs | assumption | apply wf_ite | apply keeps_elapse | (apply wf_mk; dsimp only; apply cells_of)
    | split | intro _ _ _ | intro _ _ | intro _

theorem keeps_staleRegions (a n : Nat) (s : State) (hs : s.memoryWf) :
    (staleRegions a n s).memoryWf := by
  unfold staleRegions
  try dsimp only
  repeat' first
    | with_reducible first
      | exact hs | assumption | apply wf_ite | (apply wf_mk; dsimp only; apply cells_of)
    | split | intro _ _ _ | intro _ _ | intro _

theorem keeps_storeTask (a : Nat) (bs : List Byte) (s : State) (hs : s.memoryWf) :
    (storeTask a bs s).memoryWf := by
  unfold storeTask
  try dsimp only
  repeat' first
    | with_reducible first
      | exact hs | assumption | apply wf_ite | apply keeps_staleRegions | apply keeps_writeBytes | (apply wf_mk; dsimp only; apply cells_of)
    | split | intro _ _ _ | intro _ _ | intro _

theorem keeps_setRing (i : Nat) (r : Ring) (s : State) (hs : s.memoryWf) :
    (setRing i r s).memoryWf := by
  unfold setRing
  try dsimp only
  repeat' first
    | with_reducible first
      | exact hs | assumption | apply wf_ite | (apply wf_mk; dsimp only; apply cells_of)
    | split | intro _ _ _ | intro _ _ | intro _

theorem keeps_modRing (i : Nat) (f : Ring → Ring) (s : State) (hs : s.memoryWf) :
    (modRing i f s).memoryWf := by
  unfold modRing
  try dsimp only
  repeat' first
    | with_reducible first
      | exact hs | assumption | apply wf_ite | apply keeps_setRing | (apply wf_mk; dsimp only; apply cells_of)
    | split | intro _ _ _ | intro _ _ | intro _

theorem keeps_modGraph (slot : Nat) (f : Graph → Graph) (s : State) (hs : s.memoryWf) :
    (modGraph slot f s).memoryWf := by
  unfold modGraph
  try dsimp only
  repeat' first
    | with_reducible first
      | exact hs | assumption | apply wf_ite | (apply wf_mk; dsimp only; apply cells_of)
    | split | intro _ _ _ | intro _ _ | intro _

theorem keeps_modStall (g : Nat) (f : Stall → Stall) (s : State) (hs : s.memoryWf) :
    (modStall g f s).memoryWf := by
  unfold modStall
  try dsimp only
  repeat' first
    | with_reducible first
      | exact hs | assumption | apply wf_ite | (apply wf_mk; dsimp only; apply cells_of)
    | split | intro _ _ _ | intro _ _ | intro _

/-! ### Machine/Flags.lean -/

theorem keeps_sendVector (v : Nat) (s : State) (hs : s.memoryWf) :
    (sendVector v s).memoryWf := by
  unfold sendVector
  try dsimp only
  repeat' first
    | with_reducible first
      | exact hs | assumption | apply wf_ite | apply keeps_emit | (apply wf_mk; dsimp only; apply cells_of)
    | split | intro _ _ _ | intro _ _ | intro _

theorem keeps_irqIfPending (c : Src) (s : State) (hs : s.memoryWf) :
    (irqIfPending c s).memoryWf := by
  unfold irqIfPending
  try dsimp only
  repeat' first
    | with_reducible first
      | exact hs | assumption | apply wf_ite | apply keeps_sendVector | (apply wf_mk; dsimp only; apply cells_of)
    | split | intro _ _ _ | intro _ _ | intro _

theorem keeps_setBit (c : Src) (b : Nat) (s : State) (hs : s.memoryWf) :
    (setBit c b s).memoryWf := by
  unfold setBit
  try dsimp only
  repeat' first
    | with_reducible first
      | exact hs | assumption | apply wf_ite | apply keeps_irqIfPending | (apply wf_mk; dsimp only; apply cells_of)
    | split | intro _ _ _ | intro _ _ | intro _

theorem keeps_journalCopy (head tail : List Byte) (copy : Nat) (s : State) (hs : s.memoryWf) :
    (journalCopy head tail copy s).memoryWf := by
  unfold journalCopy
  try dsimp only
  repeat' first
    | with_reducible first
      | exact hs | assumption | apply wf_ite | (apply wf_mk; dsimp only; apply cells_of)
    | split | intro _ _ _ | intro _ _ | intro _

theorem keeps_journalOne (head tail : List Byte) (s : State) (hs : s.memoryWf) :
    (journalOne head tail s).memoryWf := by
  unfold journalOne
  try dsimp only
  repeat' first
    | with_reducible first
      | exact hs | assumption | apply wf_ite | apply keeps_journalCopy | (apply wf_mk; dsimp only; apply cells_of)
    | split | intro _ _ _ | intro _ _ | intro _

theorem keeps_journalTwo (head tail : List Byte) (s : State) (hs : s.memoryWf) :
    (journalTwo head tail s).memoryWf := by
  unfold journalTwo
  try dsimp only
  repeat' first
    | with_reducible first
      | exact hs | assumption | apply wf_ite | apply keeps_journalCopy | (apply wf_mk; dsimp only; apply cells_of)
    | split | intro _ _ _ | intro _ _ | intro _

theorem keeps_journalEvent (number : Nat) (head tail : List Byte) (s : State) (hs : s.memoryWf) :
    (journalEvent number head tail s).memoryWf := by
  unfold journalEvent
  try dsimp only
  repeat' first
    | with_reducible first
      | exact hs | assumption | apply wf_ite | apply keeps_journalOne | (apply wf_mk; dsimp only; apply cells_of)
    | split | intro _ _ _ | intro _ _ | intro _

theorem keeps_ringSignal (i : Nat) (s : State) (hs : s.memoryWf) :
    (ringSignal i s).memoryWf := by
  unfold ringSignal
  try dsimp only
  repeat' first
    | with_reducible first
      | exact hs | assumption | apply wf_ite | apply keeps_sendVector | apply keeps_setRing | (apply wf_mk; dsimp only; apply cells_of)
    | split | intro _ _ _ | intro _ _ | intro _

theorem keeps_ringStore (i : Nat) (e : List Byte) (s : State) (hs : s.memoryWf) :
    (ringStore i e s).memoryWf := by
  unfold ringStore
  try dsimp only
  repeat' first
    | with_reducible first
      | exact hs | assumption | apply wf_ite | apply keeps_modRing | apply keeps_ringSignal | apply keeps_storeTask
      | (apply wf_mk; dsimp only; apply cells_of)
    | split | intro _ _ _ | intro _ _ | intro _

theorem keeps_faultRing (i : Nat) (cause : BitVec 3) (s : State) (hs : s.memoryWf) :
    (faultRing i cause s).memoryWf := by
  unfold faultRing
  try dsimp only
  repeat' first
    | with_reducible first
      | exact hs | assumption | apply wf_ite | apply keeps_modRing | (apply wf_mk; dsimp only; apply cells_of)
    | split | intro _ _ _ | intro _ _ | intro _

theorem keeps_ringLost (i : Nat) (s : State) (hs : s.memoryWf) :
    (ringLost i s).memoryWf := by
  unfold ringLost
  try dsimp only
  repeat' first
    | with_reducible first
      | exact hs | assumption | apply wf_ite | apply keeps_modRing | (apply wf_mk; dsimp only; apply cells_of)
    | split | intro _ _ _ | intro _ _ | intro _

theorem keeps_eventLost (i number : Nat) (s : State) (hs : s.memoryWf) :
    (eventLost i number s).memoryWf := by
  unfold eventLost
  try dsimp only
  repeat' first
    | with_reducible first
      | exact hs | assumption | apply wf_ite | apply keeps_modRing | apply keeps_setBit | (apply wf_mk; dsimp only; apply cells_of)
    | split | intro _ _ _ | intro _ _ | intro _

theorem keeps_writeGap (i : Nat) (s : State) (hs : s.memoryWf) :
    (writeGap i s).memoryWf := by
  unfold writeGap
  try dsimp only
  repeat' first
    | with_reducible first
      | exact hs | assumption | apply wf_ite | apply keeps_ringStore | apply keeps_setRing | (apply wf_mk; dsimp only; apply cells_of)
    | split | intro _ _ _ | intro _ _ | intro _

theorem keeps_eventCopies (c : Src) (e : List Byte) (s : State) (hs : s.memoryWf) :
    (eventCopies c e s).memoryWf := by
  unfold eventCopies
  try dsimp only
  repeat' first
    | with_reducible first
      | exact hs | assumption | apply wf_ite | apply keeps_each | apply keeps_sendMessage | (apply wf_mk; dsimp only; apply cells_of)
    | split | intro _ _ _ | intro _ _ | intro _

theorem keeps_putEvent (ring number : Nat) (e : List Byte) (fault : State → State) (s : State) (h_fault : ∀ s, State.memoryWf s → (fault s).memoryWf) (hs : s.memoryWf) :
    (putEvent ring number e fault s).memoryWf := by
  unfold putEvent
  try dsimp only
  repeat' first
    | with_reducible first
      | exact hs | assumption | apply wf_ite | apply keeps_eventLost | apply keeps_faultRing | apply keeps_ringLost | apply keeps_ringStore
      | apply keeps_writeGap | apply h_fault | (apply wf_mk; dsimp only; apply cells_of)
    | split | intro _ _ _ | intro _ _ | intro _

theorem keeps_eventRings (graphRing : Option Nat) (put : Nat → State → State) (s : State) (h_put : ∀ a s, State.memoryWf s → (put a s).memoryWf) (hs : s.memoryWf) :
    (eventRings graphRing put s).memoryWf := by
  unfold eventRings
  try dsimp only
  repeat' first
    | with_reducible first
      | exact hs | assumption | apply wf_ite | apply h_put | (apply wf_mk; dsimp only; apply cells_of)
    | split | intro _ _ _ | intro _ _ | intro _

theorem keeps_journalRecord (c : Src) (b number : Nat) (e : List Byte) (i : EvInfo) (s : State) (hs : s.memoryWf) :
    (journalRecord c b number e i s).memoryWf := by
  unfold journalRecord
  try dsimp only
  repeat' first
    | with_reducible first
      | exact hs | assumption | apply wf_ite | apply keeps_each | apply keeps_journalEvent | (apply wf_mk; dsimp only; apply cells_of)
    | split | intro _ _ _ | intro _ _ | intro _

theorem keeps_writeRecord (c : Src) (b : Nat) (i : EvInfo) (fault : Nat → State → State) (s : State) (h_fault : ∀ a s, State.memoryWf s → (fault a s).memoryWf) (hs : s.memoryWf) :
    (writeRecord c b i fault s).memoryWf := by
  unfold writeRecord
  try dsimp only
  repeat' first
    | with_reducible first
      | exact hs | assumption | apply wf_ite | apply keeps_eventCopies | apply keeps_eventRings | apply keeps_journalRecord
      | apply keeps_putEvent | apply h_fault | (apply wf_mk; dsimp only; apply cells_of)
    | split | intro _ _ _ | intro _ _ | intro _

theorem keeps_raiseWith (fault : Nat → State → State) (c : Src) (b : Nat) (i : EvInfo) (s : State) (h_fault : ∀ a s, State.memoryWf s → (fault a s).memoryWf) (hs : s.memoryWf) :
    (raiseWith fault c b i s).memoryWf := by
  unfold raiseWith
  try dsimp only
  repeat' first
    | with_reducible first
      | exact hs | assumption | apply wf_ite | apply keeps_setBit | apply keeps_writeRecord | apply h_fault
      | (apply wf_mk; dsimp only; apply cells_of)
    | split | intro _ _ _ | intro _ _ | intro _

theorem keeps_raiseFuel (f : Nat) (c : Src) (b : Nat) (i : EvInfo) (s : State) (hs : s.memoryWf) : (raiseFuel f c b i s).memoryWf := by
  induction f generalizing c b i s with
  | zero => exact keeps_raiseWith _ c b i s (fun _ s h => keeps_setBit _ _ s h) hs
  | succ f ih => exact keeps_raiseWith _ c b i s (fun _ s h => ih _ _ _ s h) hs

theorem keeps_raise (c : Src) (b : Nat) (i : EvInfo) (s : State) (hs : s.memoryWf) : (raise c b i s).memoryWf :=
  keeps_raiseFuel 2 c b i s hs

theorem keeps_ringPush (i : Nat) (e : List Byte) (s : State) (hs : s.memoryWf) :
    (ringPush i e s).memoryWf := by
  unfold ringPush
  try dsimp only
  repeat' first
    | with_reducible first
      | exact hs | assumption | apply wf_ite | apply keeps_faultRing | apply keeps_raise | apply keeps_ringLost | apply keeps_ringStore
      | (apply wf_mk; dsimp only; apply cells_of)
    | split | intro _ _ _ | intro _ _ | intro _

theorem keeps_ringPushReserved (i : Nat) (e : List Byte) (s : State) (hs : s.memoryWf) :
    (ringPushReserved i e s).memoryWf := by
  unfold ringPushReserved
  try dsimp only
  repeat' first
    | with_reducible first
      | exact hs | assumption | apply wf_ite | apply keeps_modRing | apply keeps_ringPush | (apply wf_mk; dsimp only; apply cells_of)
    | split | intro _ _ _ | intro _ _ | intro _

theorem keeps_telemetryPush (i : Nat) (es : List (List Byte)) (s : State) (hs : s.memoryWf) :
    (telemetryPush i es s).memoryWf := by
  unfold telemetryPush
  try dsimp only
  repeat' first
    | with_reducible first
      | exact hs | assumption | apply wf_ite | apply keeps_each | apply keeps_raise | apply keeps_ringPush
      | (apply wf_mk; dsimp only; apply cells_of)
    | split | intro _ _ _ | intro _ _ | intro _

/-! ### Machine/Operands.lean -/

theorem keeps_taskByteOut (p : Nat) (b : Byte) (s : State) (hs : s.memoryWf) :
    (taskByteOut p b s).memoryWf := by
  unfold taskByteOut
  try dsimp only
  repeat' first
    | with_reducible first
      | exact hs | assumption | apply wf_ite | apply keeps_writeByte | (apply wf_mk; dsimp only; apply cells_of)
    | split | intro _ _ _ | intro _ _ | intro _

theorem keeps_taskByteStale (p : Nat) (b : Byte) (s : State) (hs : s.memoryWf) :
    (taskByteStale p b s).memoryWf := by
  unfold taskByteStale
  try dsimp only
  repeat' first
    | with_reducible first
      | exact hs | assumption | apply wf_ite | apply keeps_staleRegions | apply keeps_taskByteOut
      | (apply wf_mk; dsimp only; apply cells_of)
    | split | intro _ _ _ | intro _ _ | intro _

theorem keeps_taskWrite (g : Graph) (a : Nat) (bs : List Byte) (s : State) (hs : s.memoryWf) : (taskWrite g a bs s).memoryWf := by
  induction bs generalizing a s with
  | nil => exact hs
  | cons b r ih =>
    refine ih _ _ ?_
    split
    · exact keeps_taskByteStale _ _ s hs
    · exact hs

/-! ### Machine/Stalls.lean -/

theorem keeps_pmaEvent (b g : Nat) (detail : List Byte) (s : State) (hs : s.memoryWf) :
    (pmaEvent b g detail s).memoryWf := by
  unfold pmaEvent
  try dsimp only
  repeat' first
    | with_reducible first
      | exact hs | assumption | apply wf_ite | apply keeps_raise | (apply wf_mk; dsimp only; apply cells_of)
    | split | intro _ _ _ | intro _ _ | intro _

theorem keeps_tdwError (b g : Nat) (s : State) (hs : s.memoryWf) :
    (tdwError b g s).memoryWf := by
  unfold tdwError
  try dsimp only
  repeat' first
    | with_reducible first
      | exact hs | assumption | apply wf_ite | apply keeps_raise | (apply wf_mk; dsimp only; apply cells_of)
    | split | intro _ _ _ | intro _ _ | intro _

theorem keeps_enterSuspect (g : Nat) (s : State) (hs : s.memoryWf) :
    (enterSuspect g s).memoryWf := by
  unfold enterSuspect
  try dsimp only
  repeat' first
    | with_reducible first
      | exact hs | assumption | apply wf_ite | apply keeps_modStall | apply keeps_pmaEvent | (apply wf_mk; dsimp only; apply cells_of)
    | split | intro _ _ _ | intro _ _ | intro _

theorem keeps_probeRequest (g : Nat) (s : State) (hs : s.memoryWf) :
    (probeRequest g s).memoryWf := by
  unfold probeRequest
  try dsimp only
  repeat' first
    | with_reducible first
      | exact hs | assumption | apply wf_ite | apply keeps_enterSuspect | apply keeps_raise | (apply wf_mk; dsimp only; apply cells_of)
    | split | intro _ _ _ | intro _ _ | intro _

theorem keeps_mapRequest (mapOut : Bool) (g : Nat) (s : State) (hs : s.memoryWf) :
    (mapRequest mapOut g s).memoryWf := by
  unfold mapRequest
  try dsimp only
  repeat' first
    | with_reducible first
      | exact hs | assumption | apply wf_ite | apply keeps_modStall | apply keeps_probeRequest | (apply wf_mk; dsimp only; apply cells_of)
    | split | intro _ _ _ | intro _ _ | intro _

theorem keeps_dischargeAll (s : State) (hs : s.memoryWf) :
    (dischargeAll s).memoryWf := by
  unfold dischargeAll
  try dsimp only
  repeat' first
    | with_reducible first
      | exact hs | assumption | apply wf_ite | (apply wf_mk; dsimp only; apply cells_of)
    | split | intro _ _ _ | intro _ _ | intro _

theorem keeps_loadAbort (g : Nat) (s : State) (hs : s.memoryWf) :
    (loadAbort g s).memoryWf := by
  unfold loadAbort
  try dsimp only
  repeat' first
    | with_reducible first
      | exact hs | assumption | apply wf_ite | apply keeps_enterSuspect | apply keeps_modStall | apply keeps_tdwError
      | (apply wf_mk; dsimp only; apply cells_of)
    | split | intro _ _ _ | intro _ _ | intro _

theorem keeps_modSubst (l : Nat) (f : Subst → Subst) (s : State) (hs : s.memoryWf) :
    (modSubst l f s).memoryWf := by
  unfold modSubst
  try dsimp only
  repeat' first
    | with_reducible first
      | exact hs | assumption | apply wf_ite | (apply wf_mk; dsimp only; apply cells_of)
    | split | intro _ _ _ | intro _ _ | intro _

theorem keeps_beginSubstHold (l : Nat) (s : State) (hs : s.memoryWf) :
    (beginSubstHold l s).memoryWf := by
  unfold beginSubstHold
  try dsimp only
  repeat' first
    | with_reducible first
      | exact hs | assumption | apply wf_ite | apply keeps_raise | (apply wf_mk; dsimp only; apply cells_of)
    | split | intro _ _ _ | intro _ _ | intro _

theorem keeps_execShadowLoad (l : Nat) (t : Tile) (m : MSet) (abort : Bool) (s : State) (hs : s.memoryWf) :
    KeepsOut (execShadowLoad l t m abort s) := by
  unfold execShadowLoad
  try dsimp only
  repeat' first
    | with_reducible first
      | exact hs | assumption | apply wf_ite | apply wf_iteOut | apply wf_next | apply keeps_loadAbort | apply keeps_modStall
      | apply keeps_modSubst | (apply wf_mk; dsimp only; apply cells_of)
    | split | intro _ _ _ | intro _ _ | intro _

theorem keeps_execShadowLoadComplete (l : Nat) (s : State) (hs : s.memoryWf) :
    KeepsOut (execShadowLoadComplete l s) := by
  unfold execShadowLoadComplete
  try dsimp only
  repeat' first
    | with_reducible first
      | exact hs | assumption | apply wf_ite | apply wf_iteOut | apply wf_next | apply keeps_modStall
      | (apply wf_mk; dsimp only; apply cells_of)
    | split | intro _ _ _ | intro _ _ | intro _

theorem keeps_swapStall (g : Nat) (s : State) (hs : s.memoryWf) :
    (swapStall g s).memoryWf := by
  unfold swapStall
  try dsimp only
  repeat' first
    | with_reducible first
      | exact hs | assumption | apply wf_ite | apply keeps_modStall | apply keeps_tdwError | (apply wf_mk; dsimp only; apply cells_of)
    | split | intro _ _ _ | intro _ _ | intro _

theorem keeps_queueOne (die : Bool) (f : Flight) (s : State) (hs : s.memoryWf) :
    (queueOne die f s).memoryWf := by
  unfold queueOne
  try dsimp only
  repeat' first
    | with_reducible first
      | exact hs | assumption | apply wf_ite | (apply wf_mk; dsimp only; apply cells_of)
    | split | intro _ _ _ | intro _ _ | intro _

theorem keeps_queueReplay (f : Flight) (s : State) (hs : s.memoryWf) :
    (queueReplay f s).memoryWf := by
  unfold queueReplay
  try dsimp only
  repeat' first
    | with_reducible first
      | exact hs | assumption | apply wf_ite | apply keeps_each | apply keeps_queueOne | (apply wf_mk; dsimp only; apply cells_of)
    | split | intro _ _ _ | intro _ _ | intro _

theorem keeps_settleReplays (s : State) (hs : s.memoryWf) :
    (settleReplays s).memoryWf := by
  unfold settleReplays
  try dsimp only
  repeat' first
    | with_reducible first
      | exact hs | assumption | apply wf_ite | apply keeps_each | apply keeps_queueReplay | (apply wf_mk; dsimp only; apply cells_of)
    | split | intro _ _ _ | intro _ _ | intro _

theorem keeps_endSpan (s : State) (hs : s.memoryWf) :
    (endSpan s).memoryWf := by
  unfold endSpan
  try dsimp only
  repeat' first
    | with_reducible first
      | exact hs | assumption | apply wf_ite | apply keeps_each | apply keeps_queueReplay | (apply wf_mk; dsimp only; apply cells_of)
    | split | intro _ _ _ | intro _ _ | intro _

theorem keeps_execSwap (l : Nat) (s : State) (hs : s.memoryWf) :
    KeepsOut (execSwap l s) := by
  unfold execSwap
  try dsimp only
  repeat' first
    | with_reducible first
      | exact hs | assumption | apply wf_ite | apply wf_iteOut | apply wf_next | apply keeps_modSubst | apply keeps_settleReplays
      | apply keeps_swapStall | (apply wf_mk; dsimp only; apply cells_of)
    | split | intro _ _ _ | intro _ _ | intro _

theorem keeps_refreshHold (g : Nat) (shadow : Bool) (s : State) (hs : s.memoryWf) :
    (refreshHold g shadow s).memoryWf := by
  unfold refreshHold
  try dsimp only
  repeat' first
    | with_reducible first
      | exact hs | assumption | apply wf_ite | apply keeps_modStall | (apply wf_mk; dsimp only; apply cells_of)
    | split | intro _ _ _ | intro _ _ | intro _

theorem keeps_execHoldRefresh (l : Nat) (shadow : Bool) (s : State) (hs : s.memoryWf) :
    KeepsOut (execHoldRefresh l shadow s) := by
  unfold execHoldRefresh
  try dsimp only
  repeat' first
    | with_reducible first
      | exact hs | assumption | apply wf_ite | apply wf_iteOut | apply wf_next | apply keeps_refreshHold
      | (apply wf_mk; dsimp only; apply cells_of)
    | split | intro _ _ _ | intro _ _ | intro _

theorem keeps_execRefreshLate (g : Nat) (shadow : Bool) (s : State) (hs : s.memoryWf) :
    KeepsOut (execRefreshLate g shadow s) := by
  unfold execRefreshLate
  try dsimp only
  repeat' first
    | with_reducible first
      | exact hs | assumption | apply wf_ite | apply wf_iteOut | apply wf_next | apply keeps_advanceTo | apply keeps_refreshHold
      | apply keeps_tdwError | (apply wf_mk; dsimp only; apply cells_of)
    | split | intro _ _ _ | intro _ _ | intro _

theorem keeps_settleLine (a k : Nat) (s : State) (hs : s.memoryWf) :
    (settleLine a k s).memoryWf := by
  unfold settleLine
  try dsimp only
  repeat' first
    | with_reducible first
      | exact hs | assumption | apply wf_ite | apply keeps_each | apply keeps_modStall | (apply wf_mk; dsimp only; apply cells_of)
    | split | intro _ _ _ | intro _ _ | intro _

theorem keeps_leaveLine (g : Nat) (s : State) (hs : s.memoryWf) :
    (leaveLine g s).memoryWf := by
  unfold leaveLine
  try dsimp only
  repeat' first
    | with_reducible first
      | exact hs | assumption | apply wf_ite | apply keeps_modStall | apply keeps_settleLine | (apply wf_mk; dsimp only; apply cells_of)
    | split | intro _ _ _ | intro _ _ | intro _

theorem keeps_prepareSpare (o : List ProbeDev) (g : Nat) (l : List Nat) (k : Nat) (s : State) (hs : s.memoryWf) :
    (prepareSpare o g l k s).memoryWf := by
  induction l generalizing k s with
  | nil => exact keeps_leaveLine _ _ (keeps_modStall _ _ s hs)
  | cons h r ih =>
    rw [prepareSpare]
    split
    · exact hs
    · extract_lets st q s1 s2 s3
      have h2 : s2.memoryWf := keeps_modStall _ _ s1 hs
      clear_value s2
      split
      · exact ih _ _ (keeps_modStall _ _ s2 h2)
      · exact keeps_modStall _ _ _ (keeps_leaveLine _ _ (keeps_modStall _ _ s2 h2))

theorem keeps_decideProbe (o : List ProbeDev) (g : Nat) (s : State) (hs : s.memoryWf) :
    (decideProbe o g s).memoryWf := by
  unfold decideProbe
  try dsimp only
  repeat' first
    | with_reducible first
      | exact hs | assumption | apply wf_ite | apply keeps_modStall | apply keeps_pmaEvent | apply keeps_prepareSpare
      | (apply wf_mk; dsimp only; apply cells_of)
    | split | intro _ _ _ | intro _ _ | intro _

theorem keeps_probeAll (o : List ProbeDev) (s : State) (hs : s.memoryWf) :
    (probeAll o s).memoryWf := by
  unfold probeAll
  try dsimp only
  repeat' first
    | with_reducible first
      | exact hs | assumption | apply wf_ite | apply keeps_decideProbe | apply keeps_each | (apply wf_mk; dsimp only; apply cells_of)
    | split | intro _ _ _ | intro _ _ | intro _

theorem keeps_substitute (g l : Nat) (s : State) (hs : s.memoryWf) :
    (substitute g l s).memoryWf := by
  unfold substitute
  try dsimp only
  repeat' first
    | with_reducible first
      | exact hs | assumption | apply wf_ite | apply keeps_raise | (apply wf_mk; dsimp only; apply cells_of)
    | split | intro _ _ _ | intro _ _ | intro _

theorem keeps_buildSubsts (s : State) (hs : s.memoryWf) :
    (buildSubsts s).memoryWf := by
  unfold buildSubsts
  try dsimp only
  repeat' first
    | with_reducible first
      | exact hs | assumption | apply wf_ite | apply keeps_each | (apply wf_mk; dsimp only; apply cells_of)
    | split | intro _ _ _ | intro _ _ | intro _

theorem keeps_retireStall (needed : Bool) (g : Nat) (s : State) (hs : s.memoryWf) :
    (retireStall needed g s).memoryWf := by
  unfold retireStall
  try dsimp only
  repeat' first
    | with_reducible first
      | exact hs | assumption | apply wf_ite | apply keeps_modStall | apply keeps_pmaEvent | apply keeps_substitute
      | (apply wf_mk; dsimp only; apply cells_of)
    | split | intro _ _ _ | intro _ _ | intro _

theorem keeps_applyOutcome (g : Nat) (s : State) (hs : s.memoryWf) : (applyOutcome g s).memoryWf := by
  unfold applyOutcome
  extract_lets st
  with_reducible refine wf_ite (keeps_modStall _ _ s hs) ?_
  split
  · with_reducible exact keeps_modStall _ _ s hs
  · with_reducible exact keeps_pmaEvent _ _ _ _ (keeps_modStall _ _ s hs)
  · split
    · exact hs
    · extract_lets s1 s2 c q s3
      have h1 : s1.memoryWf := keeps_modStall _ _ s hs
      clear_value s1
      have h2 : s2.memoryWf := keeps_modStall _ _ s1 h1
      clear_value s2
      have h3 : s3.memoryWf := h2
      clear_value s3
      with_reducible exact keeps_pmaEvent _ _ _ _ h3
  · with_reducible exact keeps_retireStall _ _ s hs
  · exact hs

theorem keeps_epochCounts (s : State) (hs : s.memoryWf) :
    (epochCounts s).memoryWf := by
  unfold epochCounts
  try dsimp only
  repeat' first
    | with_reducible first
      | exact hs | assumption | apply wf_ite | (apply wf_mk; dsimp only; apply cells_of)
    | split | intro _ _ _ | intro _ _ | intro _

theorem keeps_dropReady (s : State) (hs : s.memoryWf) :
    (dropReady s).memoryWf := by
  unfold dropReady
  try dsimp only
  repeat' first
    | with_reducible first
      | exact hs | assumption | apply wf_ite | (apply wf_mk; dsimp only; apply cells_of)
    | split | intro _ _ _ | intro _ _ | intro _

theorem keeps_spareMapChange (s : State) (hs : s.memoryWf) :
    (spareMapChange s).memoryWf := by
  unfold spareMapChange
  try dsimp only
  repeat' first
    | with_reducible first
      | exact hs | assumption | apply wf_ite | apply keeps_applyOutcome | apply keeps_dropReady | apply keeps_each | apply keeps_epochCounts
      | apply keeps_settleReplays | (apply wf_mk; dsimp only; apply cells_of)
    | split | intro _ _ _ | intro _ _ | intro _

/-! ### Machine/Runs.lean -/

theorem keeps_postRunEntry (slot type : Nat) (status : BitVec 16) (task list missing moved : Nat) (s : State) (hs : s.memoryWf) :
    (postRunEntry slot type status task list missing moved s).memoryWf := by
  unfold postRunEntry
  try dsimp only
  repeat' first
    | with_reducible first
      | exact hs | assumption | apply wf_ite | apply keeps_modGraph | apply keeps_ringPush | apply keeps_ringPushReserved
      | (apply wf_mk; dsimp only; apply cells_of)
    | split | intro _ _ _ | intro _ _ | intro _

theorem keeps_postNoRun (slot : Nat) (status : BitVec 16) (s : State) (hs : s.memoryWf) :
    (postNoRun slot status s).memoryWf := by
  unfold postNoRun
  try dsimp only
  repeat' first
    | with_reducible first
      | exact hs | assumption | apply wf_ite | apply keeps_postRunEntry | (apply wf_mk; dsimp only; apply cells_of)
    | split | intro _ _ _ | intro _ _ | intro _

theorem keeps_closeBatch (i : Nat) (s : State) (hs : s.memoryWf) :
    (closeBatch i s).memoryWf := by
  unfold closeBatch
  try dsimp only
  repeat' first
    | with_reducible first
      | exact hs | assumption | apply wf_ite | apply keeps_setRing | (apply wf_mk; dsimp only; apply cells_of)
    | split | intro _ _ _ | intro _ _ | intro _

theorem keeps_runCloses (i : Nat) (s : State) (hs : s.memoryWf) :
    (runCloses i s).memoryWf := by
  unfold runCloses
  try dsimp only
  repeat' first
    | with_reducible first
      | exact hs | assumption | apply wf_ite | apply keeps_closeBatch | (apply wf_mk; dsimp only; apply cells_of)
    | split | intro _ _ _ | intro _ _ | intro _

theorem keeps_addInput (slot t : Nat) (bs : List Byte) (s : State) (hs : s.memoryWf) :
    (addInput slot t bs s).memoryWf := by
  unfold addInput
  try dsimp only
  repeat' first
    | with_reducible first
      | exact hs | assumption | apply wf_ite | apply keeps_modGraph | (apply wf_mk; dsimp only; apply cells_of)
    | split | intro _ _ _ | intro _ _ | intro _

theorem keeps_noteInputs (slot t : Nat) (s : State) (hs : s.memoryWf) :
    (noteInputs slot t s).memoryWf := by
  unfold noteInputs
  try dsimp only
  repeat' first
    | with_reducible first
      | exact hs | assumption | apply wf_ite | apply keeps_addInput | (apply wf_mk; dsimp only; apply cells_of)
    | split | intro _ _ _ | intro _ _ | intro _

theorem keeps_recordEnd (slot t : Nat) (status : BitVec 16) (missing moved : Nat) (s : State) (hs : s.memoryWf) :
    (recordEnd slot t status missing moved s).memoryWf := by
  unfold recordEnd
  try dsimp only
  repeat' first
    | with_reducible first
      | exact hs | assumption | apply wf_ite | apply keeps_modGraph | apply keeps_postRunEntry | (apply wf_mk; dsimp only; apply cells_of)
    | split | intro _ _ _ | intro _ _ | intro _

theorem keeps_recordNotRun (slot t : Nat) (status : BitVec 16) (missing moved : Nat) (s : State) (hs : s.memoryWf) :
    (recordNotRun slot t status missing moved s).memoryWf := by
  unfold recordNotRun
  try dsimp only
  repeat' first
    | with_reducible first
      | exact hs | assumption | apply wf_ite | apply keeps_each | apply keeps_postRunEntry | apply keeps_recordEnd
      | (apply wf_mk; dsimp only; apply cells_of)
    | split | intro _ _ _ | intro _ _ | intro _

theorem keeps_settle (slot : Nat) (s : State) (hs : s.memoryWf) :
    (settle slot s).memoryWf := by
  unfold settle
  try dsimp only
  repeat' first
    | with_reducible first
      | exact hs | assumption | apply wf_ite | apply keeps_each | apply keeps_recordNotRun | (apply wf_mk; dsimp only; apply cells_of)
    | split | intro _ _ _ | intro _ _ | intro _

theorem keeps_leaveResidence (slot : Nat) (s : State) (hs : s.memoryWf) :
    (leaveResidence slot s).memoryWf := by
  unfold leaveResidence
  try dsimp only
  repeat' first
    | with_reducible first
      | exact hs | assumption | apply wf_ite | apply keeps_raise | (apply wf_mk; dsimp only; apply cells_of)
    | split | intro _ _ _ | intro _ _ | intro _

theorem keeps_finishRun (slot : Nat) (s : State) (hs : s.memoryWf) :
    (finishRun slot s).memoryWf := by
  unfold finishRun
  try dsimp only
  repeat' first
    | with_reducible first
      | exact hs | assumption | apply wf_ite | apply keeps_leaveResidence | apply keeps_modGraph | apply keeps_modRing
      | apply keeps_postRunEntry | apply keeps_runCloses | (apply wf_mk; dsimp only; apply cells_of)
    | split | intro _ _ _ | intro _ _ | intro _

theorem keeps_dropWork (slot t : Nat) (s : State) (hs : s.memoryWf) :
    (dropWork slot t s).memoryWf := by
  unfold dropWork
  try dsimp only
  repeat' first
    | with_reducible first
      | exact hs | assumption | apply wf_ite | (apply wf_mk; dsimp only; apply cells_of)
    | split | intro _ _ _ | intro _ _ | intro _

theorem keeps_endWith (record : State → State) (slot t : Nat) (status : BitVec 16) (s : State) (h_record : ∀ s, State.memoryWf s → (record s).memoryWf) (hs : s.memoryWf) :
    (endWith record slot t status s).memoryWf := by
  unfold endWith
  try dsimp only
  repeat' first
    | with_reducible first
      | exact hs | assumption | apply wf_ite | apply keeps_dropWork | apply keeps_finishRun | apply keeps_modGraph | apply keeps_settle
      | apply h_record | (apply wf_mk; dsimp only; apply cells_of)
    | split | intro _ _ _ | intro _ _ | intro _

theorem keeps_egressOutcome (status : BitVec 16) (s : State) (hs : s.memoryWf) :
    (egressOutcome status s).2.memoryWf := by
  unfold egressOutcome
  try dsimp only
  repeat' first
    | with_reducible first
      | exact hs | assumption | apply wf_ite | apply wf_iteSnd | apply keeps_raise | (apply wf_mk; dsimp only; apply cells_of)
    | split | intro _ _ _ | intro _ _ | intro _

theorem keeps_taskEnd (slot t : Nat) (status : BitVec 16) (missing moved : Nat) (s : State) (hs : s.memoryWf) :
    (taskEnd slot t status missing moved s).memoryWf := by
  unfold taskEnd
  try dsimp only
  repeat' first
    | with_reducible first
      | exact hs | assumption | apply wf_ite | apply keeps_egressOutcome | apply keeps_endWith | apply keeps_recordNotRun
      | (apply wf_mk; dsimp only; apply cells_of)
    | split | intro _ _ _ | intro _ _ | intro _

theorem keeps_listEnd (slot t : Nat) (status : BitVec 16) (moved : Nat) (s : State) (hs : s.memoryWf) :
    (listEnd slot t status moved s).memoryWf := by
  unfold listEnd
  try dsimp only
  repeat' first
    | with_reducible first
      | exact hs | assumption | apply wf_ite | apply keeps_endWith | apply keeps_recordEnd | (apply wf_mk; dsimp only; apply cells_of)
    | split | intro _ _ _ | intro _ _ | intro _

theorem keeps_endAllTasks (slot : Nat) (status : BitVec 16) (s : State) (hs : s.memoryWf) :
    (endAllTasks slot status s).memoryWf := by
  unfold endAllTasks
  try dsimp only
  repeat' first
    | with_reducible first
      | exact hs | assumption | apply wf_ite | apply keeps_each | apply keeps_taskEnd | (apply wf_mk; dsimp only; apply cells_of)
    | split | intro _ _ _ | intro _ _ | intro _

end Sys2Proof.Machine
end

