-- ==== Sys2Proof/Laws/KeepsWork.lean ====
section
/-! SUPPORT. Both memories stay in canonical form: one lemma per operation of passes, the squeeze, XL, transfers, slots and graphs. -/

namespace Sys2Proof.Machine

set_option linter.all false

/-! ### Machine/Passes.lean -/

theorem keeps_dieFault (die : Bool) (i : EvInfo) (s : State) (hs : s.memoryWf) :
    (dieFault die i s).memoryWf := by
  unfold dieFault
  try dsimp only
  repeat' first
    | with_reducible first
      | exact hs | assumption | apply wf_ite | apply keeps_raise | (apply wf_mk; dsimp only; apply cells_of)
    | split | intro _ _ _ | intro _ _ | intro _

theorem keeps_accept (src : Src) (bit : Nat) (die : Bool) (slot task vec out : Nat) (v : Int) (chunks : Nat) (s : State) (hs : s.memoryWf) :
    (accept src bit die slot task vec out v chunks s).memoryWf := by
  unfold accept
  try dsimp only
  repeat' first
    | with_reducible first
      | exact hs | assumption | apply wf_ite | apply keeps_dieFault | apply keeps_raise | apply keeps_taskEnd
      | (apply wf_mk; dsimp only; apply cells_of)
    | split | intro _ _ _ | intro _ _ | intro _

theorem keeps_countPasses (n : Nat) (s : State) (hs : s.memoryWf) :
    (countPasses n s).memoryWf := by
  unfold countPasses
  try dsimp only
  repeat' first
    | with_reducible first
      | exact hs | assumption | apply wf_ite | (apply wf_mk; dsimp only; apply cells_of)
    | split | intro _ _ _ | intro _ _ | intro _

theorem keeps_countReplayed (n : Nat) (s : State) (hs : s.memoryWf) :
    (countReplayed n s).memoryWf := by
  unfold countReplayed
  try dsimp only
  repeat' first
    | with_reducible first
      | exact hs | assumption | apply wf_ite | (apply wf_mk; dsimp only; apply cells_of)
    | split | intro _ _ _ | intro _ _ | intro _

theorem keeps_requestReplay (reserve : Bool) (f : Flight) (s : State) (hs : s.memoryWf) :
    (requestReplay reserve f s).memoryWf := by
  unfold requestReplay
  try dsimp only
  repeat' first
    | with_reducible first
      | exact hs | assumption | apply wf_ite | apply keeps_queueReplay | (apply wf_mk; dsimp only; apply cells_of)
    | split | intro _ _ _ | intro _ _ | intro _

theorem keeps_withTables (m : MSet) (l : Nat) (t : Tile) (s : State) (hs : s.memoryWf) :
    (withTables m l t s).memoryWf := by
  unfold withTables
  try dsimp only
  repeat' first
    | with_reducible first
      | exact hs | assumption | apply wf_ite | apply keeps_beginSubstHold | apply keeps_modSubst | (apply wf_mk; dsimp only; apply cells_of)
    | split | intro _ _ _ | intro _ _ | intro _

theorem keeps_substitutedPass (f : Flight) (acts : List Nat) (short : Bool) (l : Nat) (t : Tile) (os : List Nat) (s : State) (hs : s.memoryWf) :
    (substitutedPass f acts short l t os s).memoryWf := by
  unfold substitutedPass
  try dsimp only
  repeat' first
    | with_reducible first
      | exact hs | assumption | apply wf_ite | apply keeps_accept | apply keeps_beginSubstHold | apply keeps_each | apply keeps_queueOne
      | apply keeps_withTables | (apply wf_mk; dsimp only; apply cells_of)
    | split | intro _ _ _ | intro _ _ | intro _

theorem keeps_substitutedPasses (f : Flight) (acts : List Nat) (short : Bool) (l : List (Nat × Tile)) (d : List Nat) (s : State)
    (hs : s.memoryWf) : (substitutedPasses f acts short l d s).memoryWf := by
  induction l generalizing d s with
  | nil => exact hs
  | cons q r ih => exact ih _ _ (keeps_substitutedPass _ _ _ _ _ _ s hs)

theorem keeps_drivePass (g : Graph) (slot : Nat) (p : PassEntry) (s : State) (hs : s.memoryWf) :
    (drivePass g slot p s).memoryWf := by
  unfold drivePass
  try dsimp only
  repeat' first
    | with_reducible first
      | exact hs | assumption | apply wf_ite | apply keeps_countPasses | apply keeps_countReplayed | apply keeps_requestReplay
      | apply keeps_substitutedPasses | (apply wf_mk; dsimp only; apply cells_of)
    | split | intro _ _ _ | intro _ _ | intro _

theorem keeps_execPass (p : PassEntry) (s : State) (hs : s.memoryWf) :
    KeepsOut (execPass p s) := by
  unfold execPass
  try dsimp only
  repeat' first
    | with_reducible first
      | exact hs | assumption | apply wf_ite | apply wf_iteOut | apply wf_next | apply keeps_drivePass | apply keeps_noteInputs
      | (apply wf_mk; dsimp only; apply cells_of)
    | split | intro _ _ _ | intro _ _ | intro _

theorem keeps_execRampFill (l : Nat) (s : State) (hs : s.memoryWf) :
    KeepsOut (execRampFill l s) := by
  unfold execRampFill
  try dsimp only
  repeat' first
    | with_reducible first
      | exact hs | assumption | apply wf_ite | apply wf_iteOut | apply wf_next | (apply wf_mk; dsimp only; apply cells_of)
    | split | intro _ _ _ | intro _ _ | intro _

theorem keeps_countFail (f : Flight) (l place : Nat) (was now : PassFail) (s : State) (hs : s.memoryWf) :
    (countFail f l place was now s).memoryWf := by
  unfold countFail
  try dsimp only
  repeat' first
    | with_reducible first
      | exact hs | assumption | apply wf_ite | apply keeps_raise | (apply wf_mk; dsimp only; apply cells_of)
    | split | intro _ _ _ | intro _ _ | intro _

theorem keeps_countFails (f : Flight) (bad : List (Nat × Nat × Option Recon)) (s : State) (hs : s.memoryWf) :
    (countFails f bad s).memoryWf := by
  unfold countFails
  try dsimp only
  repeat' first
    | with_reducible first
      | exact hs | assumption | apply wf_ite | apply keeps_countFail | apply keeps_each | (apply wf_mk; dsimp only; apply cells_of)
    | split | intro _ _ _ | intro _ _ | intro _

theorem keeps_acceptAll (f : Flight) (rs : List (Nat × Nat × Option Recon)) (s : State) (hs : s.memoryWf) :
    (acceptAll f rs s).memoryWf := by
  unfold acceptAll
  try dsimp only
  repeat' first
    | with_reducible first
      | exact hs | assumption | apply wf_ite | apply keeps_accept | apply keeps_each | (apply wf_mk; dsimp only; apply cells_of)
    | split | intro _ _ _ | intro _ _ | intro _

theorem keeps_replayFailed (f : Flight) (bad : List (Nat × Nat × Option Recon)) (s : State) (hs : s.memoryWf) :
    (replayFailed f bad s).memoryWf := by
  unfold replayFailed
  try dsimp only
  repeat' first
    | with_reducible first
      | exact hs | assumption | apply wf_ite | apply keeps_each | apply keeps_enterSuspect | apply keeps_queueReplay | apply keeps_raise
      | (apply wf_mk; dsimp only; apply cells_of)
    | split | intro _ _ _ | intro _ _ | intro _

theorem keeps_execChunkReconstruction (reserve : Bool) (s : State) (hs : s.memoryWf) :
    KeepsOut (execChunkReconstruction reserve s) := by
  unfold execChunkReconstruction
  try dsimp only
  repeat' first
    | with_reducible first
      | exact hs | assumption | apply wf_ite | apply wf_iteOut | apply wf_next | apply keeps_acceptAll | apply keeps_countFails
      | apply keeps_countReplayed | apply keeps_each | apply keeps_replayFailed | apply keeps_requestReplay
      | (apply wf_mk; dsimp only; apply cells_of)
    | split | intro _ _ _ | intro _ _ | intro _

theorem keeps_execOpticalReplay (dev : List SlicerDev) (s : State) (hs : s.memoryWf) :
    KeepsOut (execOpticalReplay dev s) := by
  unfold execOpticalReplay
  try dsimp only
  repeat' first
    | with_reducible first
      | exact hs | assumption | apply wf_ite | apply wf_iteOut | apply wf_next | apply keeps_queueReplay
      | (apply wf_mk; dsimp only; apply cells_of)
    | split | intro _ _ _ | intro _ _ | intro _

theorem keeps_execElectronicReplay (die : Bool) (s : State) (hs : s.memoryWf) :
    KeepsOut (execElectronicReplay die s) := by
  unfold execElectronicReplay
  try dsimp only
  repeat' first
    | with_reducible first
      | exact hs | assumption | apply wf_ite | apply wf_iteOut | apply wf_next | apply keeps_accept | apply keeps_each | apply keeps_elapse
      | (apply wf_mk; dsimp only; apply cells_of)
    | split | intro _ _ _ | intro _ _ | intro _

theorem keeps_execReplayDeadline (s : State) (hs : s.memoryWf) :
    KeepsOut (execReplayDeadline s) := by
  unfold execReplayDeadline
  try dsimp only
  repeat' first
    | with_reducible first
      | exact hs | assumption | apply wf_ite | apply wf_iteOut | apply wf_next | apply keeps_advanceTo | apply keeps_raise
      | (apply wf_mk; dsimp only; apply cells_of)
    | split | intro _ _ _ | intro _ _ | intro _

theorem keeps_execReplayHoldEnd (s : State) (hs : s.memoryWf) :
    KeepsOut (execReplayHoldEnd s) := by
  unfold execReplayHoldEnd
  try dsimp only
  repeat' first
    | with_reducible first
      | exact hs | assumption | apply wf_ite | apply wf_iteOut | apply wf_next | (apply wf_mk; dsimp only; apply cells_of)
    | split | intro _ _ _ | intro _ _ | intro _

theorem keeps_execSubstitutionHoldEnd (s : State) (hs : s.memoryWf) :
    KeepsOut (execSubstitutionHoldEnd s) := by
  unfold execSubstitutionHoldEnd
  try dsimp only
  repeat' first
    | with_reducible first
      | exact hs | assumption | apply wf_ite | apply wf_iteOut | apply wf_next | (apply wf_mk; dsimp only; apply cells_of)
    | split | intro _ _ _ | intro _ _ | intro _

/-! ### Machine/Squ.lean -/

theorem keeps_squNote (slot task : Nat) (t : SquTally) (s : State) (hs : s.memoryWf) :
    (squNote slot task t s).memoryWf := by
  unfold squNote
  try dsimp only
  repeat' first
    | with_reducible first
      | exact hs | assumption | apply wf_ite | apply keeps_raise | (apply wf_mk; dsimp only; apply cells_of)
    | split | intro _ _ _ | intro _ _ | intro _

theorem keeps_writeEntry (g : Graph) (a qw : Nat) (r : ScaleRec) (codes : List Int) (s : State) (hs : s.memoryWf) :
    (writeEntry g a qw r codes s).memoryWf := by
  unfold writeEntry
  try dsimp only
  repeat' first
    | with_reducible first
      | exact hs | assumption | apply wf_ite | apply keeps_taskWrite | (apply wf_mk; dsimp only; apply cells_of)
    | split | intro _ _ _ | intro _ _ | intro _

theorem keeps_writeChans (g : Graph) (t : Task) (chans : List Chan) (s : State) (hs : s.memoryWf) :
    (writeChans g t chans s).memoryWf := by
  unfold writeChans
  try dsimp only
  repeat' first
    | with_reducible first
      | exact hs | assumption | apply wf_ite | apply keeps_each | apply keeps_taskWrite | apply keeps_writeEntry
      | (apply wf_mk; dsimp only; apply cells_of)
    | split | intro _ _ _ | intro _ _ | intro _

theorem keeps_writeResult (slot task : Nat) (g : Graph) (rows : List (List Word)) (s : State) (hs : s.memoryWf) :
    (writeResult slot task g rows s).memoryWf := by
  unfold writeResult
  try dsimp only
  repeat' first
    | with_reducible first
      | exact hs | assumption | apply wf_ite | apply keeps_squNote | apply keeps_taskWrite | apply keeps_writeChans
      | (apply wf_mk; dsimp only; apply cells_of)
    | split | intro _ _ _ | intro _ _ | intro _

theorem keeps_completeWith (slot task : Nat) (g : Graph) (rows : List (List Word)) (s : State) (hs : s.memoryWf) :
    (completeWith slot task g rows s).memoryWf := by
  unfold completeWith
  try dsimp only
  repeat' first
    | with_reducible first
      | exact hs | assumption | apply wf_ite | apply keeps_taskEnd | apply keeps_writeResult | (apply wf_mk; dsimp only; apply cells_of)
    | split | intro _ _ _ | intro _ _ | intro _

theorem keeps_execSquEntry (slot task : Nat) (s : State) (hs : s.memoryWf) :
    KeepsOut (execSquEntry slot task s) := by
  unfold execSquEntry
  try dsimp only
  repeat' first
    | with_reducible first
      | exact hs | assumption | apply wf_ite | apply wf_iteOut | apply wf_next | apply keeps_completeWith | apply keeps_noteInputs
      | apply keeps_taskEnd | (apply wf_mk; dsimp only; apply cells_of)
    | split | intro _ _ _ | intro _ _ | intro _

theorem keeps_serveBank (half : Nat) (b : LgeBank) (s : State) (hs : s.memoryWf) :
    (serveBank half b s).memoryWf := by
  unfold serveBank
  try dsimp only
  repeat' first
    | with_reducible first
      | exact hs | assumption | apply wf_ite | (apply wf_mk; dsimp only; apply cells_of)
    | split | intro _ _ _ | intro _ _ | intro _

theorem keeps_lgeSlice (slot task : Nat) (g : Graph) (t : Task) (first : Nat) (s : State) (hs : s.memoryWf) :
    (lgeSlice slot task g t first s).memoryWf := by
  unfold lgeSlice
  try dsimp only
  repeat' first
    | with_reducible first
      | exact hs | assumption | apply wf_ite | apply keeps_accept | apply keeps_each | apply keeps_serveBank
      | (apply wf_mk; dsimp only; apply cells_of)
    | split | intro _ _ _ | intro _ _ | intro _

theorem keeps_execLgeEntry (slot task : Nat) (s : State) (hs : s.memoryWf) :
    KeepsOut (execLgeEntry slot task s) := by
  unfold execLgeEntry
  try dsimp only
  repeat' first
    | with_reducible first
      | exact hs | assumption | apply wf_ite | apply wf_iteOut | apply wf_next | apply keeps_each | apply keeps_lgeSlice
      | apply keeps_noteInputs | apply keeps_taskEnd | (apply wf_mk; dsimp only; apply cells_of)
    | split | intro _ _ _ | intro _ _ | intro _

/-! ### Machine/Xl.lean -/

theorem keeps_xlNote (slot task nonfin inf nan : Nat) (s : State) (hs : s.memoryWf) :
    (xlNote slot task nonfin inf nan s).memoryWf := by
  unfold xlNote
  try dsimp only
  repeat' first
    | with_reducible first
      | exact hs | assumption | apply wf_ite | apply keeps_raise | (apply wf_mk; dsimp only; apply cells_of)
    | split | intro _ _ _ | intro _ _ | intro _

theorem keeps_xlReport (slot task : Nat) (operands : List Word) (vs : List XlVal) (s : State) (hs : s.memoryWf) :
    (xlReport slot task operands vs s).memoryWf := by
  unfold xlReport
  try dsimp only
  repeat' first
    | with_reducible first
      | exact hs | assumption | apply wf_ite | apply keeps_xlNote | (apply wf_mk; dsimp only; apply cells_of)
    | split | intro _ _ _ | intro _ _ | intro _

theorem keeps_xlOperator (slot task : Nat) (g : Graph) (s : State) (hs : s.memoryWf) :
    (xlOperator slot task g s).memoryWf := by
  unfold xlOperator
  try dsimp only
  repeat' first
    | with_reducible first
      | exact hs | assumption | apply wf_ite | apply keeps_completeWith | apply keeps_taskEnd | apply keeps_taskWrite | apply keeps_xlReport
      | (apply wf_mk; dsimp only; apply cells_of)
    | split | intro _ _ _ | intro _ _ | intro _

theorem keeps_outlierEntries (slot task : Nat) (g : Graph) (p : Task) (cols : List Nat) (s : State) (hs : s.memoryWf) :
    (outlierEntries slot task g p cols s).memoryWf := by
  unfold outlierEntries
  try dsimp only
  repeat' first
    | with_reducible first
      | exact hs | assumption | apply wf_ite | apply keeps_xlReport | (apply wf_mk; dsimp only; apply cells_of)
    | split | intro _ _ _ | intro _ _ | intro _

theorem keeps_execXlEntry (slot task : Nat) (s : State) (hs : s.memoryWf) :
    KeepsOut (execXlEntry slot task s) := by
  unfold execXlEntry
  try dsimp only
  repeat' first
    | with_reducible first
      | exact hs | assumption | apply wf_ite | apply wf_iteOut | apply wf_next | apply keeps_noteInputs | apply keeps_outlierEntries
      | apply keeps_taskEnd | apply keeps_xlOperator | (apply wf_mk; dsimp only; apply cells_of)
    | split | intro _ _ _ | intro _ _ | intro _

/-! ### Machine/Transfers.lean -/

theorem keeps_addRegion (parts : List (Nat × Nat)) (bs : List Byte) (s : State) (hs : s.memoryWf) :
    (addRegion parts bs s).memoryWf := by
  unfold addRegion
  try dsimp only
  repeat' first
    | with_reducible first
      | exact hs | assumption | apply wf_ite | (apply wf_mk; dsimp only; apply cells_of)
    | split | intro _ _ _ | intro _ _ | intro _

theorem keeps_loadWrite (g : Graph) (a : Nat) (bs : List Byte) (s : State) (hs : s.memoryWf) : (loadWrite g a bs s).memoryWf := by
  induction bs generalizing a s with
  | nil => exact hs
  | cons b r ih =>
    refine ih _ _ ?_
    split
    · exact keeps_taskByteOut _ _ s hs
    · exact hs

theorem keeps_moveOne (g : Graph) (task src dst len : Nat) (s : State) (hs : s.memoryWf) :
    (moveOne g task src dst len s).2.2.memoryWf := by
  unfold moveOne
  try dsimp only
  repeat' first
    | with_reducible first
      | exact hs | assumption | apply wf_ite | apply wf_iteThird | apply keeps_addInput | apply keeps_addRegion | apply keeps_each
      | apply keeps_egressOutcome | apply keeps_loadWrite | apply keeps_staleRegions | apply keeps_taskWrite
      | (apply wf_mk; dsimp only; apply cells_of)
    | split | intro _ _ _ | intro _ _ | intro _

theorem keeps_moveFailed (g : Graph) (t : Task) (src dst len off : Nat) (s : State) (hs : s.memoryWf) :
    (moveFailed g t src dst len off s).2.2.memoryWf := by
  unfold moveFailed
  try dsimp only
  repeat' first
    | with_reducible first
      | exact hs | assumption | apply wf_ite | apply wf_iteThird | apply keeps_egressOutcome | apply keeps_taskWrite
      | (apply wf_mk; dsimp only; apply cells_of)
    | split | intro _ _ _ | intro _ _ | intro _

theorem keeps_moveList (slot task : Nat) (g : Graph) (t : Task) (bad : Option Nat) (es : List (Nat × Nat × Nat)) (i moved : Nat)
    (first halt : BitVec 16) (s : State) (hs : s.memoryWf) :
    (moveList slot task g t bad es i moved first halt s).2.2.memoryWf := by
  induction es generalizing i moved first halt s with
  | nil => exact hs
  | cons e r ih =>
    rw [moveList]
    refine ih _ _ _ _ _ ?_
    split
    · apply keeps_postRunEntry
      split
      · exact hs
      · split
        · exact keeps_moveFailed _ _ _ _ _ _ s hs
        · exact keeps_moveOne _ _ _ _ _ s hs
    · split
      · exact hs
      · split
        · exact keeps_moveFailed _ _ _ _ _ _ s hs
        · exact keeps_moveOne _ _ _ _ _ s hs

theorem keeps_transferList (slot task : Nat) (g : Graph) (t : Task) (bad : Option Nat) (s : State) (hs : s.memoryWf) :
    (transferList slot task g t bad s).memoryWf := by
  unfold transferList
  try dsimp only
  repeat' first
    | with_reducible first
      | exact hs | assumption | apply wf_ite | apply keeps_listEnd | apply keeps_moveList | apply keeps_taskEnd
      | (apply wf_mk; dsimp only; apply cells_of)
    | split | intro _ _ _ | intro _ _ | intro _

theorem keeps_execTransferEntry (slot task : Nat) (s : State) (hs : s.memoryWf) :
    KeepsOut (execTransferEntry slot task s) := by
  unfold execTransferEntry
  try dsimp only
  repeat' first
    | with_reducible first
      | exact hs | assumption | apply wf_ite | apply wf_iteOut | apply wf_next | apply keeps_moveOne | apply keeps_taskEnd
      | apply keeps_transferList | (apply wf_mk; dsimp only; apply cells_of)
    | split | intro _ _ _ | intro _ _ | intro _

theorem keeps_modLane (n : Nat) (f : Lane → Lane) (s : State) (hs : s.memoryWf) :
    (modLane n f s).memoryWf := by
  unfold modLane
  try dsimp only
  repeat' first
    | with_reducible first
      | exact hs | assumption | apply wf_ite | (apply wf_mk; dsimp only; apply cells_of)
    | split | intro _ _ _ | intro _ _ | intro _

theorem keeps_laneDiscard (n k : Nat) (s : State) (hs : s.memoryWf) :
    (laneDiscard n k s).memoryWf := by
  unfold laneDiscard
  try dsimp only
  repeat' first
    | with_reducible first
      | exact hs | assumption | apply wf_ite | apply keeps_modLane | apply keeps_raise | (apply wf_mk; dsimp only; apply cells_of)
    | split | intro _ _ _ | intro _ _ | intro _

theorem keeps_fileUnit (n capture : Nat) (data : List Byte) (s : State) (hs : s.memoryWf) :
    (fileUnit n capture data s).memoryWf := by
  unfold fileUnit
  try dsimp only
  repeat' first
    | with_reducible first
      | exact hs | assumption | apply wf_ite | apply keeps_laneDiscard | apply keeps_modLane | (apply wf_mk; dsimp only; apply cells_of)
    | split | intro _ _ _ | intro _ _ | intro _

theorem keeps_laneIn (slot task : Nat) (g : Graph) (s : State) (hs : s.memoryWf) :
    (laneIn slot task g s).memoryWf := by
  unfold laneIn
  try dsimp only
  repeat' first
    | with_reducible first
      | exact hs | assumption | apply wf_ite | apply keeps_laneDiscard | apply keeps_modLane | apply keeps_taskEnd | apply keeps_taskWrite
      | (apply wf_mk; dsimp only; apply cells_of)
    | split | intro _ _ _ | intro _ _ | intro _

theorem keeps_presentUnits (n : Nat) (us : List OutUnit) (s : State) (hs : s.memoryWf) : (presentUnits n us s).2.memoryWf := by
  induction us generalizing s with
  | nil => exact hs
  | cons u r ih =>
    rw [presentUnits]
    split
    · exact ih s hs
    · split
      · exact hs
      · split
        · exact ih _ (keeps_emit _ s hs)
        · exact hs

theorem keeps_presentLane (n : Nat) (s : State) (hs : s.memoryWf) : (presentLane n s).memoryWf :=
  keeps_modLane _ _ _ (keeps_presentUnits n _ s hs)

theorem keeps_laneOut (slot task : Nat) (g : Graph) (s : State) (hs : s.memoryWf) :
    (laneOut slot task g s).memoryWf := by
  unfold laneOut
  try dsimp only
  repeat' first
    | with_reducible first
      | exact hs | assumption | apply wf_ite | apply keeps_each | apply keeps_modLane | apply keeps_presentLane | apply keeps_taskEnd
      | (apply wf_mk; dsimp only; apply cells_of)
    | split | intro _ _ _ | intro _ _ | intro _

theorem keeps_execLaneEntry (slot task : Nat) (s : State) (hs : s.memoryWf) :
    KeepsOut (execLaneEntry slot task s) := by
  unfold execLaneEntry
  try dsimp only
  repeat' first
    | with_reducible first
      | exact hs | assumption | apply wf_ite | apply wf_iteOut | apply wf_next | apply keeps_laneIn | apply keeps_laneOut
      | apply keeps_noteInputs | apply keeps_taskEnd | (apply wf_mk; dsimp only; apply cells_of)
    | split | intro _ _ _ | intro _ _ | intro _

theorem keeps_laneLate (n : Nat) (s : State) (hs : s.memoryWf) :
    (laneLate n s).memoryWf := by
  unfold laneLate
  try dsimp only
  repeat' first
    | with_reducible first
      | exact hs | assumption | apply wf_ite | apply keeps_modLane | apply keeps_raise | (apply wf_mk; dsimp only; apply cells_of)
    | split | intro _ _ _ | intro _ _ | intro _

theorem keeps_execLaneUnitPresent (n : Nat) (s : State) (hs : s.memoryWf) :
    KeepsOut (execLaneUnitPresent n s) := by
  unfold execLaneUnitPresent
  try dsimp only
  repeat' first
    | with_reducible first
      | exact hs | assumption | apply wf_ite | apply wf_iteOut | apply wf_next | apply keeps_advanceTo | apply keeps_emit
      | apply keeps_laneLate | apply keeps_modLane | apply keeps_presentLane | (apply wf_mk; dsimp only; apply cells_of)
    | split | intro _ _ _ | intro _ _ | intro _

/-! ### Machine/Slots.lean -/

theorem keeps_modFw (c : Nat) (f : FwSlot → FwSlot) (s : State) (hs : s.memoryWf) :
    (modFw c f s).memoryWf := by
  unfold modFw
  try dsimp only
  repeat' first
    | with_reducible first
      | exact hs | assumption | apply wf_ite | (apply wf_mk; dsimp only; apply cells_of)
    | split | intro _ _ _ | intro _ _ | intro _

theorem keeps_putRecord (kind key seq : Nat) (bytes : List Byte) (s : State) (hs : s.memoryWf) :
    (putRecord kind key seq bytes s).memoryWf := by
  unfold putRecord
  try dsimp only
  repeat' first
    | with_reducible first
      | exact hs | assumption | apply wf_ite | (apply wf_mk; dsimp only; apply cells_of)
    | split | intro _ _ _ | intro _ _ | intro _

theorem keeps_moduleRecord (kind : Nat) (body : List Byte) (s : State) (hs : s.memoryWf) :
    (moduleRecord kind body s).memoryWf := by
  unfold moduleRecord
  try dsimp only
  repeat' first
    | with_reducible first
      | exact hs | assumption | apply wf_ite | apply keeps_putRecord | (apply wf_mk; dsimp only; apply cells_of)
    | split | intro _ _ _ | intro _ _ | intro _

theorem keeps_commitCounter (c : Nat) (sec : Word) (s : State) (hs : s.memoryWf) :
    (commitCounter c sec s).memoryWf := by
  unfold commitCounter
  try dsimp only
  repeat' first
    | with_reducible first
      | exact hs | assumption | apply wf_ite | apply keeps_modFw | apply keeps_moduleRecord | apply keeps_raise
      | (apply wf_mk; dsimp only; apply cells_of)
    | split | intro _ _ _ | intro _ _ | intro _

theorem keeps_journalFirmware (action c slot version security : Nat) (digest : List Byte) (s : State) (hs : s.memoryWf) :
    (journalFirmware action c slot version security digest s).memoryWf := by
  unfold journalFirmware
  try dsimp only
  repeat' first
    | with_reducible first
      | exact hs | assumption | apply wf_ite | apply keeps_journalOne | (apply wf_mk; dsimp only; apply cells_of)
    | split | intro _ _ _ | intro _ _ | intro _

theorem keeps_journalSlot (action c : Nat) (slot : Bool) (s : State) (hs : s.memoryWf) :
    (journalSlot action c slot s).memoryWf := by
  unfold journalSlot
  try dsimp only
  repeat' first
    | with_reducible first
      | exact hs | assumption | apply wf_ite | apply keeps_journalFirmware | (apply wf_mk; dsimp only; apply cells_of)
    | split | intro _ _ _ | intro _ _ | intro _

theorem keeps_mscRestart (s : State) (hs : s.memoryWf) :
    (mscRestart s).memoryWf := by
  unfold mscRestart
  try dsimp only
  repeat' first
    | with_reducible first
      | exact hs | assumption | apply wf_ite | (apply wf_mk; dsimp only; apply cells_of)
    | split | intro _ _ _ | intro _ _ | intro _

theorem keeps_switchComponent (c : Nat) (s : State) (hs : s.memoryWf) :
    (switchComponent c s).memoryWf := by
  unfold switchComponent
  try dsimp only
  repeat' first
    | with_reducible first
      | exact hs | assumption | apply wf_ite | apply keeps_journalSlot | apply keeps_modFw | apply keeps_mscRestart | apply keeps_raise
      | (apply wf_mk; dsimp only; apply cells_of)
    | split | intro _ _ _ | intro _ _ | intro _

theorem keeps_trialRevert (c : Nat) (s : State) (hs : s.memoryWf) :
    (trialRevert c s).memoryWf := by
  unfold trialRevert
  try dsimp only
  repeat' first
    | with_reducible first
      | exact hs | assumption | apply wf_ite | apply keeps_journalSlot | apply keeps_modFw | apply keeps_mscRestart | apply keeps_raise
      | (apply wf_mk; dsimp only; apply cells_of)
    | split | intro _ _ _ | intro _ _ | intro _

theorem keeps_execTrialEnd (c : Nat) (s : State) (hs : s.memoryWf) :
    KeepsOut (execTrialEnd c s) := by
  unfold execTrialEnd
  try dsimp only
  repeat' first
    | with_reducible first
      | exact hs | assumption | apply wf_ite | apply wf_iteOut | apply wf_next | apply keeps_advanceTo | apply keeps_commitCounter
      | apply keeps_journalSlot | apply keeps_modFw | (apply wf_mk; dsimp only; apply cells_of)
    | split | intro _ _ _ | intro _ _ | intro _

theorem keeps_editionSchedule (earliest : Nat) (s : State) (hs : s.memoryWf) :
    (editionSchedule earliest s).memoryWf := by
  unfold editionSchedule
  try dsimp only
  repeat' first
    | with_reducible first
      | exact hs | assumption | apply wf_ite | apply keeps_each | apply keeps_modFw | (apply wf_mk; dsimp only; apply cells_of)
    | split | intro _ _ _ | intro _ _ | intro _

theorem keeps_firmwareBoundary (s : State) (hs : s.memoryWf) :
    (firmwareBoundary s).memoryWf := by
  unfold firmwareBoundary
  try dsimp only
  repeat' first
    | with_reducible first
      | exact hs | assumption | apply wf_ite | apply keeps_each | apply keeps_editionSchedule | apply keeps_switchComponent
      | (apply wf_mk; dsimp only; apply cells_of)
    | split | intro _ _ _ | intro _ _ | intro _

theorem keeps_firmwareTraining (s : State) (hs : s.memoryWf) :
    (firmwareTraining s).memoryWf := by
  unfold firmwareTraining
  try dsimp only
  repeat' first
    | with_reducible first
      | exact hs | assumption | apply wf_ite | apply keeps_switchComponent | (apply wf_mk; dsimp only; apply cells_of)
    | split | intro _ _ _ | intro _ _ | intro _

/-! ### Machine/Graphs.lean -/

theorem keeps_enterMode (m : Mode) (s : State) (hs : s.memoryWf) :
    (enterMode m s).memoryWf := by
  unfold enterMode
  try dsimp only
  repeat' first
    | with_reducible first
      | exact hs | assumption | apply wf_ite | apply keeps_raise | (apply wf_mk; dsimp only; apply cells_of)
    | split | intro _ _ _ | intro _ _ | intro _

theorem keeps_dropSyscal (s : State) (hs : s.memoryWf) :
    (dropSyscal s).memoryWf := by
  unfold dropSyscal
  try dsimp only
  repeat' first
    | with_reducible first
      | exact hs | assumption | apply wf_ite | (apply wf_mk; dsimp only; apply cells_of)
    | split | intro _ _ _ | intro _ _ | intro _

theorem keeps_becomeResident (slot : Nat) (g : Graph) (digest : List Byte) (s : State) (hs : s.memoryWf) :
    (becomeResident slot g digest s).memoryWf := by
  unfold becomeResident
  try dsimp only
  repeat' first
    | with_reducible first
      | exact hs | assumption | apply wf_ite | apply keeps_dropSyscal | apply keeps_each | apply keeps_enterMode
      | (apply wf_mk; dsimp only; apply cells_of)
    | split | intro _ _ _ | intro _ _ | intro _

theorem keeps_recordAdmission (st : BitVec 16) (d : Nat) (s : State) (hs : s.memoryWf) :
    (recordAdmission st d s).memoryWf := by
  unfold recordAdmission
  try dsimp only
  repeat' first
    | with_reducible first
      | exact hs | assumption | apply wf_ite | apply keeps_raise | (apply wf_mk; dsimp only; apply cells_of)
    | split | intro _ _ _ | intro _ _ | intro _

theorem keeps_admitGraph (a : Nat) (s : State) (hs : s.memoryWf) :
    (admitGraph a s).2.2.2.memoryWf := by
  unfold admitGraph
  try dsimp only
  repeat' first
    | with_reducible first
      | exact hs | assumption | apply wf_ite | apply wf_iteFourth | apply keeps_becomeResident | apply keeps_recordAdmission
      | (apply wf_mk; dsimp only; apply cells_of)
    | split | intro _ _ _ | intro _ _ | intro _

theorem keeps_readmit (slot : Nat) (g : Graph) (s : State) (hs : s.memoryWf) :
    (readmit slot g s).2.2.2.memoryWf := by
  unfold readmit
  try dsimp only
  repeat' first
    | with_reducible first
      | exact hs | assumption | apply wf_ite | apply wf_iteFourth | apply keeps_becomeResident | apply keeps_recordAdmission
      | (apply wf_mk; dsimp only; apply cells_of)
    | split | intro _ _ _ | intro _ _ | intro _

end Sys2Proof.Machine
end

