-- ==== Sys2Proof/Laws/KeepsLinks.lean ====
section
/-! SUPPORT. Both memories stay in canonical form: one lemma per operation of links, light, temperatures and calibration. -/

namespace Sys2Proof.Machine

set_option linter.all false

/-! ### Machine/Links.lean -/

theorem keeps_modLinkLane (l : Nat) (f : LinkLane → LinkLane) (s : State) (hs : s.memoryWf) :
    (modLinkLane l f s).memoryWf := by
  unfold modLinkLane
  try dsimp only
  repeat' first
    | with_reducible first
      | exact hs | assumption | apply wf_ite | (apply wf_mk; dsimp only; apply cells_of)
    | split | intro _ _ _ | intro _ _ | intro _

theorem keeps_modPort (p : Nat) (f : Port → Port) (s : State) (hs : s.memoryWf) :
    (modPort p f s).memoryWf := by
  unfold modPort
  try dsimp only
  repeat' first
    | with_reducible first
      | exact hs | assumption | apply wf_ite | (apply wf_mk; dsimp only; apply cells_of)
    | split | intro _ _ _ | intro _ _ | intro _

theorem keeps_applySetting (sw : BitVec 12) (map : List Word) (up : Nat → Bool) (s : State) (hs : s.memoryWf) :
    (applySetting sw map up s).memoryWf := by
  unfold applySetting
  try dsimp only
  repeat' first
    | with_reducible first
      | exact hs | assumption | apply wf_ite | apply keeps_each | apply keeps_modLinkLane | apply keeps_modPort
      | (apply wf_mk; dsimp only; apply cells_of)
    | split | intro _ _ _ | intro _ _ | intro _

theorem keeps_reconfigure (sw : BitVec 12) (map : List Word) (up : Nat → Bool) (s : State) (hs : s.memoryWf) :
    (reconfigure sw map up s).memoryWf := by
  unfold reconfigure
  try dsimp only
  repeat' first
    | with_reducible first
      | exact hs | assumption | apply wf_ite | apply keeps_applySetting | (apply wf_mk; dsimp only; apply cells_of)
    | split | intro _ _ _ | intro _ _ | intro _

theorem keeps_applyRest (s : State) (hs : s.memoryWf) :
    (applyRest s).memoryWf := by
  unfold applyRest
  try dsimp only
  repeat' first
    | with_reducible first
      | exact hs | assumption | apply wf_ite | apply keeps_applySetting | (apply wf_mk; dsimp only; apply cells_of)
    | split | intro _ _ _ | intro _ _ | intro _

theorem keeps_modColl (f : Coll → Coll) (s : State) (hs : s.memoryWf) :
    (modColl f s).memoryWf := by
  unfold modColl
  try dsimp only
  repeat' first
    | with_reducible first
      | exact hs | assumption | apply wf_ite | (apply wf_mk; dsimp only; apply cells_of)
    | split | intro _ _ _ | intro _ _ | intro _

theorem keeps_announce (names : List Nat) (pausing : Bool) (s : State) (hs : s.memoryWf) :
    (announce names pausing s).memoryWf := by
  unfold announce
  try dsimp only
  repeat' first
    | with_reducible first
      | exact hs | assumption | apply wf_ite | apply keeps_each | apply keeps_emit | (apply wf_mk; dsimp only; apply cells_of)
    | split | intro _ _ _ | intro _ _ | intro _

theorem keeps_sendPort (c : Coll) (g : Graph) (p : Nat) (s : State) (hs : s.memoryWf) :
    (sendPort c g p s).memoryWf := by
  unfold sendPort
  try dsimp only
  repeat' first
    | with_reducible first
      | exact hs | assumption | apply wf_ite | apply keeps_each | apply keeps_emit | apply keeps_modColl
      | (apply wf_mk; dsimp only; apply cells_of)
    | split | intro _ _ _ | intro _ _ | intro _

theorem keeps_sendPhase (s : State) (hs : s.memoryWf) :
    (sendPhase s).memoryWf := by
  unfold sendPhase
  try dsimp only
  repeat' first
    | with_reducible first
      | exact hs | assumption | apply wf_ite | apply keeps_each | apply keeps_sendPort | (apply wf_mk; dsimp only; apply cells_of)
    | split | intro _ _ _ | intro _ _ | intro _

theorem keeps_resendOn (p f l : Nat) (s : State) (hs : s.memoryWf) :
    (resendOn p f l s).memoryWf := by
  unfold resendOn
  try dsimp only
  repeat' first
    | with_reducible first
      | exact hs | assumption | apply wf_ite | apply keeps_emit | apply keeps_modColl | (apply wf_mk; dsimp only; apply cells_of)
    | split | intro _ _ _ | intro _ _ | intro _

theorem keeps_sendRequests (s : State) (hs : s.memoryWf) :
    (sendRequests s).memoryWf := by
  unfold sendRequests
  try dsimp only
  repeat' first
    | with_reducible first
      | exact hs | assumption | apply wf_ite | apply keeps_each | apply keeps_emit | (apply wf_mk; dsimp only; apply cells_of)
    | split | intro _ _ _ | intro _ _ | intro _

theorem keeps_dropLanes (detects : Bool) (ls : List Nat) (s : State) (hs : s.memoryWf) :
    (dropLanes detects ls s).memoryWf := by
  unfold dropLanes
  try dsimp only
  repeat' first
    | with_reducible first
      | exact hs | assumption | apply wf_ite | apply keeps_announce | apply keeps_each | apply keeps_modColl | apply keeps_modLinkLane
      | apply keeps_raise | apply keeps_resendOn | (apply wf_mk; dsimp only; apply cells_of)
    | split | intro _ _ _ | intro _ _ | intro _

theorem keeps_startPhase (h : Nat) (s : State) (hs : s.memoryWf) :
    (startPhase h s).memoryWf := by
  unfold startPhase
  try dsimp only
  repeat' first
    | with_reducible first
      | exact hs | assumption | apply wf_ite | apply keeps_modColl | apply keeps_reconfigure | apply keeps_sendPhase
      | (apply wf_mk; dsimp only; apply cells_of)
    | split | intro _ _ _ | intro _ _ | intro _

theorem keeps_endColl (s : State) (hs : s.memoryWf) :
    (endColl s).memoryWf := by
  unfold endColl
  try dsimp only
  repeat' first
    | with_reducible first
      | exact hs | assumption | apply wf_ite | apply keeps_applyRest | apply keeps_reconfigure | (apply wf_mk; dsimp only; apply cells_of)
    | split | intro _ _ _ | intro _ _ | intro _

theorem keeps_dropColl (s : State) (hs : s.memoryWf) :
    (dropColl s).memoryWf := by
  unfold dropColl
  try dsimp only
  repeat' first
    | with_reducible first
      | exact hs | assumption | apply wf_ite | apply keeps_endColl | (apply wf_mk; dsimp only; apply cells_of)
    | split | intro _ _ _ | intro _ _ | intro _

theorem keeps_combineColl (c : Coll) (g : Graph) (s : State) (hs : s.memoryWf) :
    (combineColl c g s).memoryWf := by
  unfold combineColl
  try dsimp only
  repeat' first
    | with_reducible first
      | exact hs | assumption | apply wf_ite | apply keeps_elapse | apply keeps_endColl | apply keeps_taskEnd | apply keeps_taskWrite
      | (apply wf_mk; dsimp only; apply cells_of)
    | split | intro _ _ _ | intro _ _ | intro _

theorem keeps_nextPhase (s : State) (hs : s.memoryWf) :
    (nextPhase s).memoryWf := by
  unfold nextPhase
  try dsimp only
  repeat' first
    | with_reducible first
      | exact hs | assumption | apply wf_ite | apply keeps_combineColl | apply keeps_startPhase | (apply wf_mk; dsimp only; apply cells_of)
    | split | intro _ _ _ | intro _ _ | intro _

theorem keeps_execLinkEntry (slot task : Nat) (s : State) (hs : s.memoryWf) :
    KeepsOut (execLinkEntry slot task s) := by
  unfold execLinkEntry
  try dsimp only
  repeat' first
    | with_reducible first
      | exact hs | assumption | apply wf_ite | apply wf_iteOut | apply wf_next | apply keeps_advanceTo | apply keeps_noteInputs
      | apply keeps_startPhase | apply keeps_taskEnd | apply keeps_taskWrite | (apply wf_mk; dsimp only; apply cells_of)
    | split | intro _ _ _ | intro _ _ | intro _

theorem keeps_execPhaseWindowEnd (s : State) (hs : s.memoryWf) :
    KeepsOut (execPhaseWindowEnd s) := by
  unfold execPhaseWindowEnd
  try dsimp only
  repeat' first
    | with_reducible first
      | exact hs | assumption | apply wf_ite | apply wf_iteOut | apply wf_next | apply keeps_advanceTo | apply keeps_dropColl
      | apply keeps_nextPhase | apply keeps_raise | apply keeps_sendRequests | (apply wf_mk; dsimp only; apply cells_of)
    | split | intro _ _ _ | intro _ _ | intro _

theorem keeps_endLinkHold (t : Nat) (s : State) (hs : s.memoryWf) :
    (endLinkHold t s).memoryWf := by
  unfold endLinkHold
  try dsimp only
  repeat' first
    | with_reducible first
      | exact hs | assumption | apply wf_ite | (apply wf_mk; dsimp only; apply cells_of)
    | split | intro _ _ _ | intro _ _ | intro _

theorem keeps_execLinkHoldEnd (s : State) (hs : s.memoryWf) :
    KeepsOut (execLinkHoldEnd s) := by
  unfold execLinkHoldEnd
  try dsimp only
  repeat' first
    | with_reducible first
      | exact hs | assumption | apply wf_ite | apply wf_iteOut | apply wf_next | apply keeps_endLinkHold | apply keeps_nextPhase
      | (apply wf_mk; dsimp only; apply cells_of)
    | split | intro _ _ _ | intro _ _ | intro _

theorem keeps_execLinkHoldTimeout (s : State) (hs : s.memoryWf) :
    KeepsOut (execLinkHoldTimeout s) := by
  unfold execLinkHoldTimeout
  try dsimp only
  repeat' first
    | with_reducible first
      | exact hs | assumption | apply wf_ite | apply wf_iteOut | apply wf_next | apply keeps_advanceTo | apply keeps_endColl
      | apply keeps_endLinkHold | apply keeps_nextPhase | apply keeps_taskEnd | (apply wf_mk; dsimp only; apply cells_of)
    | split | intro _ _ _ | intro _ _ | intro _

theorem keeps_discardFrame (l : Nat) (f : LinkFrame) (s : State) (hs : s.memoryWf) :
    (discardFrame l f s).memoryWf := by
  unfold discardFrame
  try dsimp only
  repeat' first
    | with_reducible first
      | exact hs | assumption | apply wf_ite | apply keeps_modColl | apply keeps_modLinkLane | apply keeps_raise
      | (apply wf_mk; dsimp only; apply cells_of)
    | split | intro _ _ _ | intro _ _ | intro _

theorem keeps_takeReport (f : LinkFrame) (s : State) (hs : s.memoryWf) :
    (takeReport f s).memoryWf := by
  unfold takeReport
  try dsimp only
  repeat' first
    | with_reducible first
      | exact hs | assumption | apply wf_ite | apply keeps_modColl | (apply wf_mk; dsimp only; apply cells_of)
    | split | intro _ _ _ | intro _ _ | intro _

theorem keeps_takeAck (l : Nat) (f : LinkFrame) (s : State) (hs : s.memoryWf) :
    (takeAck l f s).memoryWf := by
  unfold takeAck
  try dsimp only
  repeat' first
    | with_reducible first
      | exact hs | assumption | apply wf_ite | apply keeps_modColl | apply keeps_sendPhase | (apply wf_mk; dsimp only; apply cells_of)
    | split | intro _ _ _ | intro _ _ | intro _

theorem keeps_awaitPeer (j : Nat) (s : State) (hs : s.memoryWf) :
    (awaitPeer j s).memoryWf := by
  unfold awaitPeer
  try dsimp only
  repeat' first
    | with_reducible first
      | exact hs | assumption | apply wf_ite | (apply wf_mk; dsimp only; apply cells_of)
    | split | intro _ _ _ | intro _ _ | intro _

theorem keeps_execFrameData (f : LinkFrame) (s : State) (hs : s.memoryWf) :
    KeepsOut (execFrameData f s) := by
  unfold execFrameData
  try dsimp only
  repeat' first
    | with_reducible first
      | exact hs | assumption | apply wf_ite | apply wf_iteOut | apply wf_next | apply keeps_awaitPeer | apply keeps_discardFrame
      | apply keeps_modColl | apply keeps_takeAck | apply keeps_takeReport | apply keeps_taskWrite
      | (apply wf_mk; dsimp only; apply cells_of)
    | split | intro _ _ _ | intro _ _ | intro _

theorem keeps_execFrameIdle (f : LinkFrame) (s : State) (hs : s.memoryWf) :
    KeepsOut (execFrameIdle f s) := by
  unfold execFrameIdle
  try dsimp only
  repeat' first
    | with_reducible first
      | exact hs | assumption | apply wf_ite | apply wf_iteOut | apply wf_next | apply keeps_discardFrame | apply keeps_takeAck
      | apply keeps_takeReport | (apply wf_mk; dsimp only; apply cells_of)
    | split | intro _ _ _ | intro _ _ | intro _

theorem keeps_execFrameResendReq (f : LinkFrame) (s : State) (hs : s.memoryWf) :
    KeepsOut (execFrameResendReq f s) := by
  unfold execFrameResendReq
  try dsimp only
  repeat' first
    | with_reducible first
      | exact hs | assumption | apply wf_ite | apply wf_iteOut | apply wf_next | apply keeps_discardFrame | apply keeps_dropLanes
      | apply keeps_modColl | apply keeps_resendOn | (apply wf_mk; dsimp only; apply cells_of)
    | split | intro _ _ _ | intro _ _ | intro _

theorem keeps_execFrameService (f : LinkFrame) (s : State) (hs : s.memoryWf) :
    KeepsOut (execFrameService f s) := by
  unfold execFrameService
  try dsimp only
  repeat' first
    | with_reducible first
      | exact hs | assumption | apply wf_ite | apply wf_iteOut | apply wf_next | apply keeps_discardFrame | apply keeps_dropLanes
      | apply keeps_each | apply keeps_modLinkLane | apply keeps_takeReport | (apply wf_mk; dsimp only; apply cells_of)
    | split | intro _ _ _ | intro _ _ | intro _

theorem keeps_execLaneLockLoss (l : Nat) (s : State) (hs : s.memoryWf) :
    KeepsOut (execLaneLockLoss l s) := by
  unfold execLaneLockLoss
  try dsimp only
  repeat' first
    | with_reducible first
      | exact hs | assumption | apply wf_ite | apply wf_iteOut | apply wf_next | apply keeps_dropLanes
      | (apply wf_mk; dsimp only; apply cells_of)
    | split | intro _ _ _ | intro _ _ | intro _

theorem keeps_execLaneDiscardLimit (l : Nat) (s : State) (hs : s.memoryWf) :
    KeepsOut (execLaneDiscardLimit l s) := by
  unfold execLaneDiscardLimit
  try dsimp only
  repeat' first
    | with_reducible first
      | exact hs | assumption | apply wf_ite | apply wf_iteOut | apply wf_next | apply keeps_dropLanes
      | (apply wf_mk; dsimp only; apply cells_of)
    | split | intro _ _ _ | intro _ _ | intro _

theorem keeps_execLanePauseEnd (l : Nat) (s : State) (hs : s.memoryWf) :
    KeepsOut (execLanePauseEnd l s) := by
  unfold execLanePauseEnd
  try dsimp only
  repeat' first
    | with_reducible first
      | exact hs | assumption | apply wf_ite | apply wf_iteOut | apply wf_next | apply keeps_advanceTo | apply keeps_modLinkLane
      | (apply wf_mk; dsimp only; apply cells_of)
    | split | intro _ _ _ | intro _ _ | intro _

theorem keeps_execReconfigurationDeadline (s : State) (hs : s.memoryWf) :
    KeepsOut (execReconfigurationDeadline s) := by
  unfold execReconfigurationDeadline
  try dsimp only
  repeat' first
    | with_reducible first
      | exact hs | assumption | apply wf_ite | apply wf_iteOut | apply wf_next | apply keeps_advanceTo | apply keeps_dropLanes
      | apply keeps_each | apply keeps_modColl | apply keeps_raise | apply keeps_sendPhase | (apply wf_mk; dsimp only; apply cells_of)
    | split | intro _ _ _ | intro _ _ | intro _

theorem keeps_groupState (s : State) (hs : s.memoryWf) :
    (groupState s).memoryWf := by
  unfold groupState
  try dsimp only
  repeat' first
    | with_reducible first
      | exact hs | assumption | apply wf_ite | (apply wf_mk; dsimp only; apply cells_of)
    | split | intro _ _ _ | intro _ _ | intro _

theorem keeps_trainPort (p : Nat) (s : State) (hs : s.memoryWf) :
    (trainPort p s).memoryWf := by
  unfold trainPort
  try dsimp only
  repeat' first
    | with_reducible first
      | exact hs | assumption | apply wf_ite | apply keeps_each | apply keeps_modLinkLane | apply keeps_modPort
      | (apply wf_mk; dsimp only; apply cells_of)
    | split | intro _ _ _ | intro _ _ | intro _

theorem keeps_trainPorts (mask : BitVec 4) (s : State) (hs : s.memoryWf) :
    (trainPorts mask s).memoryWf := by
  unfold trainPorts
  try dsimp only
  repeat' first
    | with_reducible first
      | exact hs | assumption | apply wf_ite | apply keeps_each | apply keeps_groupState | apply keeps_trainPort
      | (apply wf_mk; dsimp only; apply cells_of)
    | split | intro _ _ _ | intro _ _ | intro _

theorem keeps_execPortLightArrival (p : Nat) (s : State) (hs : s.memoryWf) :
    KeepsOut (execPortLightArrival p s) := by
  unfold execPortLightArrival
  try dsimp only
  repeat' first
    | with_reducible first
      | exact hs | assumption | apply wf_ite | apply wf_iteOut | apply wf_next | apply keeps_modPort | apply keeps_trainPort
      | (apply wf_mk; dsimp only; apply cells_of)
    | split | intro _ _ _ | intro _ _ | intro _

theorem keeps_barFailed (p : Nat) (o : TrainObs) (s : State) (hs : s.memoryWf) :
    (barFailed p o s).memoryWf := by
  unfold barFailed
  try dsimp only
  repeat' first
    | with_reducible first
      | exact hs | assumption | apply wf_ite | apply keeps_each | apply keeps_modLinkLane | (apply wf_mk; dsimp only; apply cells_of)
    | split | intro _ _ _ | intro _ _ | intro _

theorem keeps_execPortTrainingDone (p : Nat) (o : TrainObs) (s : State) (hs : s.memoryWf) :
    KeepsOut (execPortTrainingDone p o s) := by
  unfold execPortTrainingDone
  try dsimp only
  repeat' first
    | with_reducible first
      | exact hs | assumption | apply wf_ite | apply wf_iteOut | apply wf_next | apply keeps_barFailed | apply keeps_each
      | apply keeps_groupState | apply keeps_modLinkLane | apply keeps_modPort | apply keeps_raise | apply keeps_trialRevert
      | (apply wf_mk; dsimp only; apply cells_of)
    | split | intro _ _ _ | intro _ _ | intro _

theorem keeps_parkPort (p : Nat) (s : State) (hs : s.memoryWf) :
    (parkPort p s).memoryWf := by
  unfold parkPort
  try dsimp only
  repeat' first
    | with_reducible first
      | exact hs | assumption | apply wf_ite | apply keeps_dropLanes | apply keeps_modPort | (apply wf_mk; dsimp only; apply cells_of)
    | split | intro _ _ _ | intro _ _ | intro _

theorem keeps_execLossOfSignal (p : Nat) (s : State) (hs : s.memoryWf) :
    KeepsOut (execLossOfSignal p s) := by
  unfold execLossOfSignal
  try dsimp only
  repeat' first
    | with_reducible first
      | exact hs | assumption | apply wf_ite | apply wf_iteOut | apply wf_next | apply keeps_groupState | apply keeps_modPort
      | apply keeps_parkPort | apply keeps_raise | (apply wf_mk; dsimp only; apply cells_of)
    | split | intro _ _ _ | intro _ _ | intro _

theorem keeps_execAprProbe (p : Nat) (s : State) (hs : s.memoryWf) :
    KeepsOut (execAprProbe p s) := by
  unfold execAprProbe
  try dsimp only
  repeat' first
    | with_reducible first
      | exact hs | assumption | apply wf_ite | apply wf_iteOut | apply wf_next | apply keeps_emit | apply keeps_modPort
      | (apply wf_mk; dsimp only; apply cells_of)
    | split | intro _ _ _ | intro _ _ | intro _

theorem keeps_execPortPowerMonitorTrip (p : Nat) (s : State) (hs : s.memoryWf) :
    KeepsOut (execPortPowerMonitorTrip p s) := by
  unfold execPortPowerMonitorTrip
  try dsimp only
  repeat' first
    | with_reducible first
      | exact hs | assumption | apply wf_ite | apply wf_iteOut | apply wf_next | apply keeps_parkPort
      | (apply wf_mk; dsimp only; apply cells_of)
    | split | intro _ _ _ | intro _ _ | intro _

theorem keeps_retestLane (passes : List Nat) (l : Nat) (s : State) (hs : s.memoryWf) :
    (retestLane passes l s).memoryWf := by
  unfold retestLane
  try dsimp only
  repeat' first
    | with_reducible first
      | exact hs | assumption | apply wf_ite | apply keeps_modLinkLane | apply keeps_raise | (apply wf_mk; dsimp only; apply cells_of)
    | split | intro _ _ _ | intro _ _ | intro _

theorem keeps_retestLanes (passes : List Nat) (s : State) (hs : s.memoryWf) :
    (retestLanes passes s).memoryWf := by
  unfold retestLanes
  try dsimp only
  repeat' first
    | with_reducible first
      | exact hs | assumption | apply wf_ite | apply keeps_each | apply keeps_retestLane | (apply wf_mk; dsimp only; apply cells_of)
    | split | intro _ _ _ | intro _ _ | intro _

theorem keeps_portDark (p : Nat) (s : State) (hs : s.memoryWf) :
    (portDark p s).memoryWf := by
  unfold portDark
  try dsimp only
  repeat' first
    | with_reducible first
      | exact hs | assumption | apply wf_ite | apply keeps_modPort | apply keeps_raise | (apply wf_mk; dsimp only; apply cells_of)
    | split | intro _ _ _ | intro _ _ | intro _

theorem keeps_restWritten (s : State) (hs : s.memoryWf) :
    (restWritten s).memoryWf := by
  unfold restWritten
  try dsimp only
  repeat' first
    | with_reducible first
      | exact hs | assumption | apply wf_ite | apply keeps_applyRest | apply keeps_each | apply keeps_groupState | apply keeps_modPort
      | apply keeps_portDark | (apply wf_mk; dsimp only; apply cells_of)
    | split | intro _ _ _ | intro _ _ | intro _

/-! ### Machine/Light.lean -/

theorem keeps_modSource (i : Nat) (f : Source → Source) (s : State) (hs : s.memoryWf) :
    (modSource i f s).memoryWf := by
  unfold modSource
  try dsimp only
  repeat' first
    | with_reducible first
      | exact hs | assumption | apply wf_ite | (apply wf_mk; dsimp only; apply cells_of)
    | split | intro _ _ _ | intro _ _ | intro _

theorem keeps_clsEvent (b i : Nat) (s : State) (hs : s.memoryWf) :
    (clsEvent b i s).memoryWf := by
  unfold clsEvent
  try dsimp only
  repeat' first
    | with_reducible first
      | exact hs | assumption | apply wf_ite | apply keeps_raise | (apply wf_mk; dsimp only; apply cells_of)
    | split | intro _ _ _ | intro _ _ | intro _

theorem keeps_lockSpare (k i : Nat) (s : State) (hs : s.memoryWf) :
    (lockSpare k i s).memoryWf := by
  unfold lockSpare
  try dsimp only
  repeat' first
    | with_reducible first
      | exact hs | assumption | apply wf_ite | apply keeps_modSource | (apply wf_mk; dsimp only; apply cells_of)
    | split | intro _ _ _ | intro _ _ | intro _

theorem keeps_fadeCheck (s : State) (hs : s.memoryWf) :
    (fadeCheck s).memoryWf := by
  unfold fadeCheck
  try dsimp only
  repeat' first
    | with_reducible first
      | exact hs | assumption | apply wf_ite | apply keeps_clsEvent | apply keeps_each | apply keeps_lockSpare | apply keeps_modSource
      | (apply wf_mk; dsimp only; apply cells_of)
    | split | intro _ _ _ | intro _ _ | intro _

theorem keeps_takeoverRequest (i : Nat) (s : State) (hs : s.memoryWf) :
    (takeoverRequest i s).memoryWf := by
  unfold takeoverRequest
  try dsimp only
  repeat' first
    | with_reducible first
      | exact hs | assumption | apply wf_ite | apply keeps_clsEvent | (apply wf_mk; dsimp only; apply cells_of)
    | split | intro _ _ _ | intro _ _ | intro _

theorem keeps_takeover (noTime : List Nat) (dark i : Nat) (s : State) (hs : s.memoryWf) :
    (takeover noTime dark i s).memoryWf := by
  unfold takeover
  try dsimp only
  repeat' first
    | with_reducible first
      | exact hs | assumption | apply wf_ite | apply keeps_announce | apply keeps_clsEvent | apply keeps_modSource
      | (apply wf_mk; dsimp only; apply cells_of)
    | split | intro _ _ _ | intro _ _ | intro _

theorem keeps_takeovers (noTime : List Nat) (dark : Nat) (s : State) (hs : s.memoryWf) :
    (takeovers noTime dark s).memoryWf := by
  unfold takeovers
  try dsimp only
  repeat' first
    | with_reducible first
      | exact hs | assumption | apply wf_ite | apply keeps_each | apply keeps_takeover | (apply wf_mk; dsimp only; apply cells_of)
    | split | intro _ _ _ | intro _ _ | intro _

theorem keeps_execSourceWorn (i : Nat) (s : State) (hs : s.memoryWf) :
    KeepsOut (execSourceWorn i s) := by
  unfold execSourceWorn
  try dsimp only
  repeat' first
    | with_reducible first
      | exact hs | assumption | apply wf_ite | apply wf_iteOut | apply wf_next | apply keeps_clsEvent | apply keeps_modSource
      | (apply wf_mk; dsimp only; apply cells_of)
    | split | intro _ _ _ | intro _ _ | intro _

theorem keeps_lightHoldMayEnd (s : State) (hs : s.memoryWf) :
    (lightHoldMayEnd s).memoryWf := by
  unfold lightHoldMayEnd
  try dsimp only
  repeat' first
    | with_reducible first
      | exact hs | assumption | apply wf_ite | (apply wf_mk; dsimp only; apply cells_of)
    | split | intro _ _ _ | intro _ _ | intro _

theorem keeps_setSource (q : Nat × Nat × Int) (s : State) (hs : s.memoryWf) :
    (setSource q s).memoryWf := by
  unfold setSource
  try dsimp only
  repeat' first
    | with_reducible first
      | exact hs | assumption | apply wf_ite | apply keeps_modSource | (apply wf_mk; dsimp only; apply cells_of)
    | split | intro _ _ _ | intro _ _ | intro _

theorem keeps_darkArcade (a : Nat) (s : State) (hs : s.memoryWf) :
    (darkArcade a s).memoryWf := by
  unfold darkArcade
  try dsimp only
  repeat' first
    | with_reducible first
      | exact hs | assumption | apply wf_ite | apply keeps_beginSubstHold | apply keeps_clsEvent | apply keeps_each
      | apply keeps_lightHoldMayEnd | apply keeps_modStall | apply keeps_settleReplays | apply keeps_substitute
      | (apply wf_mk; dsimp only; apply cells_of)
    | split | intro _ _ _ | intro _ _ | intro _

theorem keeps_execLightTrip (a : Nat) (s : State) (hs : s.memoryWf) :
    KeepsOut (execLightTrip a s) := by
  unfold execLightTrip
  try dsimp only
  repeat' first
    | with_reducible first
      | exact hs | assumption | apply wf_ite | apply wf_iteOut | apply wf_next | apply keeps_clsEvent | apply keeps_darkArcade
      | apply keeps_modSource | (apply wf_mk; dsimp only; apply cells_of)
    | split | intro _ _ _ | intro _ _ | intro _

theorem keeps_execSpareLocked (i : Nat) (s : State) (hs : s.memoryWf) :
    KeepsOut (execSpareLocked i s) := by
  unfold execSpareLocked
  try dsimp only
  repeat' first
    | with_reducible first
      | exact hs | assumption | apply wf_ite | apply wf_iteOut | apply wf_next | apply keeps_each | apply keeps_modLinkLane
      | apply keeps_modSource | (apply wf_mk; dsimp only; apply cells_of)
    | split | intro _ _ _ | intro _ _ | intro _

theorem keeps_execLightHoldEnd (a : Nat) (s : State) (hs : s.memoryWf) :
    KeepsOut (execLightHoldEnd a s) := by
  unfold execLightHoldEnd
  try dsimp only
  repeat' first
    | with_reducible first
      | exact hs | assumption | apply wf_ite | apply wf_iteOut | apply wf_next | apply keeps_lightHoldMayEnd | apply keeps_modSource
      | (apply wf_mk; dsimp only; apply cells_of)
    | split | intro _ _ _ | intro _ _ | intro _

theorem keeps_execSpareLockFail (a : Nat) (s : State) (hs : s.memoryWf) :
    KeepsOut (execSpareLockFail a s) := by
  unfold execSpareLockFail
  try dsimp only
  repeat' first
    | with_reducible first
      | exact hs | assumption | apply wf_ite | apply wf_iteOut | apply wf_next | apply keeps_advanceTo | apply keeps_clsEvent
      | apply keeps_darkArcade | apply keeps_modSource | (apply wf_mk; dsimp only; apply cells_of)
    | split | intro _ _ _ | intro _ _ | intro _

theorem keeps_execSpareSourceFail (i : Nat) (s : State) (hs : s.memoryWf) : KeepsOut (execSpareSourceFail i s) := by
  unfold execSpareSourceFail
  with_reducible refine wf_iteOut ?_ (wf_next hs)
  have h := keeps_clsEvent 4 i _ (keeps_modSource (partnerOf i) (fun y => { y with due := none }) _
    (keeps_modSource i (fun y => { y with state := .failed, due := none }) s hs))
  extract_lets s1 s2
  have h2 : s2.memoryWf := h
  clear_value s2
  with_reducible exact wf_iteOut (wf_next (keeps_darkArcade _ _ h2)) (wf_next h2)

theorem keeps_execLinkSourceFail (i : Nat) (s : State) (hs : s.memoryWf) : KeepsOut (execLinkSourceFail i s) := by
  unfold execLinkSourceFail
  with_reducible refine wf_iteOut (wf_next hs) ?_
  extract_lets sp s1 c s2 s3 s4 s5 s6
  have h1 : s1.memoryWf := keeps_modSource _ _ s hs
  have h2 : s2.memoryWf := wf_mk (cells_of h1)
  clear_value s2
  have h3 : s3.memoryWf := keeps_clsEvent _ _ _ h2
  clear_value s3
  have h4 : s4.memoryWf := keeps_dropLanes _ _ _ h3
  clear_value s4
  have h5 : s5.memoryWf := keeps_each _ _ (fun a s h => keeps_modLinkLane a _ s h) _ h4
  clear_value s5
  have h6 : s6.memoryWf := keeps_modSource _ _ _ h5
  clear_value s6
  split
  · with_reducible exact wf_next (keeps_modSource _ _ _ h5)
  · with_reducible exact wf_next (keeps_each _ _ (fun a s h => keeps_modLinkLane a _ s h) _ h6)
  · with_reducible exact wf_next h5

theorem keeps_settlePair (fails : List Nat) (a : Nat) (s : State) (hs : s.memoryWf) :
    (settlePair fails a s).memoryWf := by
  unfold settlePair
  try dsimp only
  repeat' first
    | with_reducible first
      | exact hs | assumption | apply wf_ite | apply keeps_modSource | (apply wf_mk; dsimp only; apply cells_of)
    | split | intro _ _ _ | intro _ _ | intro _

theorem keeps_bringUpSources (fails : List Nat) (starts : List (Nat × Nat)) (s : State) (hs : s.memoryWf) :
    (bringUpSources fails starts s).memoryWf := by
  unfold bringUpSources
  try dsimp only
  repeat' first
    | with_reducible first
      | exact hs | assumption | apply wf_ite | apply keeps_each | apply keeps_modSource | apply keeps_settlePair
      | (apply wf_mk; dsimp only; apply cells_of)
    | split | intro _ _ _ | intro _ _ | intro _

theorem keeps_execSourceLockTimeout (i : Nat) (s : State) (hs : s.memoryWf) :
    KeepsOut (execSourceLockTimeout i s) := by
  unfold execSourceLockTimeout
  try dsimp only
  repeat' first
    | with_reducible first
      | exact hs | assumption | apply wf_ite | apply wf_iteOut | apply wf_next | apply keeps_clsEvent | apply keeps_modSource
      | (apply wf_mk; dsimp only; apply cells_of)
    | split | intro _ _ _ | intro _ _ | intro _

theorem keeps_sourcesOff (s : State) (hs : s.memoryWf) :
    (sourcesOff s).memoryWf := by
  unfold sourcesOff
  try dsimp only
  repeat' first
    | with_reducible first
      | exact hs | assumption | apply wf_ite | (apply wf_mk; dsimp only; apply cells_of)
    | split | intro _ _ _ | intro _ _ | intro _

theorem keeps_sourcesResume (s : State) (hs : s.memoryWf) :
    (sourcesResume s).memoryWf := by
  unfold sourcesResume
  try dsimp only
  repeat' first
    | with_reducible first
      | exact hs | assumption | apply wf_ite | (apply wf_mk; dsimp only; apply cells_of)
    | split | intro _ _ _ | intro _ _ | intro _

/-! ### Machine/Temps.lean -/

theorem keeps_modSensor (i : Nat) (f : Sensor → Sensor) (s : State) (hs : s.memoryWf) :
    (modSensor i f s).memoryWf := by
  unfold modSensor
  try dsimp only
  repeat' first
    | with_reducible first
      | exact hs | assumption | apply wf_ite | (apply wf_mk; dsimp only; apply cells_of)
    | split | intro _ _ _ | intro _ _ | intro _

theorem keeps_modDomain (d : Nat) (f : Domain → Domain) (s : State) (hs : s.memoryWf) :
    (modDomain d f s).memoryWf := by
  unfold modDomain
  try dsimp only
  repeat' first
    | with_reducible first
      | exact hs | assumption | apply wf_ite | (apply wf_mk; dsimp only; apply cells_of)
    | split | intro _ _ _ | intro _ _ | intro _

/-! ### Machine/Cal.lean -/

theorem keeps_modStallCal (g : Nat) (f : StallCal → StallCal) (s : State) (hs : s.memoryWf) :
    (modStallCal g f s).memoryWf := by
  unfold modStallCal
  try dsimp only
  repeat' first
    | with_reducible first
      | exact hs | assumption | apply wf_ite | (apply wf_mk; dsimp only; apply cells_of)
    | split | intro _ _ _ | intro _ _ | intro _

theorem keeps_modZone (z : Nat) (f : Zone → Zone) (s : State) (hs : s.memoryWf) :
    (modZone z f s).memoryWf := by
  unfold modZone
  try dsimp only
  repeat' first
    | with_reducible first
      | exact hs | assumption | apply wf_ite | (apply wf_mk; dsimp only; apply cells_of)
    | split | intro _ _ _ | intro _ _ | intro _

theorem keeps_latchFigures (s : State) (hs : s.memoryWf) :
    (latchFigures s).memoryWf := by
  unfold latchFigures
  try dsimp only
  repeat' first
    | with_reducible first
      | exact hs | assumption | apply wf_ite | (apply wf_mk; dsimp only; apply cells_of)
    | split | intro _ _ _ | intro _ _ | intro _

theorem keeps_measureRows (s : State) (hs : s.memoryWf) :
    (measureRows s).memoryWf := by
  unfold measureRows
  try dsimp only
  repeat' first
    | with_reducible first
      | exact hs | assumption | apply wf_ite | (apply wf_mk; dsimp only; apply cells_of)
    | split | intro _ _ _ | intro _ _ | intro _

theorem keeps_countLow (s : State) (hs : s.memoryWf) :
    (countLow s).memoryWf := by
  unfold countLow
  try dsimp only
  repeat' first
    | with_reducible first
      | exact hs | assumption | apply wf_ite | (apply wf_mk; dsimp only; apply cells_of)
    | split | intro _ _ _ | intro _ _ | intro _

theorem keeps_execWeakRow (g row : Nat) (s : State) (hs : s.memoryWf) :
    KeepsOut (execWeakRow g row s) := by
  unfold execWeakRow
  try dsimp only
  repeat' first
    | with_reducible first
      | exact hs | assumption | apply wf_ite | apply wf_iteOut | apply wf_next | apply keeps_modStall | apply keeps_probeRequest
      | apply keeps_raise | (apply wf_mk; dsimp only; apply cells_of)
    | split | intro _ _ _ | intro _ _ | intro _

theorem keeps_failStall (o : CalObs) (g : Nat) (s : State) (hs : s.memoryWf) :
    (failStall o g s).memoryWf := by
  unfold failStall
  try dsimp only
  repeat' first
    | with_reducible first
      | exact hs | assumption | apply wf_ite | apply keeps_leaveLine | apply keeps_modStall | apply keeps_pmaEvent | apply keeps_retireStall
      | apply keeps_settleLine | (apply wf_mk; dsimp only; apply cells_of)
    | split | intro _ _ _ | intro _ _ | intro _

theorem keeps_failRows (o : CalObs) (s : State) (hs : s.memoryWf) :
    (failRows o s).memoryWf := by
  unfold failRows
  try dsimp only
  repeat' first
    | with_reducible first
      | exact hs | assumption | apply wf_ite | apply keeps_each | apply keeps_failStall | (apply wf_mk; dsimp only; apply cells_of)
    | split | intro _ _ _ | intro _ _ | intro _

theorem keeps_setArcPower (read : Nat → Option Nat) (a : Nat) (s : State) (hs : s.memoryWf) :
    (setArcPower read a s).memoryWf := by
  unfold setArcPower
  try dsimp only
  repeat' first
    | with_reducible first
      | exact hs | assumption | apply wf_ite | (apply wf_mk; dsimp only; apply cells_of)
    | split | intro _ _ _ | intro _ _ | intro _

theorem keeps_putMonRecord (r : MonRecord) (s : State) (hs : s.memoryWf) :
    (putMonRecord r s).memoryWf := by
  unfold putMonRecord
  try dsimp only
  repeat' first
    | with_reducible first
      | exact hs | assumption | apply wf_ite | apply keeps_moduleRecord | (apply wf_mk; dsimp only; apply cells_of)
    | split | intro _ _ _ | intro _ _ | intro _

theorem keeps_commissionFirst (o : CalObs) (s : State) (hs : s.memoryWf) :
    (commissionFirst o s).memoryWf := by
  unfold commissionFirst
  try dsimp only
  repeat' first
    | with_reducible first
      | exact hs | assumption | apply wf_ite | apply keeps_each | apply keeps_modStallCal | apply keeps_putMonRecord
      | (apply wf_mk; dsimp only; apply cells_of)
    | split | intro _ _ _ | intro _ _ | intro _

theorem keeps_editionBuilt (o : CalObs) (e : Edition) (s : State) (hs : s.memoryWf) :
    (editionBuilt o e s).memoryWf := by
  unfold editionBuilt
  try dsimp only
  repeat' first
    | with_reducible first
      | exact hs | assumption | apply wf_ite | apply keeps_commissionFirst | apply keeps_each | apply keeps_latchFigures | apply keeps_raise
      | apply keeps_setArcPower | (apply wf_mk; dsimp only; apply cells_of)
    | split | intro _ _ _ | intro _ _ | intro _

theorem keeps_setMon (n : Nat) (m : Mon) (s : State) (hs : s.memoryWf) :
    (setMon n m s).memoryWf := by
  unfold setMon
  try dsimp only
  repeat' first
    | with_reducible first
      | exact hs | assumption | apply wf_ite | (apply wf_mk; dsimp only; apply cells_of)
    | split | intro _ _ _ | intro _ _ | intro _

theorem keeps_enterLoop (z : Nat) (s : State) (hs : s.memoryWf) :
    (enterLoop z s).memoryWf := by
  unfold enterLoop
  try dsimp only
  repeat' first
    | with_reducible first
      | exact hs | assumption | apply wf_ite | apply keeps_modZone | apply keeps_raise | (apply wf_mk; dsimp only; apply cells_of)
    | split | intro _ _ _ | intro _ _ | intro _

theorem keeps_heaterFeed (i : Nat) (s : State) (hs : s.memoryWf) :
    (heaterFeed i s).memoryWf := by
  unfold heaterFeed
  try dsimp only
  repeat' first
    | with_reducible first
      | exact hs | assumption | apply wf_ite | apply keeps_each | apply keeps_modZone | (apply wf_mk; dsimp only; apply cells_of)
    | split | intro _ _ _ | intro _ _ | intro _

theorem keeps_zonesSet (s : State) (hs : s.memoryWf) :
    (zonesSet s).memoryWf := by
  unfold zonesSet
  try dsimp only
  repeat' first
    | with_reducible first
      | exact hs | assumption | apply wf_ite | apply keeps_each | apply keeps_enterLoop | apply keeps_modZone
      | (apply wf_mk; dsimp only; apply cells_of)
    | split | intro _ _ _ | intro _ _ | intro _

theorem keeps_startupCalibration (o : CalObs) (s : State) (hs : s.memoryWf) :
    (startupCalibration o s).memoryWf := by
  unfold startupCalibration
  try dsimp only
  repeat' first
    | with_reducible first
      | exact hs | assumption | apply wf_ite | apply keeps_editionBuilt | apply keeps_failRows | apply keeps_zonesSet
      | (apply wf_mk; dsimp only; apply cells_of)
    | split | intro _ _ _ | intro _ _ | intro _

theorem keeps_execStartupCalibration (s : State) (hs : s.memoryWf) :
    KeepsOut (execStartupCalibration s) := by
  unfold execStartupCalibration
  try dsimp only
  repeat' first
    | with_reducible first
      | exact hs | assumption | apply wf_ite | apply wf_iteOut | apply wf_next | (apply wf_mk; dsimp only; apply cells_of)
    | split | intro _ _ _ | intro _ _ | intro _

theorem keeps_execStartupCalibrationDone (o : CalObs) (s : State) (hs : s.memoryWf) :
    KeepsOut (execStartupCalibrationDone o s) := by
  unfold execStartupCalibrationDone
  try dsimp only
  repeat' first
    | with_reducible first
      | exact hs | assumption | apply wf_ite | apply wf_iteOut | apply wf_next | apply keeps_startupCalibration | apply keeps_trialRevert
      | (apply wf_mk; dsimp only; apply cells_of)
    | split | intro _ _ _ | intro _ _ | intro _

theorem keeps_execReacquisition (s : State) (hs : s.memoryWf) :
    KeepsOut (execReacquisition s) := by
  unfold execReacquisition
  try dsimp only
  repeat' first
    | with_reducible first
      | exact hs | assumption | apply wf_ite | apply wf_iteOut | apply wf_next | (apply wf_mk; dsimp only; apply cells_of)
    | split | intro _ _ _ | intro _ _ | intro _

theorem keeps_reacquire (o : CalObs) (s : State) (hs : s.memoryWf) :
    (reacquire o s).memoryWf := by
  unfold reacquire
  try dsimp only
  repeat' first
    | with_reducible first
      | exact hs | assumption | apply wf_ite | apply keeps_editionBuilt | apply keeps_failRows | apply keeps_startupCalibration
      | (apply wf_mk; dsimp only; apply cells_of)
    | split | intro _ _ _ | intro _ _ | intro _

theorem keeps_execReacquisitionDone (o : CalObs) (s : State) (hs : s.memoryWf) : KeepsOut (execReacquisitionDone o s) := by
  unfold execReacquisitionDone
  with_reducible refine wf_iteOut (wf_next hs) ?_
  extract_lets s1
  have h1 : s1.memoryWf := wf_ite (keeps_trialRevert _ _ hs) hs
  clear_value s1
  with_reducible refine wf_iteOut (wf_next ?_) (wf_next (keeps_editionBuilt _ _ _ (keeps_failRows _ _ h1)))
  exact h1

theorem keeps_zoneScan (z : Nat) (s : State) (hs : s.memoryWf) :
    (zoneScan z s).memoryWf := by
  unfold zoneScan
  try dsimp only
  repeat' first
    | with_reducible first
      | exact hs | assumption | apply wf_ite | apply keeps_enterLoop | apply keeps_modZone | (apply wf_mk; dsimp only; apply cells_of)
    | split | intro _ _ _ | intro _ _ | intro _

theorem keeps_dropLoop (g : Nat) (s : State) (hs : s.memoryWf) :
    (dropLoop g s).memoryWf := by
  unfold dropLoop
  try dsimp only
  repeat' first
    | with_reducible first
      | exact hs | assumption | apply wf_ite | apply keeps_modStallCal | (apply wf_mk; dsimp only; apply cells_of)
    | split | intro _ _ _ | intro _ _ | intro _

theorem keeps_dropHeaters (s : State) (hs : s.memoryWf) :
    (dropHeaters s).memoryWf := by
  unfold dropHeaters
  try dsimp only
  repeat' first
    | with_reducible first
      | exact hs | assumption | apply wf_ite | (apply wf_mk; dsimp only; apply cells_of)
    | split | intro _ _ _ | intro _ _ | intro _

theorem keeps_useSample (n : Nat) (s : State) (hs : s.memoryWf) :
    (useSample n s).memoryWf := by
  unfold useSample
  try dsimp only
  repeat' first
    | with_reducible first
      | exact hs | assumption | apply wf_ite | apply keeps_dropLoop | apply keeps_modSource | apply keeps_setArcPower | apply keeps_zoneScan
      | (apply wf_mk; dsimp only; apply cells_of)
    | split | intro _ _ _ | intro _ _ | intro _

theorem keeps_execMonitorAdcSample (n raw : Nat) (s : State) (hs : s.memoryWf) :
    KeepsOut (execMonitorAdcSample n raw s) := by
  unfold execMonitorAdcSample
  try dsimp only
  repeat' first
    | with_reducible first
      | exact hs | assumption | apply wf_ite | apply wf_iteOut | apply wf_next | apply keeps_setMon | apply keeps_useSample
      | (apply wf_mk; dsimp only; apply cells_of)
    | split | intro _ _ _ | intro _ _ | intro _

theorem keeps_execMonitorInputFault (n : Nat) (s : State) (hs : s.memoryWf) :
    KeepsOut (execMonitorInputFault n s) := by
  unfold execMonitorInputFault
  try dsimp only
  repeat' first
    | with_reducible first
      | exact hs | assumption | apply wf_ite | apply wf_iteOut | apply wf_next | apply keeps_modZone | apply keeps_raise
      | apply keeps_setMon | (apply wf_mk; dsimp only; apply cells_of)
    | split | intro _ _ _ | intro _ _ | intro _

theorem keeps_countCalm (s : State) (hs : s.memoryWf) :
    (countCalm s).memoryWf := by
  unfold countCalm
  try dsimp only
  repeat' first
    | with_reducible first
      | exact hs | assumption | apply wf_ite | (apply wf_mk; dsimp only; apply cells_of)
    | split | intro _ _ _ | intro _ _ | intro _

theorem keeps_execZoneLoopExit (z : Nat) (s : State) (hs : s.memoryWf) :
    KeepsOut (execZoneLoopExit z s) := by
  unfold execZoneLoopExit
  try dsimp only
  repeat' first
    | with_reducible first
      | exact hs | assumption | apply wf_ite | apply wf_iteOut | apply wf_next | apply keeps_modZone
      | (apply wf_mk; dsimp only; apply cells_of)
    | split | intro _ _ _ | intro _ _ | intro _

theorem keeps_takeReading (o : List ReadDev) (code : BitVec 2) (g : Nat) (s : State) (hs : s.memoryWf) :
    (takeReading o code g s).memoryWf := by
  unfold takeReading
  try dsimp only
  repeat' first
    | with_reducible first
      | exact hs | assumption | apply wf_ite | apply keeps_modStallCal | (apply wf_mk; dsimp only; apply cells_of)
    | split | intro _ _ _ | intro _ _ | intro _

theorem keeps_readStalls (o : SlotObs) (s : State) (hs : s.memoryWf) :
    (readStalls o s).memoryWf := by
  unfold readStalls
  try dsimp only
  repeat' first
    | with_reducible first
      | exact hs | assumption | apply wf_ite | apply keeps_each | apply keeps_modStallCal | apply keeps_takeReading
      | (apply wf_mk; dsimp only; apply cells_of)
    | split | intro _ _ _ | intro _ _ | intro _

theorem keeps_skipReadings (s : State) (hs : s.memoryWf) :
    (skipReadings s).memoryWf := by
  unfold skipReadings
  try dsimp only
  repeat' first
    | with_reducible first
      | exact hs | assumption | apply wf_ite | (apply wf_mk; dsimp only; apply cells_of)
    | split | intro _ _ _ | intro _ _ | intro _

theorem keeps_noteFits (fs : List StallFit) (s : State) (hs : s.memoryWf) :
    (noteFits fs s).memoryWf := by
  unfold noteFits
  try dsimp only
  repeat' first
    | with_reducible first
      | exact hs | assumption | apply wf_ite | apply keeps_each | apply keeps_modStall | apply keeps_modStallCal | apply keeps_probeRequest
      | apply keeps_raise | (apply wf_mk; dsimp only; apply cells_of)
    | split | intro _ _ _ | intro _ _ | intro _

theorem keeps_fitOrdinary (s : State) (hs : s.memoryWf) :
    (fitOrdinary s).memoryWf := by
  unfold fitOrdinary
  try dsimp only
  repeat' first
    | with_reducible first
      | exact hs | assumption | apply wf_ite | apply keeps_noteFits | (apply wf_mk; dsimp only; apply cells_of)
    | split | intro _ _ _ | intro _ _ | intro _

theorem keeps_fitUrgent (s : State) (hs : s.memoryWf) :
    (fitUrgent s).memoryWf := by
  unfold fitUrgent
  try dsimp only
  repeat' first
    | with_reducible first
      | exact hs | assumption | apply wf_ite | apply keeps_noteFits | apply keeps_raise | (apply wf_mk; dsimp only; apply cells_of)
    | split | intro _ _ _ | intro _ _ | intro _

theorem keeps_markPending (s : State) (hs : s.memoryWf) :
    (markPending s).memoryWf := by
  unfold markPending
  try dsimp only
  repeat' first
    | with_reducible first
      | exact hs | assumption | apply wf_ite | apply keeps_raise | (apply wf_mk; dsimp only; apply cells_of)
    | split | intro _ _ _ | intro _ _ | intro _

theorem keeps_spareCheck (o : SlotObs) (h : Nat) (s : State) (hs : s.memoryWf) :
    (spareCheck o h s).memoryWf := by
  unfold spareCheck
  try dsimp only
  repeat' first
    | with_reducible first
      | exact hs | assumption | apply wf_ite | apply keeps_modStall | apply keeps_modStallCal | apply keeps_takeReading
      | (apply wf_mk; dsimp only; apply cells_of)
    | split | intro _ _ _ | intro _ _ | intro _

theorem keeps_spareChecks (o : SlotObs) (s : State) (hs : s.memoryWf) :
    (spareChecks o s).memoryWf := by
  unfold spareChecks
  try dsimp only
  repeat' first
    | with_reducible first
      | exact hs | assumption | apply wf_ite | apply keeps_each | apply keeps_spareCheck | (apply wf_mk; dsimp only; apply cells_of)
    | split | intro _ _ _ | intro _ _ | intro _

theorem keeps_sysRefuse (st : BitVec 16) (s : State) (hs : s.memoryWf) :
    (sysRefuse st s).memoryWf := by
  unfold sysRefuse
  try dsimp only
  repeat' first
    | with_reducible first
      | exact hs | assumption | apply wf_ite | apply keeps_raise | (apply wf_mk; dsimp only; apply cells_of)
    | split | intro _ _ _ | intro _ _ | intro _

theorem keeps_combsOff (s : State) (hs : s.memoryWf) :
    (combsOff s).memoryWf := by
  unfold combsOff
  try dsimp only
  repeat' first
    | with_reducible first
      | exact hs | assumption | apply wf_ite | (apply wf_mk; dsimp only; apply cells_of)
    | split | intro _ _ _ | intro _ _ | intro _

theorem keeps_combsResume (s : State) (hs : s.memoryWf) :
    (combsResume s).memoryWf := by
  unfold combsResume
  try dsimp only
  repeat' first
    | with_reducible first
      | exact hs | assumption | apply wf_ite | (apply wf_mk; dsimp only; apply cells_of)
    | split | intro _ _ _ | intro _ _ | intro _

theorem keeps_sysBegin (who : Option Origin) (step : Nat) (o : SysObs) (s : State) (hs : s.memoryWf) :
    (sysBegin who step o s).memoryWf := by
  unfold sysBegin
  try dsimp only
  repeat' first
    | with_reducible first
      | exact hs | assumption | apply wf_ite | apply keeps_combsOff | (apply wf_mk; dsimp only; apply cells_of)
    | split | intro _ _ _ | intro _ _ | intro _

theorem keeps_sysMeasured (step : Nat) (s : State) (hs : s.memoryWf) :
    (sysMeasured step s).memoryWf := by
  unfold sysMeasured
  try dsimp only
  repeat' first
    | with_reducible first
      | exact hs | assumption | apply wf_ite | (apply wf_mk; dsimp only; apply cells_of)
    | split | intro _ _ _ | intro _ _ | intro _

theorem keeps_sysEnd (r : SysRun) (s : State) (hs : s.memoryWf) :
    (sysEnd r s).memoryWf := by
  unfold sysEnd
  try dsimp only
  repeat' first
    | with_reducible first
      | exact hs | assumption | apply wf_ite | apply keeps_combsResume | apply keeps_dischargeAll | apply keeps_reacquire
      | apply keeps_sysMeasured | (apply wf_mk; dsimp only; apply cells_of)
    | split | intro _ _ _ | intro _ _ | intro _

theorem keeps_sysCommit (s : State) (hs : s.memoryWf) :
    (sysCommit s).memoryWf := by
  unfold sysCommit
  try dsimp only
  repeat' first
    | with_reducible first
      | exact hs | assumption | apply wf_ite | apply keeps_dropSyscal | apply keeps_each | apply keeps_modStallCal
      | apply keeps_putMonRecord | apply keeps_raise | (apply wf_mk; dsimp only; apply cells_of)
    | split | intro _ _ _ | intro _ _ | intro _

theorem keeps_sysStep (who : Option Origin) (step : Nat) (o : SysObs) (s : State) (hs : s.memoryWf) : (sysStep who step o s).2.memoryWf := by
  unfold sysStep
  dsimp only
  with_reducible refine wf_iteSnd (wf_pair (keeps_sysRefuse _ s hs)) ?_
  split
  · with_reducible exact wf_pair (keeps_sysBegin _ _ _ s hs)
  · with_reducible exact wf_iteSnd (wf_pair (keeps_sysRefuse _ s hs)) (wf_iteSnd (wf_pair (keeps_sysRefuse _ s hs)) (wf_pair (keeps_sysBegin _ _ _ s hs)))
  · with_reducible exact wf_iteSnd (wf_pair (keeps_sysRefuse _ s hs)) (wf_pair (keeps_sysCommit s hs))
  · with_reducible exact wf_pair (keeps_dropSyscal s hs)

end Sys2Proof.Machine
end

