-- ==== Sys2Proof/Laws/KeepsSystem.lean ====
section
/-! SUPPORT. Both memories stay in canonical form: one lemma per operation of replies, lifecycle, thermal control and power. -/

namespace Sys2Proof.Machine

set_option linter.all false

/-! ### Machine/Replies.lean -/

theorem keeps_modSession (n : Nat) (f : Session → Session) (s : State) (hs : s.memoryWf) :
    (modSession n f s).memoryWf := by
  unfold modSession
  try dsimp only
  repeat' first
    | with_reducible first
      | exact hs | assumption | apply wf_ite | (apply wf_mk; dsimp only; apply cells_of)
    | split | intro _ _ _ | intro _ _ | intro _

theorem keeps_sendFrame (f : Frame) (keep : Bool) (s : State) (hs : s.memoryWf) :
    (sendFrame f keep s).memoryWf := by
  unfold sendFrame
  try dsimp only
  repeat' first
    | with_reducible first
      | exact hs | assumption | apply wf_ite | apply keeps_modSession | apply keeps_sendMessage | (apply wf_mk; dsimp only; apply cells_of)
    | split | intro _ _ _ | intro _ _ | intro _

theorem keeps_reply (r : Req) (o : Nat) (tagged keep : Bool) (st : BitVec 16) (detail : Nat) (result : List Byte) (s : State) (hs : s.memoryWf) :
    (reply r o tagged keep st detail result s).memoryWf := by
  unfold reply
  try dsimp only
  repeat' first
    | with_reducible first
      | exact hs | assumption | apply wf_ite | apply keeps_sendFrame | (apply wf_mk; dsimp only; apply cells_of)
    | split | intro _ _ _ | intro _ _ | intro _

theorem keeps_complete (who : Origin) (a : Answer) (s : State) (hs : s.memoryWf) :
    (complete who a s).memoryWf := by
  unfold complete
  try dsimp only
  repeat' first
    | with_reducible first
      | exact hs | assumption | apply wf_ite | apply keeps_ringPushReserved | apply keeps_sendFrame
      | (apply wf_mk; dsimp only; apply cells_of)
    | split | intro _ _ _ | intro _ _ | intro _

theorem keeps_endSession (n : Nat) (s : State) (hs : s.memoryWf) :
    (endSession n s).memoryWf := by
  unfold endSession
  try dsimp only
  repeat' first
    | with_reducible first
      | exact hs | assumption | apply wf_ite | apply keeps_modSession | (apply wf_mk; dsimp only; apply cells_of)
    | split | intro _ _ _ | intro _ _ | intro _

theorem keeps_endSessions (s : State) (hs : s.memoryWf) :
    (endSessions s).memoryWf := by
  unfold endSessions
  try dsimp only
  repeat' first
    | with_reducible first
      | exact hs | assumption | apply wf_ite | apply keeps_each | apply keeps_endSession | (apply wf_mk; dsimp only; apply cells_of)
    | split | intro _ _ _ | intro _ _ | intro _

theorem keeps_stateRefused (o : Nat) (s : State) (hs : s.memoryWf) :
    (stateRefused o s).memoryWf := by
  unfold stateRefused
  try dsimp only
  repeat' first
    | with_reducible first
      | exact hs | assumption | apply wf_ite | apply keeps_raise | (apply wf_mk; dsimp only; apply cells_of)
    | split | intro _ _ _ | intro _ _ | intro _

theorem keeps_purgeWaiting (s : State) (hs : s.memoryWf) :
    (purgeWaiting s).memoryWf := by
  unfold purgeWaiting
  try dsimp only
  repeat' first
    | with_reducible first
      | exact hs | assumption | apply wf_ite | apply keeps_complete | apply keeps_each | apply keeps_stateRefused
      | (apply wf_mk; dsimp only; apply cells_of)
    | split | intro _ _ _ | intro _ _ | intro _

/-! ### Machine/Lifecycle.lean -/

theorem keeps_postBulk (ring : Nat) (cookie : DWord) (st : BitVec 16) (detail index moved : Nat) (s : State) (hs : s.memoryWf) :
    (postBulk ring cookie st detail index moved s).memoryWf := by
  unfold postBulk
  try dsimp only
  repeat' first
    | with_reducible first
      | exact hs | assumption | apply wf_ite | apply keeps_ringPushReserved | (apply wf_mk; dsimp only; apply cells_of)
    | split | intro _ _ _ | intro _ _ | intro _

theorem keeps_finishBulk (j : BulkJob) (st : BitVec 16) (s : State) (hs : s.memoryWf) :
    (finishBulk j st s).memoryWf := by
  unfold finishBulk
  try dsimp only
  repeat' first
    | with_reducible first
      | exact hs | assumption | apply wf_ite | apply keeps_each | apply keeps_modRing | apply keeps_postBulk
      | (apply wf_mk; dsimp only; apply cells_of)
    | split | intro _ _ _ | intro _ _ | intro _

theorem keeps_abortBulk (s : State) (hs : s.memoryWf) :
    (abortBulk s).memoryWf := by
  unfold abortBulk
  try dsimp only
  repeat' first
    | with_reducible first
      | exact hs | assumption | apply wf_ite | apply keeps_each | apply keeps_finishBulk | (apply wf_mk; dsimp only; apply cells_of)
    | split | intro _ _ _ | intro _ _ | intro _

theorem keeps_stopNow (s : State) (hs : s.memoryWf) :
    (stopNow s).memoryWf := by
  unfold stopNow
  try dsimp only
  repeat' first
    | with_reducible first
      | exact hs | assumption | apply wf_ite | apply keeps_each | apply keeps_endAllTasks | (apply wf_mk; dsimp only; apply cells_of)
    | split | intro _ _ _ | intro _ _ | intro _

theorem keeps_leaveAll (s : State) (hs : s.memoryWf) :
    (leaveAll s).memoryWf := by
  unfold leaveAll
  try dsimp only
  repeat' first
    | with_reducible first
      | exact hs | assumption | apply wf_ite | (apply wf_mk; dsimp only; apply cells_of)
    | split | intro _ _ _ | intro _ _ | intro _

theorem keeps_abandonStep (s : State) (hs : s.memoryWf) :
    (abandonStep s).memoryWf := by
  unfold abandonStep
  try dsimp only
  repeat' first
    | with_reducible first
      | exact hs | assumption | apply wf_ite | apply keeps_combsResume | apply keeps_complete | apply keeps_dropSyscal
      | (apply wf_mk; dsimp only; apply cells_of)
    | split | intro _ _ _ | intro _ _ | intro _

theorem keeps_dropWorkAll (s : State) (hs : s.memoryWf) :
    (dropWorkAll s).memoryWf := by
  unfold dropWorkAll
  try dsimp only
  repeat' first
    | with_reducible first
      | exact hs | assumption | apply wf_ite | apply keeps_abandonStep | apply keeps_leaveAll | (apply wf_mk; dsimp only; apply cells_of)
    | split | intro _ _ _ | intro _ _ | intro _

theorem keeps_abandonPreparations (s : State) (hs : s.memoryWf) :
    (abandonPreparations s).memoryWf := by
  unfold abandonPreparations
  try dsimp only
  repeat' first
    | with_reducible first
      | exact hs | assumption | apply wf_ite | (apply wf_mk; dsimp only; apply cells_of)
    | split | intro _ _ _ | intro _ _ | intro _

theorem keeps_loseHbm (s : State) (hs : s.memoryWf) : (loseHbm s).memoryWf :=
  ⟨Memory.wf_lose 0 hbmEnd s.mem hs.1, hs.2⟩

theorem keeps_loseLpddr (s : State) (hs : s.memoryWf) : (loseLpddr s).memoryWf :=
  ⟨Memory.wf_lose lpddrBase lpddrEnd s.mem hs.1, hs.2⟩

theorem keeps_loseStaging (s : State) (hs : s.memoryWf) : (loseStaging s).memoryWf :=
  ⟨Memory.wf_lose stagingBase stagingEnd s.mem hs.1, hs.2⟩

theorem keeps_portsDark (s : State) (hs : s.memoryWf) :
    (portsDark s).memoryWf := by
  unfold portsDark
  try dsimp only
  repeat' first
    | with_reducible first
      | exact hs | assumption | apply wf_ite | apply keeps_each | apply keeps_groupState | apply keeps_portDark
      | (apply wf_mk; dsimp only; apply cells_of)
    | split | intro _ _ _ | intro _ _ | intro _

theorem keeps_endUpdate (s : State) (hs : s.memoryWf) :
    (endUpdate s).memoryWf := by
  unfold endUpdate
  try dsimp only
  repeat' first
    | with_reducible first
      | exact hs | assumption | apply wf_ite | (apply wf_mk; dsimp only; apply cells_of)
    | split | intro _ _ _ | intro _ _ | intro _

theorem keeps_clearBlocks (bs : List Nat) (s : State) (hs : s.memoryWf) :
    (clearBlocks bs s).memoryWf := by
  unfold clearBlocks
  try dsimp only
  repeat' first
    | with_reducible first
      | exact hs | assumption | apply wf_ite | (apply wf_mk; dsimp only; apply cells_of)
    | split | intro _ _ _ | intro _ _ | intro _

theorem keeps_resetArray (s : State) (hs : s.memoryWf) :
    (resetArray s).memoryWf := by
  unfold resetArray
  try dsimp only
  repeat' first
    | with_reducible first
      | exact hs | assumption | apply wf_ite | apply keeps_dischargeAll | (apply wf_mk; dsimp only; apply cells_of)
    | split | intro _ _ _ | intro _ _ | intro _

theorem keeps_resetPsr (s : State) (hs : s.memoryWf) :
    (resetPsr s).memoryWf := by
  unfold resetPsr
  try dsimp only
  repeat' first
    | with_reducible first
      | exact hs | assumption | apply wf_ite | (apply wf_mk; dsimp only; apply cells_of)
    | split | intro _ _ _ | intro _ _ | intro _

theorem keeps_resetSqu (s : State) (hs : s.memoryWf) :
    (resetSqu s).memoryWf := by
  unfold resetSqu
  try dsimp only
  repeat' first
    | with_reducible first
      | exact hs | assumption | apply wf_ite | (apply wf_mk; dsimp only; apply cells_of)
    | split | intro _ _ _ | intro _ _ | intro _

theorem keeps_resetLge (s : State) (hs : s.memoryWf) :
    (resetLge s).memoryWf := by
  unfold resetLge
  try dsimp only
  repeat' first
    | with_reducible first
      | exact hs | assumption | apply wf_ite | (apply wf_mk; dsimp only; apply cells_of)
    | split | intro _ _ _ | intro _ _ | intro _

theorem keeps_resetXl (s : State) (hs : s.memoryWf) :
    (resetXl s).memoryWf := by
  unfold resetXl
  try dsimp only
  repeat' first
    | with_reducible first
      | exact hs | assumption | apply wf_ite | (apply wf_mk; dsimp only; apply cells_of)
    | split | intro _ _ _ | intro _ _ | intro _

theorem keeps_resetLinks (s : State) (hs : s.memoryWf) :
    (resetLinks s).memoryWf := by
  unfold resetLinks
  try dsimp only
  repeat' first
    | with_reducible first
      | exact hs | assumption | apply wf_ite | (apply wf_mk; dsimp only; apply cells_of)
    | split | intro _ _ _ | intro _ _ | intro _

theorem keeps_resetCal (s : State) (hs : s.memoryWf) :
    (resetCal s).memoryWf := by
  unfold resetCal
  try dsimp only
  repeat' first
    | with_reducible first
      | exact hs | assumption | apply wf_ite | (apply wf_mk; dsimp only; apply cells_of)
    | split | intro _ _ _ | intro _ _ | intro _

theorem keeps_stopEpochs (s : State) (hs : s.memoryWf) :
    (stopEpochs s).memoryWf := by
  unfold stopEpochs
  try dsimp only
  repeat' first
    | with_reducible first
      | exact hs | assumption | apply wf_ite | (apply wf_mk; dsimp only; apply cells_of)
    | split | intro _ _ _ | intro _ _ | intro _

theorem keeps_resetSeq (s : State) (hs : s.memoryWf) :
    (resetSeq s).memoryWf := by
  unfold resetSeq
  try dsimp only
  repeat' first
    | with_reducible first
      | exact hs | assumption | apply wf_ite | (apply wf_mk; dsimp only; apply cells_of)
    | split | intro _ _ _ | intro _ _ | intro _

theorem keeps_resetCls (s : State) (hs : s.memoryWf) :
    (resetCls s).memoryWf := by
  unfold resetCls
  try dsimp only
  repeat' first
    | with_reducible first
      | exact hs | assumption | apply wf_ite | (apply wf_mk; dsimp only; apply cells_of)
    | split | intro _ _ _ | intro _ _ | intro _

theorem keeps_resetMemories (s : State) (hs : s.memoryWf) :
    (resetMemories s).memoryWf := by
  unfold resetMemories
  try dsimp only
  repeat' first
    | with_reducible first
      | exact hs | assumption | apply wf_ite | (apply wf_mk; dsimp only; apply cells_of)
    | split | intro _ _ _ | intro _ _ | intro _

theorem keeps_resetHalf (block half : Nat) (s : State) (hs : s.memoryWf) :
    (resetHalf block half s).memoryWf := by
  unfold resetHalf
  try dsimp only
  repeat' first
    | with_reducible first
      | exact hs | assumption | apply wf_ite | (apply wf_mk; dsimp only; apply cells_of)
    | split | intro _ _ _ | intro _ _ | intro _

theorem keeps_endBulk (s : State) (hs : s.memoryWf) :
    (endBulk s).memoryWf := by
  unfold endBulk
  try dsimp only
  repeat' first
    | with_reducible first
      | exact hs | assumption | apply wf_ite | apply keeps_each | apply keeps_modRing | (apply wf_mk; dsimp only; apply cells_of)
    | split | intro _ _ _ | intro _ _ | intro _

theorem keeps_dropCopies (p : Nat → Bool) (s : State) (hs : s.memoryWf) :
    (dropCopies p s).memoryWf := by
  unfold dropCopies
  try dsimp only
  repeat' first
    | with_reducible first
      | exact hs | assumption | apply wf_ite | (apply wf_mk; dsimp only; apply cells_of)
    | split | intro _ _ _ | intro _ _ | intro _

theorem keeps_resetFunction (s : State) (hs : s.memoryWf) :
    (resetFunction s).memoryWf := by
  unfold resetFunction
  try dsimp only
  repeat' first
    | with_reducible first
      | exact hs | assumption | apply wf_ite | apply keeps_dropCopies | apply keeps_endBulk | (apply wf_mk; dsimp only; apply cells_of)
    | split | intro _ _ _ | intro _ _ | intro _

theorem keeps_resetHif (s : State) (hs : s.memoryWf) :
    (resetHif s).memoryWf := by
  unfold resetHif
  try dsimp only
  repeat' first
    | with_reducible first
      | exact hs | assumption | apply wf_ite | apply keeps_dropCopies | apply keeps_endBulk | (apply wf_mk; dsimp only; apply cells_of)
    | split | intro _ _ _ | intro _ _ | intro _

theorem keeps_enterRecovery (s : State) (hs : s.memoryWf) :
    (enterRecovery s).memoryWf := by
  unfold enterRecovery
  try dsimp only
  repeat' first
    | with_reducible first
      | exact hs | assumption | apply wf_ite | apply keeps_abandonPreparations | apply keeps_dischargeAll | apply keeps_dropWorkAll
      | apply keeps_enterMode | apply keeps_loseHbm | apply keeps_loseLpddr | apply keeps_loseStaging | apply keeps_portsDark
      | apply keeps_purgeWaiting | apply keeps_raise | apply keeps_sourcesOff | (apply wf_mk; dsimp only; apply cells_of)
    | split | intro _ _ _ | intro _ _ | intro _

theorem keeps_bootComponent (c : Nat) (s : State) (hs : s.memoryWf) :
    (bootComponent c s).memoryWf := by
  unfold bootComponent
  try dsimp only
  repeat' first
    | with_reducible first
      | exact hs | assumption | apply wf_ite | apply keeps_commitCounter | apply keeps_modFw | (apply wf_mk; dsimp only; apply cells_of)
    | split | intro _ _ _ | intro _ _ | intro _

theorem keeps_measuredBoot (s : State) (hs : s.memoryWf) :
    (measuredBoot s).memoryWf := by
  unfold measuredBoot
  try dsimp only
  repeat' first
    | with_reducible first
      | exact hs | assumption | apply wf_ite | apply keeps_bootComponent | apply keeps_each | apply keeps_enterRecovery
      | (apply wf_mk; dsimp only; apply cells_of)
    | split | intro _ _ _ | intro _ _ | intro _

theorem keeps_flashOnly (s : State) (hs : s.memoryWf) : (flashOnly s).memoryWf :=
  ⟨rfl, hs.2⟩

theorem keeps_poweredOff (s : State) (hs : s.memoryWf) :
    (poweredOff s).memoryWf := by
  unfold poweredOff
  try dsimp only
  repeat' first
    | with_reducible first
      | exact hs | assumption | apply wf_ite | apply keeps_flashOnly | (apply wf_mk; dsimp only; apply cells_of)
    | split | intro _ _ _ | intro _ _ | intro _

theorem keeps_powerOn (source : Nat) (s : State) (hs : s.memoryWf) :
    (powerOn source s).memoryWf := by
  unfold powerOn
  try dsimp only
  repeat' first
    | with_reducible first
      | exact hs | assumption | apply wf_ite | apply keeps_flashOnly | apply keeps_journalTwo | apply keeps_raise
      | (apply wf_mk; dsimp only; apply cells_of)
    | split | intro _ _ _ | intro _ _ | intro _

theorem keeps_coldContents (s : State) (hs : s.memoryWf) : (coldContents s).memoryWf :=
  ⟨(keeps_loseStaging _ (keeps_loseHbm s hs)).1, hs.2⟩

/-! ### Machine/Thermal.lean -/

theorem keeps_levelChange (old : Nat) (s : State) (hs : s.memoryWf) :
    (levelChange old s).memoryWf := by
  unfold levelChange
  try dsimp only
  repeat' first
    | with_reducible first
      | exact hs | assumption | apply wf_ite | apply keeps_raise | (apply wf_mk; dsimp only; apply cells_of)
    | split | intro _ _ _ | intro _ _ | intro _

theorem keeps_withLevel (f : State → State) (s : State) (h_f : ∀ s, State.memoryWf s → (f s).memoryWf) (hs : s.memoryWf) :
    (withLevel f s).memoryWf := by
  unfold withLevel
  try dsimp only
  repeat' first
    | with_reducible first
      | exact hs | assumption | apply wf_ite | apply keeps_levelChange | apply h_f | (apply wf_mk; dsimp only; apply cells_of)
    | split | intro _ _ _ | intro _ _ | intro _

theorem keeps_execThrottleStepDown (s : State) (hs : s.memoryWf) :
    KeepsOut (execThrottleStepDown s) := by
  unfold execThrottleStepDown
  try dsimp only
  repeat' first
    | with_reducible first
      | exact hs | assumption | apply wf_ite | apply wf_iteOut | apply wf_next | apply keeps_advanceTo
      | (apply wf_mk; dsimp only; apply cells_of)
    | split | intro _ _ _ | intro _ _ | intro _

theorem keeps_setFast (d : Nat) (s : State) (hs : s.memoryWf) :
    (setFast d s).memoryWf := by
  unfold setFast
  try dsimp only
  repeat' first
    | with_reducible first
      | exact hs | assumption | apply wf_ite | apply keeps_modDomain | apply keeps_raise | (apply wf_mk; dsimp only; apply cells_of)
    | split | intro _ _ _ | intro _ _ | intro _

theorem keeps_speedUp (l : List Nat) (s : State) (hs : s.memoryWf) :
    (speedUp l s).memoryWf := by
  unfold speedUp
  try dsimp only
  repeat' first
    | with_reducible first
      | exact hs | assumption | apply wf_ite | apply keeps_each | apply keeps_modSensor | (apply wf_mk; dsimp only; apply cells_of)
    | split | intro _ _ _ | intro _ _ | intro _

theorem keeps_fastChange (i : Nat) (s : State) (hs : s.memoryWf) :
    (fastChange i s).memoryWf := by
  unfold fastChange
  try dsimp only
  repeat' first
    | with_reducible first
      | exact hs | assumption | apply wf_ite | apply keeps_speedUp | (apply wf_mk; dsimp only; apply cells_of)
    | split | intro _ _ _ | intro _ _ | intro _

theorem keeps_execFastSamplingEnd (d : Nat) (s : State) (hs : s.memoryWf) :
    KeepsOut (execFastSamplingEnd d s) := by
  unfold execFastSamplingEnd
  try dsimp only
  repeat' first
    | with_reducible first
      | exact hs | assumption | apply wf_ite | apply wf_iteOut | apply wf_next | apply keeps_advanceTo | apply keeps_each
      | apply keeps_modSensor | apply keeps_setFast | (apply wf_mk; dsimp only; apply cells_of)
    | split | intro _ _ _ | intro _ _ | intro _

theorem keeps_domainLevel (d : Nat) (s : State) (hs : s.memoryWf) :
    (domainLevel d s).memoryWf := by
  unfold domainLevel
  try dsimp only
  repeat' first
    | with_reducible first
      | exact hs | assumption | apply wf_ite | apply keeps_modDomain | apply keeps_raise | (apply wf_mk; dsimp only; apply cells_of)
    | split | intro _ _ _ | intro _ _ | intro _

theorem keeps_execThermalLevelLeave (d : Nat) (s : State) (hs : s.memoryWf) :
    KeepsOut (execThermalLevelLeave d s) := by
  unfold execThermalLevelLeave
  try dsimp only
  repeat' first
    | with_reducible first
      | exact hs | assumption | apply wf_ite | apply wf_iteOut | apply wf_next | apply keeps_advanceTo | apply keeps_modDomain
      | apply keeps_withLevel | (apply wf_mk; dsimp only; apply cells_of)
    | split | intro _ _ _ | intro _ _ | intro _

theorem keeps_invalidate (i : Nat) (s : State) (hs : s.memoryWf) :
    (invalidate i s).memoryWf := by
  unfold invalidate
  try dsimp only
  repeat' first
    | with_reducible first
      | exact hs | assumption | apply wf_ite | apply keeps_domainLevel | apply keeps_each | apply keeps_enterLoop | apply keeps_modSensor
      | apply keeps_modZone | apply keeps_raise | apply keeps_setFast | apply keeps_withLevel | (apply wf_mk; dsimp only; apply cells_of)
    | split | intro _ _ _ | intro _ _ | intro _

theorem keeps_execSensorInvalid (i : Nat) (s : State) (hs : s.memoryWf) :
    KeepsOut (execSensorInvalid i s) := by
  unfold execSensorInvalid
  try dsimp only
  repeat' first
    | with_reducible first
      | exact hs | assumption | apply wf_ite | apply wf_iteOut | apply wf_next | apply keeps_invalidate
      | (apply wf_mk; dsimp only; apply cells_of)
    | split | intro _ _ _ | intro _ _ | intro _

theorem keeps_enterFrost (cause sensor : Nat) (t : Int) (s : State) (hs : s.memoryWf) :
    (enterFrost cause sensor t s).memoryWf := by
  unfold enterFrost
  try dsimp only
  repeat' first
    | with_reducible first
      | exact hs | assumption | apply wf_ite | apply keeps_abandonPreparations | apply keeps_abortBulk | apply keeps_dischargeAll
      | apply keeps_dropWorkAll | apply keeps_endUpdate | apply keeps_enterMode | apply keeps_journalTwo | apply keeps_loseHbm
      | apply keeps_loseStaging | apply keeps_modDomain | apply keeps_portsDark | apply keeps_purgeWaiting | apply keeps_raise
      | apply keeps_sourcesOff | (apply wf_mk; dsimp only; apply cells_of)
    | split | intro _ _ _ | intro _ _ | intro _

theorem keeps_frostCheck (s : State) (hs : s.memoryWf) :
    (frostCheck s).memoryWf := by
  unfold frostCheck
  try dsimp only
  repeat' first
    | with_reducible first
      | exact hs | assumption | apply wf_ite | apply keeps_enterFrost | (apply wf_mk; dsimp only; apply cells_of)
    | split | intro _ _ _ | intro _ _ | intro _

theorem keeps_compensate (i : Nat) (t : Int) (s : State) (hs : s.memoryWf) :
    (compensate i t s).memoryWf := by
  unfold compensate
  try dsimp only
  repeat' first
    | with_reducible first
      | exact hs | assumption | apply wf_ite | (apply wf_mk; dsimp only; apply cells_of)
    | split | intro _ _ _ | intro _ _ | intro _

theorem keeps_execSensorSample (i : Nat) (t : Int) (s : State) (hs : s.memoryWf) :
    KeepsOut (execSensorSample i t s) := by
  unfold execSensorSample
  try dsimp only
  repeat' first
    | with_reducible first
      | exact hs | assumption | apply wf_ite | apply wf_iteOut | apply wf_next | apply keeps_compensate | apply keeps_domainLevel
      | apply keeps_each | apply keeps_fastChange | apply keeps_frostCheck | apply keeps_heaterFeed | apply keeps_invalidate
      | apply keeps_modSensor | apply keeps_modZone | apply keeps_setFast | apply keeps_withLevel
      | (apply wf_mk; dsimp only; apply cells_of)
    | split | intro _ _ _ | intro _ _ | intro _

/-! ### Machine/Power.lean -/

theorem keeps_inputInterruption (cause : Nat) (rail : Byte) (s : State) (hs : s.memoryWf) :
    (inputInterruption cause rail s).memoryWf := by
  unfold inputInterruption
  try dsimp only
  repeat' first
    | with_reducible first
      | exact hs | assumption | apply wf_ite | apply keeps_dropWorkAll | apply keeps_enterMode | apply keeps_journalTwo
      | apply keeps_poweredOff | (apply wf_mk; dsimp only; apply cells_of)
    | split | intro _ _ _ | intro _ _ | intro _

theorem keeps_execInputUndervoltage (s : State) (hs : s.memoryWf) :
    KeepsOut (execInputUndervoltage s) := by
  unfold execInputUndervoltage
  try dsimp only
  repeat' first
    | with_reducible first
      | exact hs | assumption | apply wf_ite | apply wf_iteOut | apply wf_next | apply keeps_inputInterruption
      | (apply wf_mk; dsimp only; apply cells_of)
    | split | intro _ _ _ | intro _ _ | intro _

theorem keeps_execInputOvervoltage (s : State) (hs : s.memoryWf) :
    KeepsOut (execInputOvervoltage s) := by
  unfold execInputOvervoltage
  try dsimp only
  repeat' first
    | with_reducible first
      | exact hs | assumption | apply wf_ite | apply wf_iteOut | apply wf_next | apply keeps_inputInterruption
      | (apply wf_mk; dsimp only; apply cells_of)
    | split | intro _ _ _ | intro _ _ | intro _

theorem keeps_execBreakerTrip (s : State) (hs : s.memoryWf) :
    KeepsOut (execBreakerTrip s) := by
  unfold execBreakerTrip
  try dsimp only
  repeat' first
    | with_reducible first
      | exact hs | assumption | apply wf_ite | apply wf_iteOut | apply wf_next | apply keeps_inputInterruption
      | (apply wf_mk; dsimp only; apply cells_of)
    | split | intro _ _ _ | intro _ _ | intro _

theorem keeps_execReverseCurrent (s : State) (hs : s.memoryWf) :
    KeepsOut (execReverseCurrent s) := by
  unfold execReverseCurrent
  try dsimp only
  repeat' first
    | with_reducible first
      | exact hs | assumption | apply wf_ite | apply wf_iteOut | apply wf_next | (apply wf_mk; dsimp only; apply cells_of)
    | split | intro _ _ _ | intro _ _ | intro _

theorem keeps_execPwrEnAssert (s : State) (hs : s.memoryWf) :
    KeepsOut (execPwrEnAssert s) := by
  unfold execPwrEnAssert
  try dsimp only
  repeat' first
    | with_reducible first
      | exact hs | assumption | apply wf_ite | apply wf_iteOut | apply wf_next | (apply wf_mk; dsimp only; apply cells_of)
    | split | intro _ _ _ | intro _ _ | intro _

theorem keeps_execPwrEnDeassert (s : State) (hs : s.memoryWf) :
    KeepsOut (execPwrEnDeassert s) := by
  unfold execPwrEnDeassert
  try dsimp only
  repeat' first
    | with_reducible first
      | exact hs | assumption | apply wf_ite | apply wf_iteOut | apply wf_next | apply keeps_inputInterruption
      | (apply wf_mk; dsimp only; apply cells_of)
    | split | intro _ _ _ | intro _ _ | intro _

theorem keeps_execInputQualified (s : State) (hs : s.memoryWf) :
    KeepsOut (execInputQualified s) := by
  unfold execInputQualified
  try dsimp only
  repeat' first
    | with_reducible first
      | exact hs | assumption | apply wf_ite | apply wf_iteOut | apply wf_next | apply keeps_powerOn
      | (apply wf_mk; dsimp only; apply cells_of)
    | split | intro _ _ _ | intro _ _ | intro _

theorem keeps_execInputQualificationLost (s : State) (hs : s.memoryWf) :
    KeepsOut (execInputQualificationLost s) := by
  unfold execInputQualificationLost
  try dsimp only
  repeat' first
    | with_reducible first
      | exact hs | assumption | apply wf_ite | apply wf_iteOut | apply wf_next | (apply wf_mk; dsimp only; apply cells_of)
    | split | intro _ _ _ | intro _ _ | intro _

theorem keeps_execRailFault (group : Nat) (s : State) (hs : s.memoryWf) :
    KeepsOut (execRailFault group s) := by
  unfold execRailFault
  try dsimp only
  repeat' first
    | with_reducible first
      | exact hs | assumption | apply wf_ite | apply wf_iteOut | apply wf_next | apply keeps_dischargeAll | apply keeps_enterMode
      | apply keeps_loseHbm | apply keeps_loseLpddr | apply keeps_loseStaging | apply keeps_raise | apply keeps_sourcesOff
      | (apply wf_mk; dsimp only; apply cells_of)
    | split | intro _ _ _ | intro _ _ | intro _

theorem keeps_execRailDroop (group : Nat) (s : State) (hs : s.memoryWf) :
    KeepsOut (execRailDroop group s) := by
  unfold execRailDroop
  try dsimp only
  repeat' first
    | with_reducible first
      | exact hs | assumption | apply wf_ite | apply wf_iteOut | apply wf_next | apply keeps_inputInterruption
      | (apply wf_mk; dsimp only; apply cells_of)
    | split | intro _ _ _ | intro _ _ | intro _

theorem keeps_raiseLp (s : State) (hs : s.memoryWf) :
    (raiseLp s).memoryWf := by
  unfold raiseLp
  try dsimp only
  repeat' first
    | with_reducible first
      | exact hs | assumption | apply wf_ite | apply keeps_raise | apply keeps_withLevel | (apply wf_mk; dsimp only; apply cells_of)
    | split | intro _ _ _ | intro _ _ | intro _

theorem keeps_excursionRule (s : State) (hs : s.memoryWf) :
    (excursionRule s).memoryWf := by
  unfold excursionRule
  try dsimp only
  repeat' first
    | with_reducible first
      | exact hs | assumption | apply wf_ite | apply keeps_raise | (apply wf_mk; dsimp only; apply cells_of)
    | split | intro _ _ _ | intro _ _ | intro _

theorem keeps_inputRange (v : Nat) (s : State) (hs : s.memoryWf) :
    (inputRange v s).memoryWf := by
  unfold inputRange
  try dsimp only
  repeat' first
    | with_reducible first
      | exact hs | assumption | apply wf_ite | apply keeps_raise | (apply wf_mk; dsimp only; apply cells_of)
    | split | intro _ _ _ | intro _ _ | intro _

theorem keeps_execTelemetrySample (v i : Nat) (s : State) (hs : s.memoryWf) :
    KeepsOut (execTelemetrySample v i s) := by
  unfold execTelemetrySample
  try dsimp only
  repeat' first
    | with_reducible first
      | exact hs | assumption | apply wf_ite | apply wf_iteOut | apply wf_next | apply keeps_excursionRule | apply keeps_inputRange
      | apply keeps_raiseLp | (apply wf_mk; dsimp only; apply cells_of)
    | split | intro _ _ _ | intro _ _ | intro _

theorem keeps_execP1sUpdate (p : Nat) (s : State) (hs : s.memoryWf) :
    KeepsOut (execP1sUpdate p s) := by
  unfold execP1sUpdate
  try dsimp only
  repeat' first
    | with_reducible first
      | exact hs | assumption | apply wf_ite | apply wf_iteOut | apply wf_next | apply keeps_raise | apply keeps_raiseLp
      | apply keeps_withLevel | (apply wf_mk; dsimp only; apply cells_of)
    | split | intro _ _ _ | intro _ _ | intro _

theorem keeps_execExcursionStep (s : State) (hs : s.memoryWf) :
    KeepsOut (execExcursionStep s) := by
  unfold execExcursionStep
  try dsimp only
  repeat' first
    | with_reducible first
      | exact hs | assumption | apply wf_ite | apply wf_iteOut | apply wf_next | apply keeps_advanceTo | apply keeps_raiseLp
      | (apply wf_mk; dsimp only; apply cells_of)
    | split | intro _ _ _ | intro _ _ | intro _

theorem keeps_execEnergyLimitShutdown (s : State) (hs : s.memoryWf) :
    KeepsOut (execEnergyLimitShutdown s) := by
  unfold execEnergyLimitShutdown
  try dsimp only
  repeat' first
    | with_reducible first
      | exact hs | assumption | apply wf_ite | apply wf_iteOut | apply wf_next | apply keeps_advanceTo | apply keeps_inputInterruption
      | (apply wf_mk; dsimp only; apply cells_of)
    | split | intro _ _ _ | intro _ _ | intro _

theorem keeps_execTelemetryLoss (s : State) (hs : s.memoryWf) :
    KeepsOut (execTelemetryLoss s) := by
  unfold execTelemetryLoss
  try dsimp only
  repeat' first
    | with_reducible first
      | exact hs | assumption | apply wf_ite | apply wf_iteOut | apply wf_next | apply keeps_raise | apply keeps_withLevel
      | (apply wf_mk; dsimp only; apply cells_of)
    | split | intro _ _ _ | intro _ _ | intro _

theorem keeps_execTelemetryReturn (s : State) (hs : s.memoryWf) :
    KeepsOut (execTelemetryReturn s) := by
  unfold execTelemetryReturn
  try dsimp only
  repeat' first
    | with_reducible first
      | exact hs | assumption | apply wf_ite | apply wf_iteOut | apply wf_next | (apply wf_mk; dsimp only; apply cells_of)
    | split | intro _ _ _ | intro _ _ | intro _

theorem keeps_execBackupDomainPowerOn (s : State) (hs : s.memoryWf) :
    KeepsOut (execBackupDomainPowerOn s) := by
  unfold execBackupDomainPowerOn
  try dsimp only
  repeat' first
    | with_reducible first
      | exact hs | assumption | apply wf_ite | apply wf_iteOut | apply wf_next | apply keeps_raise
      | (apply wf_mk; dsimp only; apply cells_of)
    | split | intro _ _ _ | intro _ _ | intro _

theorem keeps_execSupercapLow (cap ext : Nat) (s : State) (hs : s.memoryWf) :
    KeepsOut (execSupercapLow cap ext s) := by
  unfold execSupercapLow
  try dsimp only
  repeat' first
    | with_reducible first
      | exact hs | assumption | apply wf_ite | apply wf_iteOut | apply wf_next | apply keeps_raise
      | (apply wf_mk; dsimp only; apply cells_of)
    | split | intro _ _ _ | intro _ _ | intro _

theorem keeps_setCalendar (secs ns : Nat) (s : State) (hs : s.memoryWf) :
    (setCalendar secs ns s).memoryWf := by
  unfold setCalendar
  try dsimp only
  repeat' first
    | with_reducible first
      | exact hs | assumption | apply wf_ite | apply keeps_raise | (apply wf_mk; dsimp only; apply cells_of)
    | split | intro _ _ _ | intro _ _ | intro _

theorem keeps_execHardwareTrip (i : Nat) (t : Int) (s : State) (hs : s.memoryWf) :
    KeepsOut (execHardwareTrip i t s) := by
  unfold execHardwareTrip
  try dsimp only
  repeat' first
    | with_reducible first
      | exact hs | assumption | apply wf_ite | apply wf_iteOut | apply wf_next | apply keeps_poweredOff
      | (apply wf_mk; dsimp only; apply cells_of)
    | split | intro _ _ _ | intro _ _ | intro _

end Sys2Proof.Machine
end

