-- ==== Sys2Proof/Laws/KeepsHost.lean ====
section
/-! SUPPORT. Both memories stay in canonical form: one lemma per operation of rings, the ledger, bulk work, memory errors and resets. -/

namespace Sys2Proof.Machine

set_option linter.all false

/-! ### Machine/Rings.lean -/

theorem keeps_ringEvent (b i : Nat) (s : State) (hs : s.memoryWf) :
    (ringEvent b i s).memoryWf := by
  unfold ringEvent
  try dsimp only
  repeat' first
    | with_reducible first
      | exact hs | assumption | apply wf_ite | apply keeps_raise | (apply wf_mk; dsimp only; apply cells_of)
    | split | intro _ _ _ | intro _ _ | intro _

theorem keeps_disableRing (i : Nat) (s : State) (hs : s.memoryWf) :
    (disableRing i s).memoryWf := by
  unfold disableRing
  try dsimp only
  repeat' first
    | with_reducible first
      | exact hs | assumption | apply wf_ite | apply keeps_setRing | (apply wf_mk; dsimp only; apply cells_of)
    | split | intro _ _ _ | intro _ _ | intro _

theorem keeps_writeRingCfg (i : Nat) (w : Word) (s : State) (hs : s.memoryWf) :
    (writeRingCfg i w s).memoryWf := by
  unfold writeRingCfg
  try dsimp only
  repeat' first
    | with_reducible first
      | exact hs | assumption | apply wf_ite | apply keeps_disableRing | apply keeps_ringEvent | apply keeps_setRing
      | (apply wf_mk; dsimp only; apply cells_of)
    | split | intro _ _ _ | intro _ _ | intro _

theorem keeps_writeRingReg (i k : Nat) (w : Word) (s : State) (hs : s.memoryWf) :
    (writeRingReg i k w s).memoryWf := by
  unfold writeRingReg
  try dsimp only
  repeat' first
    | with_reducible first
      | exact hs | assumption | apply wf_ite | apply keeps_ringEvent | apply keeps_setRing | (apply wf_mk; dsimp only; apply cells_of)
    | split | intro _ _ _ | intro _ _ | intro _

theorem keeps_doorbell (i : Nat) (v : Word) (s : State) (hs : s.memoryWf) :
    (doorbell i v s).memoryWf := by
  unfold doorbell
  try dsimp only
  repeat' first
    | with_reducible first
      | exact hs | assumption | apply wf_ite | apply keeps_faultRing | apply keeps_ringEvent | apply keeps_setRing
      | (apply wf_mk; dsimp only; apply cells_of)
    | split | intro _ _ _ | intro _ _ | intro _

theorem keeps_writeSignatures (i f : Nat) (s : State) (hs : s.memoryWf) : (writeSignatures i f s).memoryWf := by
  induction f generalizing s with
  | zero => exact hs
  | succ f ih =>
    rw [writeSignatures]
    split
    · exact hs
    · split
      · exact ih _ (keeps_each _ _ (fun a s h => keeps_ringPush _ a s h) _ (keeps_modRing _ _ s hs))
      · exact hs

theorem keeps_execRingRoomReturn (ring : BitVec 14) (s : State) (hs : s.memoryWf) :
    KeepsOut (execRingRoomReturn ring s) := by
  unfold execRingRoomReturn
  try dsimp only
  repeat' first
    | with_reducible first
      | exact hs | assumption | apply wf_ite | apply wf_iteOut | apply wf_next | apply keeps_writeGap | apply keeps_writeSignatures
      | (apply wf_mk; dsimp only; apply cells_of)
    | split | intro _ _ _ | intro _ _ | intro _

theorem keeps_execMsixModerationTimeout (ring : BitVec 14) (s : State) (hs : s.memoryWf) :
    KeepsOut (execMsixModerationTimeout ring s) := by
  unfold execMsixModerationTimeout
  try dsimp only
  repeat' first
    | with_reducible first
      | exact hs | assumption | apply wf_ite | apply wf_iteOut | apply wf_next | apply keeps_advanceTo | apply keeps_modRing
      | apply keeps_sendVector | (apply wf_mk; dsimp only; apply cells_of)
    | split | intro _ _ _ | intro _ _ | intro _

theorem keeps_execMsixUnmask (v : BitVec 6) (s : State) (hs : s.memoryWf) :
    KeepsOut (execMsixUnmask v s) := by
  unfold execMsixUnmask
  try dsimp only
  repeat' first
    | with_reducible first
      | exact hs | assumption | apply wf_ite | apply wf_iteOut | apply wf_next | apply keeps_sendVector
      | (apply wf_mk; dsimp only; apply cells_of)
    | split | intro _ _ _ | intro _ _ | intro _

theorem keeps_sendEgress (s : State) (hs : s.memoryWf) : (sendEgress s).memoryWf := by
  have h (l : List (Nat × Byte)) : ∀ m, Memory.wf m = true → Memory.wf (l.foldl (fun m q => Memory.set q.1 q.2 m) m) = true := by
    induction l with
    | nil => intro m hm; exact hm
    | cons q r ih => intro m hm; exact ih _ (Memory.wf_set q.1 q.2 m hm)
  exact ⟨hs.1, h _ _ hs.2⟩

theorem keeps_execPcieLinkUp (speed : BitVec 3) (width mps : BitVec 4) (s : State) (hs : s.memoryWf) :
    KeepsOut (execPcieLinkUp speed width mps s) := by
  unfold execPcieLinkUp
  try dsimp only
  repeat' first
    | with_reducible first
      | exact hs | assumption | apply wf_ite | apply wf_iteOut | apply wf_next | apply keeps_sendEgress
      | (apply wf_mk; dsimp only; apply cells_of)
    | split | intro _ _ _ | intro _ _ | intro _

theorem keeps_execPcieLinkDown (s : State) (hs : s.memoryWf) :
    KeepsOut (execPcieLinkDown s) := by
  unfold execPcieLinkDown
  try dsimp only
  repeat' first
    | with_reducible first
      | exact hs | assumption | apply wf_ite | apply wf_iteOut | apply wf_next | (apply wf_mk; dsimp only; apply cells_of)
    | split | intro _ _ _ | intro _ _ | intro _

theorem keeps_writeWindow (w k : Nat) (v : Word) (s : State) (hs : s.memoryWf) :
    (writeWindow w k v s).memoryWf := by
  unfold writeWindow
  try dsimp only
  repeat' first
    | with_reducible first
      | exact hs | assumption | apply wf_ite | apply keeps_raise | (apply wf_mk; dsimp only; apply cells_of)
    | split | intro _ _ _ | intro _ _ | intro _

/-! ### Machine/Ledger.lean -/

theorem keeps_absorb (i : Nat) (rec_ : List Byte) (s : State) (hs : s.memoryWf) :
    (absorb i rec_ s).memoryWf := by
  unfold absorb
  try dsimp only
  repeat' first
    | with_reducible first
      | exact hs | assumption | apply wf_ite | apply keeps_closeBatch | apply keeps_setRing | (apply wf_mk; dsimp only; apply cells_of)
    | split | intro _ _ _ | intro _ _ | intro _

theorem keeps_discardCopy (i seq : Nat) (s : State) (hs : s.memoryWf) :
    (discardCopy i seq s).memoryWf := by
  unfold discardCopy
  try dsimp only
  repeat' first
    | with_reducible first
      | exact hs | assumption | apply wf_ite | (apply wf_mk; dsimp only; apply cells_of)
    | split | intro _ _ _ | intro _ _ | intro _

theorem keeps_passCopy (i : Nat) (rec_ : List Byte) (s : State) (hs : s.memoryWf) :
    (passCopy i rec_ s).memoryWf := by
  unfold passCopy
  try dsimp only
  repeat' first
    | with_reducible first
      | exact hs | assumption | apply wf_ite | apply keeps_absorb | apply keeps_discardCopy | (apply wf_mk; dsimp only; apply cells_of)
    | split | intro _ _ _ | intro _ _ | intro _

theorem keeps_gapEvent (i first last : Nat) (s : State) (hs : s.memoryWf) :
    (gapEvent i first last s).memoryWf := by
  unfold gapEvent
  try dsimp only
  repeat' first
    | with_reducible first
      | exact hs | assumption | apply wf_ite | apply keeps_drawFree | apply keeps_eventCopies | apply keeps_putEvent | apply keeps_ringEvent
      | (apply wf_mk; dsimp only; apply cells_of)
    | split | intro _ _ _ | intro _ _ | intro _

theorem keeps_takeGaps (p : Nat × Nat × Nat → Bool) (s : State) (hs : s.memoryWf) :
    (takeGaps p s).memoryWf := by
  unfold takeGaps
  try dsimp only
  repeat' first
    | with_reducible first
      | exact hs | assumption | apply wf_ite | apply keeps_closeBatch | apply keeps_each | apply keeps_gapEvent | apply keeps_modRing
      | (apply wf_mk; dsimp only; apply cells_of)
    | split | intro _ _ _ | intro _ _ | intro _

theorem keeps_drainCopies (s : State) (hs : s.memoryWf) :
    (drainCopies s).memoryWf := by
  unfold drainCopies
  try dsimp only
  repeat' first
    | with_reducible first
      | exact hs | assumption | apply wf_ite | apply keeps_absorb | apply keeps_each | apply keeps_takeGaps
      | (apply wf_mk; dsimp only; apply cells_of)
    | split | intro _ _ _ | intro _ _ | intro _

theorem keeps_execTagRecordWrite (slot task : Nat) (s : State) (hs : s.memoryWf) :
    KeepsOut (execTagRecordWrite slot task s) := by
  unfold execTagRecordWrite
  try dsimp only
  repeat' first
    | with_reducible first
      | exact hs | assumption | apply wf_ite | apply wf_iteOut | apply wf_next | apply keeps_finishRun | apply keeps_modGraph
      | apply keeps_modRing | apply keeps_passCopy | apply keeps_ringPushReserved | (apply wf_mk; dsimp only; apply cells_of)
    | split | intro _ _ _ | intro _ _ | intro _

theorem keeps_execLedgerBatchTimeout (ring : BitVec 14) (s : State) (hs : s.memoryWf) :
    KeepsOut (execLedgerBatchTimeout ring s) := by
  unfold execLedgerBatchTimeout
  try dsimp only
  repeat' first
    | with_reducible first
      | exact hs | assumption | apply wf_ite | apply wf_iteOut | apply wf_next | apply keeps_advanceTo | apply keeps_closeBatch
      | (apply wf_mk; dsimp only; apply cells_of)
    | split | intro _ _ _ | intro _ _ | intro _

theorem keeps_execSignatureRecord (ring : BitVec 14) (s : State) (hs : s.memoryWf) :
    KeepsOut (execSignatureRecord ring s) := by
  unfold execSignatureRecord
  try dsimp only
  repeat' first
    | with_reducible first
      | exact hs | assumption | apply wf_ite | apply wf_iteOut | apply wf_next | apply keeps_setRing | apply keeps_writeSignatures
      | (apply wf_mk; dsimp only; apply cells_of)
    | split | intro _ _ _ | intro _ _ | intro _

theorem keeps_setBatchSize (i b : Nat) (s : State) (hs : s.memoryWf) :
    (setBatchSize i b s).2.memoryWf := by
  unfold setBatchSize
  try dsimp only
  repeat' first
    | with_reducible first
      | exact hs | assumption | apply wf_ite | apply wf_iteSnd | apply keeps_closeBatch | apply keeps_setRing
      | (apply wf_mk; dsimp only; apply cells_of)
    | split | intro _ _ _ | intro _ _ | intro _

theorem keeps_closeLedger (i : Nat) (s : State) (hs : s.memoryWf) :
    (closeLedger i s).2.memoryWf := by
  unfold closeLedger
  try dsimp only
  repeat' first
    | with_reducible first
      | exact hs | assumption | apply wf_ite | apply wf_iteSnd | apply keeps_closeBatch | (apply wf_mk; dsimp only; apply cells_of)
    | split | intro _ _ _ | intro _ _ | intro _

/-! ### Machine/Bulk.lean -/

theorem keeps_bulkMove (d : BulkDesc) (left bad : Option Nat) (m : Nat × Nat × Nat) (s : State) (hs : s.memoryWf) :
    (bulkMove d left bad m s).2.2.2.memoryWf := by
  unfold bulkMove
  try dsimp only
  repeat' first
    | with_reducible first
      | exact hs | assumption | apply wf_ite | apply wf_iteFourth | apply keeps_addRegion | apply keeps_fileUnit | apply keeps_staleRegions
      | apply keeps_writeBytes | (apply wf_mk; dsimp only; apply cells_of)
    | split | intro _ _ _ | intro _ _ | intro _

theorem keeps_bulkRun (d : BulkDesc) (silent : Bool) (j : BulkJob) (left bad : Option Nat) (ms : List (Nat × Nat × Nat)) (s : State)
    (hs : s.memoryWf) : (bulkRun d silent j left bad ms s).memoryWf := by
  induction ms generalizing j left s with
  | nil => exact keeps_finishBulk _ _ s hs
  | cons m r ih =>
    rw [bulkRun]
    split
    · refine ih _ _ _ ?_
      split
      · exact keeps_postBulk _ _ _ _ _ _ s hs
      · exact hs
    · have hm := keeps_bulkMove d left bad m s hs
      split
      rename_i st n cut s' he
      rw [he] at hm
      split
      · exact hm
      · split
        · exact keeps_finishBulk _ _ _ hm
        · refine ih _ _ _ ?_
          split
          · exact keeps_postBulk _ _ _ _ _ _ _ hm
          · exact hm

theorem keeps_takeBulk (kind : BulkDesc → Bool) (i : Nat) (h : HostAns) (bad : Option Nat) (s : State) (hs : s.memoryWf) :
    (takeBulk kind i h bad s).memoryWf := by
  unfold takeBulk
  try dsimp only
  repeat' first
    | with_reducible first
      | exact hs | assumption | apply wf_ite | apply keeps_bulkRun | apply keeps_faultRing | apply keeps_finishBulk | apply keeps_modRing
      | apply keeps_postBulk | apply keeps_ringEvent | (apply wf_mk; dsimp only; apply cells_of)
    | split | intro _ _ _ | intro _ _ | intro _

theorem keeps_execBulkCopy (ring : BitVec 14) (h : HostAns) (s : State) (hs : s.memoryWf) :
    KeepsOut (execBulkCopy ring h s) := by
  unfold execBulkCopy
  try dsimp only
  repeat' first
    | with_reducible first
      | exact hs | assumption | apply wf_ite | apply wf_iteOut | apply wf_next | apply keeps_takeBulk
      | (apply wf_mk; dsimp only; apply cells_of)
    | split | intro _ _ _ | intro _ _ | intro _

theorem keeps_execBulkFill (ring : BitVec 14) (h : HostAns) (s : State) (hs : s.memoryWf) :
    KeepsOut (execBulkFill ring h s) := by
  unfold execBulkFill
  try dsimp only
  repeat' first
    | with_reducible first
      | exact hs | assumption | apply wf_ite | apply wf_iteOut | apply wf_next | apply keeps_takeBulk
      | (apply wf_mk; dsimp only; apply cells_of)
    | split | intro _ _ _ | intro _ _ | intro _

theorem keeps_execBulkLaneUnit (ring : BitVec 14) (h : HostAns) (s : State) (hs : s.memoryWf) :
    KeepsOut (execBulkLaneUnit ring h s) := by
  unfold execBulkLaneUnit
  try dsimp only
  repeat' first
    | with_reducible first
      | exact hs | assumption | apply wf_ite | apply wf_iteOut | apply wf_next | apply keeps_takeBulk
      | (apply wf_mk; dsimp only; apply cells_of)
    | split | intro _ _ _ | intro _ _ | intro _

theorem keeps_execBulkWeightLoad (ring : BitVec 14) (h : HostAns) (s : State) (hs : s.memoryWf) :
    KeepsOut (execBulkWeightLoad ring h s) := by
  unfold execBulkWeightLoad
  try dsimp only
  repeat' first
    | with_reducible first
      | exact hs | assumption | apply wf_ite | apply wf_iteOut | apply wf_next | apply keeps_takeBulk
      | (apply wf_mk; dsimp only; apply cells_of)
    | split | intro _ _ _ | intro _ _ | intro _

theorem keeps_execBulkHostTimeout (ring : BitVec 14) (s : State) (hs : s.memoryWf) :
    KeepsOut (execBulkHostTimeout ring s) := by
  unfold execBulkHostTimeout
  try dsimp only
  repeat' first
    | with_reducible first
      | exact hs | assumption | apply wf_ite | apply wf_iteOut | apply wf_next | apply keeps_advanceTo | apply keeps_finishBulk
      | (apply wf_mk; dsimp only; apply cells_of)
    | split | intro _ _ _ | intro _ _ | intro _

/-! ### Machine/Mem.lean -/

theorem keeps_transient (a : Nat) (use : ReadUse) (s : State) (hs : s.memoryWf) :
    (transient a use s).memoryWf := by
  unfold transient
  try dsimp only
  repeat' first
    | with_reducible first
      | exact hs | assumption | apply wf_ite | apply keeps_raise | (apply wf_mk; dsimp only; apply cells_of)
    | split | intro _ _ _ | intro _ _ | intro _

theorem keeps_execParityReread (a : Nat) (use : ReadUse) (tries : Nat) (s : State) (hs : s.memoryWf) :
    KeepsOut (execParityReread a use tries s) := by
  unfold execParityReread
  try dsimp only
  repeat' first
    | with_reducible first
      | exact hs | assumption | apply wf_ite | apply wf_iteOut | apply wf_next | apply keeps_transient
      | (apply wf_mk; dsimp only; apply cells_of)
    | split | intro _ _ _ | intro _ _ | intro _

theorem keeps_recordPersistent (a : Nat) (use : ReadUse) (s : State) (hs : s.memoryWf) :
    (recordPersistent a use s).memoryWf := by
  unfold recordPersistent
  try dsimp only
  repeat' first
    | with_reducible first
      | exact hs | assumption | apply wf_ite | apply keeps_dieFault | apply keeps_raise | (apply wf_mk; dsimp only; apply cells_of)
    | split | intro _ _ _ | intro _ _ | intro _

theorem keeps_hostAbort (a : Nat) (s : State) (hs : s.memoryWf) :
    (hostAbort a s).memoryWf := by
  unfold hostAbort
  try dsimp only
  repeat' first
    | with_reducible first
      | exact hs | assumption | apply wf_ite | apply keeps_raise | (apply wf_mk; dsimp only; apply cells_of)
    | split | intro _ _ _ | intro _ _ | intro _

theorem keeps_endRead (slot t a : Nat) (s : State) (hs : s.memoryWf) :
    (endRead slot t a s).memoryWf := by
  unfold endRead
  try dsimp only
  repeat' first
    | with_reducible first
      | exact hs | assumption | apply wf_ite | apply keeps_taskEnd | apply keeps_transferList | (apply wf_mk; dsimp only; apply cells_of)
    | split | intro _ _ _ | intro _ _ | intro _

theorem keeps_execPersistentError (a : Nat) (use : ReadUse) (s : State) (hs : s.memoryWf) :
    KeepsOut (execPersistentError a use s) := by
  unfold execPersistentError
  try dsimp only
  repeat' first
    | with_reducible first
      | exact hs | assumption | apply wf_ite | apply wf_iteOut | apply wf_next | apply keeps_emit | apply keeps_endRead
      | apply keeps_faultRing | apply keeps_finishBulk | apply keeps_hostAbort | apply keeps_raise | apply keeps_recordPersistent
      | apply keeps_ringEvent | apply keeps_takeBulk | apply keeps_taskEnd | (apply wf_mk; dsimp only; apply cells_of)
    | split | intro _ _ _ | intro _ _ | intro _

theorem keeps_execHbmRefresh (s : State) (hs : s.memoryWf) :
    KeepsOut (execHbmRefresh s) := by
  unfold execHbmRefresh
  try dsimp only
  repeat' first
    | with_reducible first
      | exact hs | assumption | apply wf_ite | apply wf_iteOut | apply wf_next | (apply wf_mk; dsimp only; apply cells_of)
    | split | intro _ _ _ | intro _ _ | intro _

theorem keeps_execLpddrRefresh (s : State) (hs : s.memoryWf) :
    KeepsOut (execLpddrRefresh s) := by
  unfold execLpddrRefresh
  try dsimp only
  repeat' first
    | with_reducible first
      | exact hs | assumption | apply wf_ite | apply wf_iteOut | apply wf_next | (apply wf_mk; dsimp only; apply cells_of)
    | split | intro _ _ _ | intro _ _ | intro _

theorem keeps_endTouching (touched : Nat → Nat → Bool) (st : BitVec 16) (s : State) (hs : s.memoryWf) :
    (endTouching touched st s).memoryWf := by
  unfold endTouching
  try dsimp only
  repeat' first
    | with_reducible first
      | exact hs | assumption | apply wf_ite | apply keeps_each | apply keeps_taskEnd | (apply wf_mk; dsimp only; apply cells_of)
    | split | intro _ _ _ | intro _ _ | intro _

theorem keeps_failStack (n : Nat) (s : State) (hs : s.memoryWf) :
    (failStack n s).memoryWf := by
  unfold failStack
  try dsimp only
  repeat' first
    | with_reducible first
      | exact hs | assumption | apply wf_ite | apply keeps_each | apply keeps_endTouching | apply keeps_finishBulk | apply keeps_raise
      | (apply wf_mk; dsimp only; apply cells_of)
    | split | intro _ _ _ | intro _ _ | intro _

theorem keeps_execStackFail (n : Nat) (s : State) (hs : s.memoryWf) :
    KeepsOut (execStackFail n s) := by
  unfold execStackFail
  try dsimp only
  repeat' first
    | with_reducible first
      | exact hs | assumption | apply wf_ite | apply wf_iteOut | apply wf_next | apply keeps_failStack
      | (apply wf_mk; dsimp only; apply cells_of)
    | split | intro _ _ _ | intro _ _ | intro _

theorem keeps_execStackCaParityLoss (n : Nat) (s : State) (hs : s.memoryWf) :
    KeepsOut (execStackCaParityLoss n s) := by
  unfold execStackCaParityLoss
  try dsimp only
  repeat' first
    | with_reducible first
      | exact hs | assumption | apply wf_ite | apply wf_iteOut | apply wf_next | apply keeps_failStack
      | (apply wf_mk; dsimp only; apply cells_of)
    | split | intro _ _ _ | intro _ _ | intro _

theorem keeps_failPackage (n : Nat) (s : State) (hs : s.memoryWf) :
    (failPackage n s).memoryWf := by
  unfold failPackage
  try dsimp only
  repeat' first
    | with_reducible first
      | exact hs | assumption | apply wf_ite | apply keeps_endTouching | apply keeps_raise | (apply wf_mk; dsimp only; apply cells_of)
    | split | intro _ _ _ | intro _ _ | intro _

theorem keeps_execLpddrPackageFail (n : Nat) (s : State) (hs : s.memoryWf) :
    KeepsOut (execLpddrPackageFail n s) := by
  unfold execLpddrPackageFail
  try dsimp only
  repeat' first
    | with_reducible first
      | exact hs | assumption | apply wf_ite | apply wf_iteOut | apply wf_next | apply keeps_failPackage
      | (apply wf_mk; dsimp only; apply cells_of)
    | split | intro _ _ _ | intro _ _ | intro _

/-! ### Machine/Resets.lean -/

theorem keeps_endFaulted (ts : List (Nat × Nat)) (s : State) (hs : s.memoryWf) :
    (endFaulted ts s).memoryWf := by
  unfold endFaulted
  try dsimp only
  repeat' first
    | with_reducible first
      | exact hs | assumption | apply wf_ite | apply keeps_each | apply keeps_taskEnd | (apply wf_mk; dsimp only; apply cells_of)
    | split | intro _ _ _ | intro _ _ | intro _

theorem keeps_endOnUnit (block half : Nat) (s : State) (hs : s.memoryWf) :
    (endOnUnit block half s).memoryWf := by
  unfold endOnUnit
  try dsimp only
  repeat' first
    | with_reducible first
      | exact hs | assumption | apply wf_ite | apply keeps_endFaulted | (apply wf_mk; dsimp only; apply cells_of)
    | split | intro _ _ _ | intro _ _ | intro _

theorem keeps_endWindowTasks (s : State) (hs : s.memoryWf) :
    (endWindowTasks s).memoryWf := by
  unfold endWindowTasks
  try dsimp only
  repeat' first
    | with_reducible first
      | exact hs | assumption | apply wf_ite | apply keeps_each | apply keeps_taskEnd | (apply wf_mk; dsimp only; apply cells_of)
    | split | intro _ _ _ | intro _ _ | intro _

theorem keeps_resetBlock (b : Nat) (s : State) (hs : s.memoryWf) :
    (resetBlock b s).memoryWf := by
  unfold resetBlock
  try dsimp only
  repeat' first
    | with_reducible first
      | exact hs | assumption | apply wf_ite | apply keeps_clearBlocks | apply keeps_each | apply keeps_endOnUnit | apply keeps_resetArray
      | apply keeps_resetCal | apply keeps_resetHif | apply keeps_resetLge | apply keeps_resetLinks | apply keeps_resetPsr
      | apply keeps_resetSqu | apply keeps_resetXl | apply keeps_taskEnd | (apply wf_mk; dsimp only; apply cells_of)
    | split | intro _ _ _ | intro _ _ | intro _

theorem keeps_resetWarm (s : State) (hs : s.memoryWf) :
    (resetWarm s).memoryWf := by
  unfold resetWarm
  try dsimp only
  repeat' first
    | with_reducible first
      | exact hs | assumption | apply wf_ite | apply keeps_abandonPreparations | apply keeps_abortBulk | apply keeps_clearBlocks
      | apply keeps_enterMode | apply keeps_leaveAll | apply keeps_loseStaging | apply keeps_resetArray | apply keeps_resetCal
      | apply keeps_resetCls | apply keeps_resetLge | apply keeps_resetLinks | apply keeps_resetMemories | apply keeps_resetSeq
      | apply keeps_resetXl | apply keeps_stopNow | (apply wf_mk; dsimp only; apply cells_of)
    | split | intro _ _ _ | intro _ _ | intro _

theorem keeps_beginReset (k : ResetKind) (source : Nat) (s : State) (hs : s.memoryWf) :
    (beginReset k source s).memoryWf := by
  unfold beginReset
  try dsimp only
  repeat' first
    | with_reducible first
      | exact hs | assumption | apply wf_ite | apply keeps_abandonStep | apply keeps_coldContents | apply keeps_dropWorkAll
      | apply keeps_endBulk | apply keeps_endUpdate | apply keeps_endWindowTasks | apply keeps_flashOnly | apply keeps_powerOn
      | apply keeps_resetBlock | apply keeps_resetFunction | apply keeps_resetWarm | (apply wf_mk; dsimp only; apply cells_of)
    | split | intro _ _ _ | intro _ _ | intro _

theorem keeps_portReset (source : Nat) (s : State) (hs : s.memoryWf) :
    (portReset source s).memoryWf := by
  unfold portReset
  try dsimp only
  repeat' first
    | with_reducible first
      | exact hs | assumption | apply wf_ite | apply keeps_beginReset | apply keeps_endWindowTasks | apply keeps_resetFunction
      | (apply wf_mk; dsimp only; apply cells_of)
    | split | intro _ _ _ | intro _ _ | intro _

theorem keeps_beginAction (a : Action) (s : State) (hs : s.memoryWf) :
    (beginAction a s).memoryWf := by
  unfold beginAction
  try dsimp only
  repeat' first
    | with_reducible first
      | exact hs | assumption | apply wf_ite | apply keeps_beginReset | apply keeps_enterFrost | apply keeps_enterRecovery
      | apply keeps_inputInterruption | apply keeps_raise | (apply wf_mk; dsimp only; apply cells_of)
    | split | intro _ _ _ | intro _ _ | intro _

theorem keeps_execMscActionStart (s : State) (hs : s.memoryWf) :
    KeepsOut (execMscActionStart s) := by
  unfold execMscActionStart
  try dsimp only
  repeat' first
    | with_reducible first
      | exact hs | assumption | apply wf_ite | apply wf_iteOut | apply wf_next | apply keeps_advanceTo | apply keeps_beginAction
      | (apply wf_mk; dsimp only; apply cells_of)
    | split | intro _ _ _ | intro _ _ | intro _

theorem keeps_resetDone (type source block : Nat) (half1 half0 : Bool) (s : State) (hs : s.memoryWf) :
    (resetDone type source block half1 half0 s).memoryWf := by
  unfold resetDone
  try dsimp only
  repeat' first
    | with_reducible first
      | exact hs | assumption | apply wf_ite | apply keeps_raise | (apply wf_mk; dsimp only; apply cells_of)
    | split | intro _ _ _ | intro _ _ | intro _

theorem keeps_bringUp (o : BringUp) (s : State) (hs : s.memoryWf) :
    (bringUp o s).memoryWf := by
  unfold bringUp
  try dsimp only
  repeat' first
    | with_reducible first
      | exact hs | assumption | apply wf_ite | apply keeps_bringUpSources | apply keeps_each | apply keeps_enterMode
      | apply keeps_failPackage | apply keeps_failStack | apply keeps_firmwareTraining | apply keeps_loseLpddr
      | apply keeps_startupCalibration | apply keeps_trialRevert | (apply wf_mk; dsimp only; apply cells_of)
    | split | intro _ _ _ | intro _ _ | intro _

theorem keeps_resetEnd (o : BringUp) (s : State) (hs : s.memoryWf) :
    (resetEnd o s).memoryWf := by
  unfold resetEnd
  try dsimp only
  repeat' first
    | with_reducible first
      | exact hs | assumption | apply wf_ite | apply keeps_bringUp | apply keeps_enterMode | apply keeps_measuredBoot | apply keeps_powerOn
      | apply keeps_reacquire | apply keeps_resetDone | apply keeps_sourcesResume | (apply wf_mk; dsimp only; apply cells_of)
    | split | intro _ _ _ | intro _ _ | intro _

theorem keeps_execStandbyExit (o : BringUp) (s : State) (hs : s.memoryWf) :
    KeepsOut (execStandbyExit o s) := by
  unfold execStandbyExit
  try dsimp only
  repeat' first
    | with_reducible first
      | exact hs | assumption | apply wf_ite | apply wf_iteOut | apply wf_next | apply keeps_bringUp | apply keeps_measuredBoot
      | (apply wf_mk; dsimp only; apply cells_of)
    | split | intro _ _ _ | intro _ _ | intro _

theorem keeps_execResetNPulse (s : State) (hs : s.memoryWf) :
    KeepsOut (execResetNPulse s) := by
  unfold execResetNPulse
  try dsimp only
  repeat' first
    | with_reducible first
      | exact hs | assumption | apply wf_ite | apply wf_iteOut | apply wf_next | apply keeps_beginReset
      | (apply wf_mk; dsimp only; apply cells_of)
    | split | intro _ _ _ | intro _ _ | intro _

theorem keeps_execResetNRelease (s : State) (hs : s.memoryWf) :
    KeepsOut (execResetNRelease s) := by
  unfold execResetNRelease
  try dsimp only
  repeat' first
    | with_reducible first
      | exact hs | assumption | apply wf_ite | apply wf_iteOut | apply wf_next | (apply wf_mk; dsimp only; apply cells_of)
    | split | intro _ _ _ | intro _ _ | intro _

theorem keeps_execPerstAssert (s : State) (hs : s.memoryWf) :
    KeepsOut (execPerstAssert s) := by
  unfold execPerstAssert
  try dsimp only
  repeat' first
    | with_reducible first
      | exact hs | assumption | apply wf_ite | apply wf_iteOut | apply wf_next | apply keeps_portReset
      | (apply wf_mk; dsimp only; apply cells_of)
    | split | intro _ _ _ | intro _ _ | intro _

theorem keeps_execPcieFlr (s : State) (hs : s.memoryWf) :
    KeepsOut (execPcieFlr s) := by
  unfold execPcieFlr
  try dsimp only
  repeat' first
    | with_reducible first
      | exact hs | assumption | apply wf_ite | apply wf_iteOut | apply wf_next | apply keeps_portReset
      | (apply wf_mk; dsimp only; apply cells_of)
    | split | intro _ _ _ | intro _ _ | intro _

theorem keeps_execPcieHotReset (s : State) (hs : s.memoryWf) :
    KeepsOut (execPcieHotReset s) := by
  unfold execPcieHotReset
  try dsimp only
  repeat' first
    | with_reducible first
      | exact hs | assumption | apply wf_ite | apply wf_iteOut | apply wf_next | apply keeps_portReset
      | (apply wf_mk; dsimp only; apply cells_of)
    | split | intro _ _ _ | intro _ _ | intro _

theorem keeps_dormantRequest (s : State) (hs : s.memoryWf) :
    (dormantRequest s).memoryWf := by
  unfold dormantRequest
  try dsimp only
  repeat' first
    | with_reducible first
      | exact hs | assumption | apply wf_ite | apply keeps_abandonPreparations | apply keeps_abortBulk | apply keeps_dischargeAll
      | apply keeps_enterMode | apply keeps_loseStaging | apply keeps_portsDark | apply keeps_purgeWaiting | apply keeps_raise
      | apply keeps_sourcesOff | apply keeps_stopEpochs | (apply wf_mk; dsimp only; apply cells_of)
    | split | intro _ _ _ | intro _ _ | intro _

theorem keeps_execUnitWatchdogExpiry (block half : Nat) (s : State) (hs : s.memoryWf) :
    KeepsOut (execUnitWatchdogExpiry block half s) := by
  unfold execUnitWatchdogExpiry
  try dsimp only
  repeat' first
    | with_reducible first
      | exact hs | assumption | apply wf_ite | apply wf_iteOut | apply wf_next | apply keeps_endFaulted | apply keeps_raise
      | (apply wf_mk; dsimp only; apply cells_of)
    | split | intro _ _ _ | intro _ _ | intro _

theorem keeps_unitResets (stuck : List (Nat × Nat)) (s : State) (hs : s.memoryWf) :
    (unitResets stuck s).memoryWf := by
  unfold unitResets
  try dsimp only
  repeat' first
    | with_reducible first
      | exact hs | assumption | apply wf_ite | apply keeps_each | apply keeps_resetDone | apply keeps_resetHalf
      | (apply wf_mk; dsimp only; apply cells_of)
    | split | intro _ _ _ | intro _ _ | intro _

theorem keeps_endOnFaulted (s : State) (hs : s.memoryWf) :
    (endOnFaulted s).memoryWf := by
  unfold endOnFaulted
  try dsimp only
  repeat' first
    | with_reducible first
      | exact hs | assumption | apply wf_ite | apply keeps_each | apply keeps_endFaulted | (apply wf_mk; dsimp only; apply cells_of)
    | split | intro _ _ _ | intro _ _ | intro _

theorem keeps_execMscWatchdogExpiry (s : State) (hs : s.memoryWf) :
    KeepsOut (execMscWatchdogExpiry s) := by
  unfold execMscWatchdogExpiry
  try dsimp only
  repeat' first
    | with_reducible first
      | exact hs | assumption | apply wf_ite | apply wf_iteOut | apply wf_next | apply keeps_enterRecovery | apply keeps_mscRestart
      | apply keeps_raise | apply keeps_trialRevert | (apply wf_mk; dsimp only; apply cells_of)
    | split | intro _ _ _ | intro _ _ | intro _

theorem keeps_execFrontEndFallback (s : State) (hs : s.memoryWf) :
    KeepsOut (execFrontEndFallback s) := by
  unfold execFrontEndFallback
  try dsimp only
  repeat' first
    | with_reducible first
      | exact hs | assumption | apply wf_ite | apply wf_iteOut | apply wf_next | apply keeps_beginAction | apply keeps_complete
      | (apply wf_mk; dsimp only; apply cells_of)
    | split | intro _ _ _ | intro _ _ | intro _

theorem keeps_mscRestartDone (s : State) (hs : s.memoryWf) :
    (mscRestartDone s).memoryWf := by
  unfold mscRestartDone
  try dsimp only
  repeat' first
    | with_reducible first
      | exact hs | assumption | apply wf_ite | apply keeps_drainCopies | apply keeps_measuredBoot
      | (apply wf_mk; dsimp only; apply cells_of)
    | split | intro _ _ _ | intro _ _ | intro _

end Sys2Proof.Machine
end

