-- ==== Sys2Proof/Laws/KeepsRegs.lean ====
section
/-! SUPPORT. Both memories stay in canonical form: one lemma per operation of registers, firmware and time transfer. -/

namespace Sys2Proof.Machine

set_option linter.all false

/-! ### Machine/RegRead.lean -/

theorem keeps_readEffect (src off : Nat) (s : State) (hs : s.memoryWf) :
    (readEffect src off s).memoryWf := by
  unfold readEffect
  try dsimp only
  repeat' first
    | with_reducible first
      | exact hs | assumption | apply wf_ite | (apply wf_mk; dsimp only; apply cells_of)
    | split | intro _ _ _ | intro _ _ | intro _

/-! ### Machine/RegWrite.lean -/

theorem keeps_invalidWrite (c : Src) (s : State) (hs : s.memoryWf) :
    (invalidWrite c s).memoryWf := by
  unfold invalidWrite
  try dsimp only
  repeat' first
    | with_reducible first
      | exact hs | assumption | apply wf_ite | apply keeps_raise | (apply wf_mk; dsimp only; apply cells_of)
    | split | intro _ _ _ | intro _ _ | intro _

theorem keeps_clearEvents (c : Src) (w hw : Word) (s : State) (hs : s.memoryWf) :
    (clearEvents c w hw s).memoryWf := by
  unfold clearEvents
  try dsimp only
  repeat' first
    | with_reducible first
      | exact hs | assumption | apply wf_ite | apply keeps_irqIfPending | (apply wf_mk; dsimp only; apply cells_of)
    | split | intro _ _ _ | intro _ _ | intro _

theorem keeps_writeMapReq (w : Word) (s : State) (hs : s.memoryWf) :
    (writeMapReq w s).memoryWf := by
  unfold writeMapReq
  try dsimp only
  repeat' first
    | with_reducible first
      | exact hs | assumption | apply wf_ite | apply keeps_invalidWrite | apply keeps_mapRequest | (apply wf_mk; dsimp only; apply cells_of)
    | split | intro _ _ _ | intro _ _ | intro _

theorem keeps_writeClsCtrl (w : Word) (s : State) (hs : s.memoryWf) :
    (writeClsCtrl w s).memoryWf := by
  unfold writeClsCtrl
  try dsimp only
  repeat' first
    | with_reducible first
      | exact hs | assumption | apply wf_ite | apply keeps_invalidWrite | apply keeps_takeoverRequest
      | (apply wf_mk; dsimp only; apply cells_of)
    | split | intro _ _ _ | intro _ _ | intro _

theorem keeps_writeTdwCtrl (w : Word) (s : State) (hs : s.memoryWf) :
    (writeTdwCtrl w s).memoryWf := by
  unfold writeTdwCtrl
  try dsimp only
  repeat' first
    | with_reducible first
      | exact hs | assumption | apply wf_ite | (apply wf_mk; dsimp only; apply cells_of)
    | split | intro _ _ _ | intro _ _ | intro _

theorem keeps_writeSquCtrl (w : Word) (s : State) (hs : s.memoryWf) :
    (writeSquCtrl w s).memoryWf := by
  unfold writeSquCtrl
  try dsimp only
  repeat' first
    | with_reducible first
      | exact hs | assumption | apply wf_ite | (apply wf_mk; dsimp only; apply cells_of)
    | split | intro _ _ _ | intro _ _ | intro _

theorem keeps_writeLgeCtrl (w : Word) (s : State) (hs : s.memoryWf) :
    (writeLgeCtrl w s).memoryWf := by
  unfold writeLgeCtrl
  try dsimp only
  repeat' first
    | with_reducible first
      | exact hs | assumption | apply wf_ite | (apply wf_mk; dsimp only; apply cells_of)
    | split | intro _ _ _ | intro _ _ | intro _

theorem keeps_writeXlCtrl (w : Word) (s : State) (hs : s.memoryWf) :
    (writeXlCtrl w s).memoryWf := by
  unfold writeXlCtrl
  try dsimp only
  repeat' first
    | with_reducible first
      | exact hs | assumption | apply wf_ite | (apply wf_mk; dsimp only; apply cells_of)
    | split | intro _ _ _ | intro _ _ | intro _

theorem keeps_writeSeqCtrl (w : Word) (s : State) (hs : s.memoryWf) :
    (writeSeqCtrl w s).memoryWf := by
  unfold writeSeqCtrl
  try dsimp only
  repeat' first
    | with_reducible first
      | exact hs | assumption | apply wf_ite | (apply wf_mk; dsimp only; apply cells_of)
    | split | intro _ _ _ | intro _ _ | intro _

theorem keeps_writeEpochLen (w : Word) (s : State) (hs : s.memoryWf) :
    (writeEpochLen w s).memoryWf := by
  unfold writeEpochLen
  try dsimp only
  repeat' first
    | with_reducible first
      | exact hs | assumption | apply wf_ite | apply keeps_invalidWrite | apply keeps_raise | (apply wf_mk; dsimp only; apply cells_of)
    | split | intro _ _ _ | intro _ _ | intro _

theorem keeps_writeLane (n k : Nat) (w : Word) (s : State) (hs : s.memoryWf) :
    (writeLane n k w s).memoryWf := by
  unfold writeLane
  try dsimp only
  repeat' first
    | with_reducible first
      | exact hs | assumption | apply wf_ite | apply keeps_invalidWrite | apply keeps_modLane | apply keeps_raise
      | (apply wf_mk; dsimp only; apply cells_of)
    | split | intro _ _ _ | intro _ _ | intro _

theorem keeps_writeHmsCtrl (w : Word) (s : State) (hs : s.memoryWf) :
    (writeHmsCtrl w s).memoryWf := by
  unfold writeHmsCtrl
  try dsimp only
  repeat' first
    | with_reducible first
      | exact hs | assumption | apply wf_ite | (apply wf_mk; dsimp only; apply cells_of)
    | split | intro _ _ _ | intro _ _ | intro _

theorem keeps_writeLmsCtrl (w : Word) (s : State) (hs : s.memoryWf) :
    (writeLmsCtrl w s).memoryWf := by
  unfold writeLmsCtrl
  try dsimp only
  repeat' first
    | with_reducible first
      | exact hs | assumption | apply wf_ite | (apply wf_mk; dsimp only; apply cells_of)
    | split | intro _ _ _ | intro _ _ | intro _

theorem keeps_trainRequest (mask : BitVec 4) (s : State) (hs : s.memoryWf) :
    (trainRequest mask s).memoryWf := by
  unfold trainRequest
  try dsimp only
  repeat' first
    | with_reducible first
      | exact hs | assumption | apply wf_ite | apply keeps_raise | apply keeps_trainPorts | (apply wf_mk; dsimp only; apply cells_of)
    | split | intro _ _ _ | intro _ _ | intro _

theorem keeps_writeOleCtrl (w : Word) (s : State) (hs : s.memoryWf) :
    (writeOleCtrl w s).memoryWf := by
  unfold writeOleCtrl
  try dsimp only
  repeat' first
    | with_reducible first
      | exact hs | assumption | apply wf_ite | apply keeps_trainPorts | apply keeps_trainRequest | (apply wf_mk; dsimp only; apply cells_of)
    | split | intro _ _ _ | intro _ _ | intro _

theorem keeps_writeGroup (id : BitVec 16) (n i : Nat) (s : State) (hs : s.memoryWf) :
    (writeGroup id n i s).memoryWf := by
  unfold writeGroup
  try dsimp only
  repeat' first
    | with_reducible first
      | exact hs | assumption | apply wf_ite | apply keeps_invalidWrite | apply keeps_raise | apply keeps_trainPorts
      | (apply wf_mk; dsimp only; apply cells_of)
    | split | intro _ _ _ | intro _ _ | intro _

theorem keeps_writeRest (k : Nat) (w : Word) (s : State) (hs : s.memoryWf) :
    (writeRest k w s).memoryWf := by
  unfold writeRest
  try dsimp only
  repeat' first
    | with_reducible first
      | exact hs | assumption | apply wf_ite | apply keeps_invalidWrite | apply keeps_raise | apply keeps_restWritten
      | (apply wf_mk; dsimp only; apply cells_of)
    | split | intro _ _ _ | intro _ _ | intro _

theorem keeps_writeQbvCtrl (w : Word) (s : State) (hs : s.memoryWf) :
    (writeQbvCtrl w s).memoryWf := by
  unfold writeQbvCtrl
  try dsimp only
  repeat' first
    | with_reducible first
      | exact hs | assumption | apply wf_ite | apply keeps_invalidWrite | apply keeps_raise | (apply wf_mk; dsimp only; apply cells_of)
    | split | intro _ _ _ | intro _ _ | intro _

theorem keeps_writeQbv (r : QbvReg) (w : Word) (s : State) (hs : s.memoryWf) :
    (writeQbv r w s).memoryWf := by
  unfold writeQbv
  try dsimp only
  repeat' first
    | with_reducible first
      | exact hs | assumption | apply wf_ite | apply keeps_invalidWrite | apply keeps_raise | apply keeps_writeQbvCtrl
      | (apply wf_mk; dsimp only; apply cells_of)
    | split | intro _ _ _ | intro _ _ | intro _

theorem keeps_writeCpCtrl (w : Word) (s : State) (hs : s.memoryWf) :
    (writeCpCtrl w s).memoryWf := by
  unfold writeCpCtrl
  try dsimp only
  repeat' first
    | with_reducible first
      | exact hs | assumption | apply wf_ite | (apply wf_mk; dsimp only; apply cells_of)
    | split | intro _ _ _ | intro _ _ | intro _

theorem keeps_sendPending (s : State) (hs : s.memoryWf) :
    (sendPending s).memoryWf := by
  unfold sendPending
  try dsimp only
  repeat' first
    | with_reducible first
      | exact hs | assumption | apply wf_ite | apply keeps_each | apply keeps_irqIfPending | (apply wf_mk; dsimp only; apply cells_of)
    | split | intro _ _ _ | intro _ _ | intro _

theorem keeps_writeIrq (src : Option Nat) (w : Word) (s : State) (hs : s.memoryWf) :
    (writeIrq src w s).memoryWf := by
  unfold writeIrq
  try dsimp only
  repeat' first
    | with_reducible first
      | exact hs | assumption | apply wf_ite | apply keeps_irqIfPending | apply keeps_sendPending
      | (apply wf_mk; dsimp only; apply cells_of)
    | split | intro _ _ _ | intro _ _ | intro _

theorem keeps_writeTelemCfg (w : Word) (s : State) (hs : s.memoryWf) :
    (writeTelemCfg w s).memoryWf := by
  unfold writeTelemCfg
  try dsimp only
  repeat' first
    | with_reducible first
      | exact hs | assumption | apply wf_ite | apply keeps_invalidWrite | (apply wf_mk; dsimp only; apply cells_of)
    | split | intro _ _ _ | intro _ _ | intro _

theorem keeps_writeRing (i k : Nat) (w : Word) (s : State) (hs : s.memoryWf) :
    (writeRing i k w s).memoryWf := by
  unfold writeRing
  try dsimp only
  repeat' first
    | with_reducible first
      | exact hs | assumption | apply wf_ite | apply keeps_writeRingCfg | apply keeps_writeRingReg
      | (apply wf_mk; dsimp only; apply cells_of)
    | split | intro _ _ _ | intro _ _ | intro _

theorem keeps_writeHif (o : Nat) (w hw : Word) (s : State) (hs : s.memoryWf) :
    (writeHif o w hw s).memoryWf := by
  unfold writeHif
  try dsimp only
  repeat' first
    | with_reducible first
      | exact hs | assumption | apply wf_ite | apply keeps_clearEvents | apply keeps_doorbell | apply keeps_writeCpCtrl
      | apply keeps_writeIrq | apply keeps_writeQbv | apply keeps_writeRing | apply keeps_writeTelemCfg | apply keeps_writeWindow
      | (apply wf_mk; dsimp only; apply cells_of)
    | split | intro _ _ _ | intro _ _ | intro _

theorem keeps_writeCalCtrl (w : Word) (o : SysObs) (s : State) (hs : s.memoryWf) :
    (writeCalCtrl w o s).memoryWf := by
  unfold writeCalCtrl
  try dsimp only
  repeat' first
    | with_reducible first
      | exact hs | assumption | apply wf_ite | apply keeps_invalidWrite | apply keeps_sysStep | (apply wf_mk; dsimp only; apply cells_of)
    | split | intro _ _ _ | intro _ _ | intro _

theorem keeps_writeTpsCtrl (w : Word) (s : State) (hs : s.memoryWf) :
    (writeTpsCtrl w s).memoryWf := by
  unfold writeTpsCtrl
  try dsimp only
  repeat' first
    | with_reducible first
      | exact hs | assumption | apply wf_ite | apply keeps_withLevel | (apply wf_mk; dsimp only; apply cells_of)
    | split | intro _ _ _ | intro _ _ | intro _

theorem keeps_writeMscCtrl (w : Word) (s : State) (hs : s.memoryWf) :
    (writeMscCtrl w s).memoryWf := by
  unfold writeMscCtrl
  try dsimp only
  repeat' first
    | with_reducible first
      | exact hs | assumption | apply wf_ite | apply keeps_invalidWrite | (apply wf_mk; dsimp only; apply cells_of)
    | split | intro _ _ _ | intro _ _ | intro _

theorem keeps_writeStateCtrl (w : Word) (s : State) (hs : s.memoryWf) :
    (writeStateCtrl w s).memoryWf := by
  unfold writeStateCtrl
  try dsimp only
  repeat' first
    | with_reducible first
      | exact hs | assumption | apply wf_ite | apply keeps_dormantRequest | apply keeps_invalidWrite
      | (apply wf_mk; dsimp only; apply cells_of)
    | split | intro _ _ _ | intro _ _ | intro _

theorem keeps_writeCal (o : Nat) (w hw : Word) (obs : SysObs) (s : State) (hs : s.memoryWf) :
    (writeCal o w hw obs s).memoryWf := by
  unfold writeCal
  try dsimp only
  repeat' first
    | with_reducible first
      | exact hs | assumption | apply wf_ite | apply keeps_clearEvents | apply keeps_writeCalCtrl
      | (apply wf_mk; dsimp only; apply cells_of)
    | split | intro _ _ _ | intro _ _ | intro _

theorem keeps_writeTsl (o : Nat) (w hw : Word) (s : State) (hs : s.memoryWf) :
    (writeTsl o w hw s).memoryWf := by
  unfold writeTsl
  try dsimp only
  repeat' first
    | with_reducible first
      | exact hs | assumption | apply wf_ite | apply keeps_clearEvents | apply keeps_writeEpochLen | apply keeps_writeLane
      | (apply wf_mk; dsimp only; apply cells_of)
    | split | intro _ _ _ | intro _ _ | intro _

theorem keeps_writeOle (o : Nat) (w hw : Word) (s : State) (hs : s.memoryWf) :
    (writeOle o w hw s).memoryWf := by
  unfold writeOle
  try dsimp only
  repeat' first
    | with_reducible first
      | exact hs | assumption | apply wf_ite | apply keeps_clearEvents | apply keeps_writeGroup | apply keeps_writeOleCtrl
      | apply keeps_writeRest | (apply wf_mk; dsimp only; apply cells_of)
    | split | intro _ _ _ | intro _ _ | intro _

theorem keeps_writeWordObs (off : Nat) (w hw : Word) (obs : SysObs) (s : State) (hs : s.memoryWf) :
    (writeWordObs off w hw obs s).memoryWf := by
  unfold writeWordObs
  try dsimp only
  repeat' first
    | with_reducible first
      | exact hs | assumption | apply wf_ite | apply keeps_clearEvents | apply keeps_writeCal | apply keeps_writeClsCtrl
      | apply keeps_writeHif | apply keeps_writeHmsCtrl | apply keeps_writeLgeCtrl | apply keeps_writeLmsCtrl | apply keeps_writeMapReq
      | apply keeps_writeMscCtrl | apply keeps_writeOle | apply keeps_writeSeqCtrl | apply keeps_writeSquCtrl | apply keeps_writeStateCtrl
      | apply keeps_writeTdwCtrl | apply keeps_writeTpsCtrl | apply keeps_writeTsl | apply keeps_writeXlCtrl
      | (apply wf_mk; dsimp only; apply cells_of)
    | split | intro _ _ _ | intro _ _ | intro _

theorem keeps_writeWord (off : Nat) (w : Word) (s : State) (hs : s.memoryWf) :
    (writeWord off w s).memoryWf := by
  unfold writeWord
  try dsimp only
  repeat' first
    | with_reducible first
      | exact hs | assumption | apply wf_ite | apply keeps_writeWordObs | (apply wf_mk; dsimp only; apply cells_of)
    | split | intro _ _ _ | intro _ _ | intro _

/-! ### Machine/Regs.lean -/

theorem keeps_unsupported (s : State) (hs : s.memoryWf) :
    (unsupported s).memoryWf := by
  unfold unsupported
  try dsimp only
  repeat' first
    | with_reducible first
      | exact hs | assumption | apply wf_ite | apply keeps_emit | apply keeps_raise | (apply wf_mk; dsimp only; apply cells_of)
    | split | intro _ _ _ | intro _ _ | intro _

theorem keeps_performAccess (a : Path × Nat × Option Word) (s : State) (hs : s.memoryWf) :
    (performAccess a s).memoryWf := by
  unfold performAccess
  try dsimp only
  repeat' first
    | with_reducible first
      | exact hs | assumption | apply wf_ite | apply keeps_emit | apply keeps_readEffect | apply keeps_writeWord
      | (apply wf_mk; dsimp only; apply cells_of)
    | split | intro _ _ _ | intro _ _ | intro _

theorem keeps_access (p : Path) (off : Nat) (v : Option Word) (s : State) (hs : s.memoryWf) :
    (access p off v s).memoryWf := by
  unfold access
  try dsimp only
  repeat' first
    | with_reducible first
      | exact hs | assumption | apply wf_ite | apply keeps_performAccess | apply keeps_raise | apply keeps_unsupported
      | (apply wf_mk; dsimp only; apply cells_of)
    | split | intro _ _ _ | intro _ _ | intro _

theorem keeps_pathWrite (p : Path) (off : Nat) (w : Word) (s : State) (hs : s.memoryWf) :
    (pathWrite p off w s).memoryWf := by
  unfold pathWrite
  try dsimp only
  repeat' first
    | with_reducible first
      | exact hs | assumption | apply wf_ite | apply keeps_access | (apply wf_mk; dsimp only; apply cells_of)
    | split | intro _ _ _ | intro _ _ | intro _

theorem keeps_runAccesses (s : State) (hs : s.memoryWf) :
    (runAccesses s).memoryWf := by
  unfold runAccesses
  try dsimp only
  repeat' first
    | with_reducible first
      | exact hs | assumption | apply wf_ite | apply keeps_each | apply keeps_performAccess | (apply wf_mk; dsimp only; apply cells_of)
    | split | intro _ _ _ | intro _ _ | intro _

theorem keeps_execTdwClrStats (p : Path) (w : Word) (s : State) (hs : s.memoryWf) :
    KeepsOut (execTdwClrStats p w s) := by
  unfold execTdwClrStats
  try dsimp only
  repeat' first
    | with_reducible first
      | exact hs | assumption | apply wf_ite | apply wf_iteOut | apply wf_next | apply keeps_pathWrite
      | (apply wf_mk; dsimp only; apply cells_of)
    | split | intro _ _ _ | intro _ _ | intro _

theorem keeps_execSquClrStats (p : Path) (w : Word) (s : State) (hs : s.memoryWf) :
    KeepsOut (execSquClrStats p w s) := by
  unfold execSquClrStats
  try dsimp only
  repeat' first
    | with_reducible first
      | exact hs | assumption | apply wf_ite | apply wf_iteOut | apply wf_next | apply keeps_pathWrite
      | (apply wf_mk; dsimp only; apply cells_of)
    | split | intro _ _ _ | intro _ _ | intro _

theorem keeps_execLgeClrStats (p : Path) (w : Word) (s : State) (hs : s.memoryWf) :
    KeepsOut (execLgeClrStats p w s) := by
  unfold execLgeClrStats
  try dsimp only
  repeat' first
    | with_reducible first
      | exact hs | assumption | apply wf_ite | apply wf_iteOut | apply wf_next | apply keeps_pathWrite
      | (apply wf_mk; dsimp only; apply cells_of)
    | split | intro _ _ _ | intro _ _ | intro _

theorem keeps_execXlClrStats (p : Path) (w : Word) (s : State) (hs : s.memoryWf) :
    KeepsOut (execXlClrStats p w s) := by
  unfold execXlClrStats
  try dsimp only
  repeat' first
    | with_reducible first
      | exact hs | assumption | apply wf_ite | apply wf_iteOut | apply wf_next | apply keeps_pathWrite
      | (apply wf_mk; dsimp only; apply cells_of)
    | split | intro _ _ _ | intro _ _ | intro _

theorem keeps_execSeqClrStats (p : Path) (w : Word) (s : State) (hs : s.memoryWf) :
    KeepsOut (execSeqClrStats p w s) := by
  unfold execSeqClrStats
  try dsimp only
  repeat' first
    | with_reducible first
      | exact hs | assumption | apply wf_ite | apply wf_iteOut | apply wf_next | apply keeps_pathWrite
      | (apply wf_mk; dsimp only; apply cells_of)
    | split | intro _ _ _ | intro _ _ | intro _

theorem keeps_execHmsClrStats (p : Path) (w : Word) (s : State) (hs : s.memoryWf) :
    KeepsOut (execHmsClrStats p w s) := by
  unfold execHmsClrStats
  try dsimp only
  repeat' first
    | with_reducible first
      | exact hs | assumption | apply wf_ite | apply wf_iteOut | apply wf_next | apply keeps_pathWrite
      | (apply wf_mk; dsimp only; apply cells_of)
    | split | intro _ _ _ | intro _ _ | intro _

theorem keeps_execLmsClrStats (p : Path) (w : Word) (s : State) (hs : s.memoryWf) :
    KeepsOut (execLmsClrStats p w s) := by
  unfold execLmsClrStats
  try dsimp only
  repeat' first
    | with_reducible first
      | exact hs | assumption | apply wf_ite | apply wf_iteOut | apply wf_next | apply keeps_pathWrite
      | (apply wf_mk; dsimp only; apply cells_of)
    | split | intro _ _ _ | intro _ _ | intro _

theorem keeps_execOleClrStats (p : Path) (w : Word) (s : State) (hs : s.memoryWf) :
    KeepsOut (execOleClrStats p w s) := by
  unfold execOleClrStats
  try dsimp only
  repeat' first
    | with_reducible first
      | exact hs | assumption | apply wf_ite | apply wf_iteOut | apply wf_next | apply keeps_pathWrite
      | (apply wf_mk; dsimp only; apply cells_of)
    | split | intro _ _ _ | intro _ _ | intro _

theorem keeps_execCalClrStats (p : Path) (w : Word) (s : State) (hs : s.memoryWf) :
    KeepsOut (execCalClrStats p w s) := by
  unfold execCalClrStats
  try dsimp only
  repeat' first
    | with_reducible first
      | exact hs | assumption | apply wf_ite | apply wf_iteOut | apply wf_next | apply keeps_pathWrite
      | (apply wf_mk; dsimp only; apply cells_of)
    | split | intro _ _ _ | intro _ _ | intro _

theorem keeps_execClsClrStats (p : Path) (w : Word) (s : State) (hs : s.memoryWf) :
    KeepsOut (execClsClrStats p w s) := by
  unfold execClsClrStats
  try dsimp only
  repeat' first
    | with_reducible first
      | exact hs | assumption | apply wf_ite | apply wf_iteOut | apply wf_next | apply keeps_pathWrite
      | (apply wf_mk; dsimp only; apply cells_of)
    | split | intro _ _ _ | intro _ _ | intro _

theorem keeps_execHifCpClrStats (p : Path) (w : Word) (s : State) (hs : s.memoryWf) :
    KeepsOut (execHifCpClrStats p w s) := by
  unfold execHifCpClrStats
  try dsimp only
  repeat' first
    | with_reducible first
      | exact hs | assumption | apply wf_ite | apply wf_iteOut | apply wf_next | apply keeps_pathWrite
      | (apply wf_mk; dsimp only; apply cells_of)
    | split | intro _ _ _ | intro _ _ | intro _

theorem keeps_execHifClrStats (p : Path) (w : Word) (s : State) (hs : s.memoryWf) :
    KeepsOut (execHifClrStats p w s) := by
  unfold execHifClrStats
  try dsimp only
  repeat' first
    | with_reducible first
      | exact hs | assumption | apply wf_ite | apply wf_iteOut | apply wf_next | apply keeps_pathWrite
      | (apply wf_mk; dsimp only; apply cells_of)
    | split | intro _ _ _ | intro _ _ | intro _

theorem keeps_execTpsClrStats (p : Path) (w : Word) (s : State) (hs : s.memoryWf) :
    KeepsOut (execTpsClrStats p w s) := by
  unfold execTpsClrStats
  try dsimp only
  repeat' first
    | with_reducible first
      | exact hs | assumption | apply wf_ite | apply wf_iteOut | apply wf_next | apply keeps_pathWrite
      | (apply wf_mk; dsimp only; apply cells_of)
    | split | intro _ _ _ | intro _ _ | intro _

theorem keeps_execTpsPwrClrStats (p : Path) (w : Word) (s : State) (hs : s.memoryWf) :
    KeepsOut (execTpsPwrClrStats p w s) := by
  unfold execTpsPwrClrStats
  try dsimp only
  repeat' first
    | with_reducible first
      | exact hs | assumption | apply wf_ite | apply wf_iteOut | apply wf_next | apply keeps_pathWrite
      | (apply wf_mk; dsimp only; apply cells_of)
    | split | intro _ _ _ | intro _ _ | intro _

theorem keeps_execPmaMapReqProbe (p : Path) (phys : BitVec 10) (s : State) (hs : s.memoryWf) :
    KeepsOut (execPmaMapReqProbe p phys s) := by
  unfold execPmaMapReqProbe
  try dsimp only
  repeat' first
    | with_reducible first
      | exact hs | assumption | apply wf_ite | apply wf_iteOut | apply wf_next | apply keeps_pathWrite
      | (apply wf_mk; dsimp only; apply cells_of)
    | split | intro _ _ _ | intro _ _ | intro _

theorem keeps_execPmaMapReqMapOut (p : Path) (phys : BitVec 10) (s : State) (hs : s.memoryWf) :
    KeepsOut (execPmaMapReqMapOut p phys s) := by
  unfold execPmaMapReqMapOut
  try dsimp only
  repeat' first
    | with_reducible first
      | exact hs | assumption | apply wf_ite | apply wf_iteOut | apply wf_next | apply keeps_pathWrite
      | (apply wf_mk; dsimp only; apply cells_of)
    | split | intro _ _ _ | intro _ _ | intro _

theorem keeps_execTslEpochLenWrite (p : Path) (w : Word) (s : State) (hs : s.memoryWf) :
    KeepsOut (execTslEpochLenWrite p w s) := by
  unfold execTslEpochLenWrite
  try dsimp only
  repeat' first
    | with_reducible first
      | exact hs | assumption | apply wf_ite | apply wf_iteOut | apply wf_next | apply keeps_pathWrite
      | (apply wf_mk; dsimp only; apply cells_of)
    | split | intro _ _ _ | intro _ _ | intro _

theorem keeps_execTslLaneWrite (p : Path) (lane : Fin 48) (reg : Fin 7) (w : Word) (s : State) (hs : s.memoryWf) :
    KeepsOut (execTslLaneWrite p lane reg w s) := by
  unfold execTslLaneWrite
  try dsimp only
  repeat' first
    | with_reducible first
      | exact hs | assumption | apply wf_ite | apply wf_iteOut | apply wf_next | apply keeps_pathWrite
      | (apply wf_mk; dsimp only; apply cells_of)
    | split | intro _ _ _ | intro _ _ | intro _

theorem keeps_execOleRestWrite (p : Path) (reg : Fin 5) (w : Word) (s : State) (hs : s.memoryWf) :
    KeepsOut (execOleRestWrite p reg w s) := by
  unfold execOleRestWrite
  try dsimp only
  repeat' first
    | with_reducible first
      | exact hs | assumption | apply wf_ite | apply wf_iteOut | apply wf_next | apply keeps_pathWrite
      | (apply wf_mk; dsimp only; apply cells_of)
    | split | intro _ _ _ | intro _ _ | intro _

theorem keeps_execClsTakeoverGo (p : Path) (w : Word) (s : State) (hs : s.memoryWf) :
    KeepsOut (execClsTakeoverGo p w s) := by
  unfold execClsTakeoverGo
  try dsimp only
  repeat' first
    | with_reducible first
      | exact hs | assumption | apply wf_ite | apply wf_iteOut | apply wf_next | apply keeps_pathWrite
      | (apply wf_mk; dsimp only; apply cells_of)
    | split | intro _ _ _ | intro _ _ | intro _

theorem keeps_execHifRingEnable (p : Path) (ring : BitVec 14) (w : Word) (s : State) (hs : s.memoryWf) :
    KeepsOut (execHifRingEnable p ring w s) := by
  unfold execHifRingEnable
  try dsimp only
  repeat' first
    | with_reducible first
      | exact hs | assumption | apply wf_ite | apply wf_iteOut | apply wf_next | apply keeps_pathWrite
      | (apply wf_mk; dsimp only; apply cells_of)
    | split | intro _ _ _ | intro _ _ | intro _

theorem keeps_execHifRingDisable (p : Path) (ring : BitVec 14) (w : Word) (s : State) (hs : s.memoryWf) :
    KeepsOut (execHifRingDisable p ring w s) := by
  unfold execHifRingDisable
  try dsimp only
  repeat' first
    | with_reducible first
      | exact hs | assumption | apply wf_ite | apply wf_iteOut | apply wf_next | apply keeps_pathWrite
      | (apply wf_mk; dsimp only; apply cells_of)
    | split | intro _ _ _ | intro _ _ | intro _

theorem keeps_execHifDoorbell (p : DbPath) (ring : BitVec 14) (v : Word) (s : State) (hs : s.memoryWf) :
    KeepsOut (execHifDoorbell p ring v s) := by
  unfold execHifDoorbell
  try dsimp only
  repeat' first
    | with_reducible first
      | exact hs | assumption | apply wf_ite | apply wf_iteOut | apply wf_next | apply keeps_pathWrite
      | (apply wf_mk; dsimp only; apply cells_of)
    | split | intro _ _ _ | intro _ _ | intro _

theorem keeps_execHifWindowWrite (p : Path) (win : BitVec 6) (reg : Fin 3) (w : Word) (s : State) (hs : s.memoryWf) :
    KeepsOut (execHifWindowWrite p win reg w s) := by
  unfold execHifWindowWrite
  try dsimp only
  repeat' first
    | with_reducible first
      | exact hs | assumption | apply wf_ite | apply wf_iteOut | apply wf_next | apply keeps_pathWrite
      | (apply wf_mk; dsimp only; apply cells_of)
    | split | intro _ _ _ | intro _ _ | intro _

theorem keeps_execHifQbvWrite (p : Path) (reg : QbvReg) (w : Word) (s : State) (hs : s.memoryWf) :
    KeepsOut (execHifQbvWrite p reg w s) := by
  unfold execHifQbvWrite
  try dsimp only
  repeat' first
    | with_reducible first
      | exact hs | assumption | apply wf_ite | apply wf_iteOut | apply wf_next | apply keeps_pathWrite
      | (apply wf_mk; dsimp only; apply cells_of)
    | split | intro _ _ _ | intro _ _ | intro _

theorem keeps_execHifIrqWrite (p : Path) (src : Option (Fin 17)) (w : Word) (s : State) (hs : s.memoryWf) :
    KeepsOut (execHifIrqWrite p src w s) := by
  unfold execHifIrqWrite
  try dsimp only
  repeat' first
    | with_reducible first
      | exact hs | assumption | apply wf_ite | apply wf_iteOut | apply wf_next | apply keeps_pathWrite
      | (apply wf_mk; dsimp only; apply cells_of)
    | split | intro _ _ _ | intro _ _ | intro _

theorem keeps_execTpsFloorWrite (p : Path) (w : Word) (s : State) (hs : s.memoryWf) :
    KeepsOut (execTpsFloorWrite p w s) := by
  unfold execTpsFloorWrite
  try dsimp only
  repeat' first
    | with_reducible first
      | exact hs | assumption | apply wf_ite | apply wf_iteOut | apply wf_next | apply keeps_pathWrite
      | (apply wf_mk; dsimp only; apply cells_of)
    | split | intro _ _ _ | intro _ _ | intro _

theorem keeps_execMscDormantRequest (p : Path) (w : Word) (s : State) (hs : s.memoryWf) :
    KeepsOut (execMscDormantRequest p w s) := by
  unfold execMscDormantRequest
  try dsimp only
  repeat' first
    | with_reducible first
      | exact hs | assumption | apply wf_ite | apply wf_iteOut | apply wf_next | apply keeps_pathWrite
      | (apply wf_mk; dsimp only; apply cells_of)
    | split | intro _ _ _ | intro _ _ | intro _

theorem keeps_execPlainRegisterWrite (p : Path) (off : BitVec 24) (w : Word) (s : State) (hs : s.memoryWf) :
    KeepsOut (execPlainRegisterWrite p off w s) := by
  unfold execPlainRegisterWrite
  try dsimp only
  repeat' first
    | with_reducible first
      | exact hs | assumption | apply wf_ite | apply wf_iteOut | apply wf_next | apply keeps_pathWrite
      | (apply wf_mk; dsimp only; apply cells_of)
    | split | intro _ _ _ | intro _ _ | intro _

theorem keeps_execW1cClear (p : Path) (src : Fin 17) (w hw : Word) (s : State) (hs : s.memoryWf) :
    KeepsOut (execW1cClear p src w hw s) := by
  unfold execW1cClear
  try dsimp only
  repeat' first
    | with_reducible first
      | exact hs | assumption | apply wf_ite | apply wf_iteOut | apply wf_next | apply keeps_pathWrite | apply keeps_writeWordObs
      | (apply wf_mk; dsimp only; apply cells_of)
    | split | intro _ _ _ | intro _ _ | intro _

theorem keeps_execScaleDataRead (p : Path) (s : State) (hs : s.memoryWf) :
    KeepsOut (execScaleDataRead p s) := by
  unfold execScaleDataRead
  try dsimp only
  repeat' first
    | with_reducible first
      | exact hs | assumption | apply wf_ite | apply wf_iteOut | apply wf_next | apply keeps_access
      | (apply wf_mk; dsimp only; apply cells_of)
    | split | intro _ _ _ | intro _ _ | intro _

theorem keeps_execLatchedLowRead (p : Path) (off : BitVec 24) (s : State) (hs : s.memoryWf) :
    KeepsOut (execLatchedLowRead p off s) := by
  unfold execLatchedLowRead
  try dsimp only
  repeat' first
    | with_reducible first
      | exact hs | assumption | apply wf_ite | apply wf_iteOut | apply wf_next | apply keeps_access
      | (apply wf_mk; dsimp only; apply cells_of)
    | split | intro _ _ _ | intro _ _ | intro _

theorem keeps_execRegisterAccessTimeout (p : Path) (off : BitVec 24) (write : Bool) (s : State) (hs : s.memoryWf) :
    KeepsOut (execRegisterAccessTimeout p off write s) := by
  unfold execRegisterAccessTimeout
  try dsimp only
  repeat' first
    | with_reducible first
      | exact hs | assumption | apply wf_ite | apply wf_iteOut | apply wf_next | apply keeps_complete | apply keeps_emit | apply keeps_raise
      | (apply wf_mk; dsimp only; apply cells_of)
    | split | intro _ _ _ | intro _ _ | intro _

theorem keeps_execApertureRead (off : BitVec 34) (len : Nat) (s : State) (hs : s.memoryWf) :
    KeepsOut (execApertureRead off len s) := by
  unfold execApertureRead
  try dsimp only
  repeat' first
    | with_reducible first
      | exact hs | assumption | apply wf_ite | apply wf_iteOut | apply wf_next | apply keeps_emit | apply keeps_raise
      | apply keeps_unsupported | (apply wf_mk; dsimp only; apply cells_of)
    | split | intro _ _ _ | intro _ _ | intro _

theorem keeps_execApertureWrite (off : BitVec 34) (data : List Byte) (s : State) (hs : s.memoryWf) :
    KeepsOut (execApertureWrite off data s) := by
  unfold execApertureWrite
  try dsimp only
  repeat' first
    | with_reducible first
      | exact hs | assumption | apply wf_ite | apply wf_iteOut | apply wf_next | apply keeps_unsupported | apply keeps_writeBytes
      | (apply wf_mk; dsimp only; apply cells_of)
    | split | intro _ _ _ | intro _ _ | intro _

/-! ### Machine/Firmware.lean -/

theorem keeps_manifestRefused (m : Manifest) (check : Nat) (s : State) (hs : s.memoryWf) :
    (manifestRefused m check s).memoryWf := by
  unfold manifestRefused
  try dsimp only
  repeat' first
    | with_reducible first
      | exact hs | assumption | apply wf_ite | apply keeps_journalFirmware | apply keeps_raise | (apply wf_mk; dsimp only; apply cells_of)
    | split | intro _ _ _ | intro _ _ | intro _

theorem keeps_updateBegin (who : Origin) (manifest : List Byte) (s : State) (hs : s.memoryWf) :
    (updateBegin who manifest s).2.memoryWf := by
  unfold updateBegin
  try dsimp only
  repeat' first
    | with_reducible first
      | exact hs | assumption | apply wf_ite | apply wf_iteSnd | (apply wf_mk; dsimp only; apply cells_of)
    | split | intro _ _ _ | intro _ _ | intro _

theorem keeps_arbitrate (h : Held) (s : State) (hs : s.memoryWf) :
    (arbitrate h s).memoryWf := by
  unfold arbitrate
  try dsimp only
  repeat' first
    | with_reducible first
      | exact hs | assumption | apply wf_ite | apply keeps_complete | apply keeps_manifestRefused | apply keeps_raise
      | (apply wf_mk; dsimp only; apply cells_of)
    | split | intro _ _ _ | intro _ _ | intro _

theorem keeps_execUpdateArbitrationEnd (s : State) (hs : s.memoryWf) :
    KeepsOut (execUpdateArbitrationEnd s) := by
  unfold execUpdateArbitrationEnd
  try dsimp only
  repeat' first
    | with_reducible first
      | exact hs | assumption | apply wf_ite | apply wf_iteOut | apply wf_next | apply keeps_advanceTo | apply keeps_arbitrate
      | apply keeps_each | (apply wf_mk; dsimp only; apply cells_of)
    | split | intro _ _ _ | intro _ _ | intro _

theorem keeps_execUpdateLockTimeout (s : State) (hs : s.memoryWf) :
    KeepsOut (execUpdateLockTimeout s) := by
  unfold execUpdateLockTimeout
  try dsimp only
  repeat' first
    | with_reducible first
      | exact hs | assumption | apply wf_ite | apply wf_iteOut | apply wf_next | apply keeps_advanceTo
      | (apply wf_mk; dsimp only; apply cells_of)
    | split | intro _ _ _ | intro _ _ | intro _

theorem keeps_updateData (who : Origin) (off : Nat) (data : List Byte) (s : State) (hs : s.memoryWf) :
    (updateData who off data s).2.memoryWf := by
  unfold updateData
  try dsimp only
  repeat' first
    | with_reducible first
      | exact hs | assumption | apply wf_ite | apply wf_iteSnd | apply keeps_modFw | (apply wf_mk; dsimp only; apply cells_of)
    | split | intro _ _ _ | intro _ _ | intro _

theorem keeps_drawMany (n : Nat) (s : State) (hs : s.memoryWf) : (drawMany n s).2.memoryWf := by
  induction n generalizing s with
  | zero => exact hs
  | succ n ih => exact ih _ (keeps_drawFree s hs)

theorem keeps_freeMonRecord (s : State) (hs : s.memoryWf) :
    (freeMonRecord s).memoryWf := by
  unfold freeMonRecord
  try dsimp only
  repeat' first
    | with_reducible first
      | exact hs | assumption | apply wf_ite | apply keeps_drawMany | (apply wf_mk; dsimp only; apply cells_of)
    | split | intro _ _ _ | intro _ _ | intro _

theorem keeps_applyRecord (b : List Byte) (s : State) (hs : s.memoryWf) :
    (applyRecord b s).memoryWf := by
  unfold applyRecord
  try dsimp only
  repeat' first
    | with_reducible first
      | exact hs | assumption | apply wf_ite | apply keeps_closeBatch | apply keeps_each | apply keeps_endSession
      | apply keeps_freeMonRecord | apply keeps_modFw | (apply wf_mk; dsimp only; apply cells_of)
    | split | intro _ _ _ | intro _ _ | intro _

theorem keeps_finishRecord (m : Manifest) (b : List Byte) (s : State) (hs : s.memoryWf) :
    (finishRecord m b s).2.memoryWf := by
  unfold finishRecord
  try dsimp only
  repeat' first
    | with_reducible first
      | exact hs | assumption | apply wf_ite | apply wf_iteSnd | apply keeps_applyRecord | apply keeps_commitCounter
      | apply keeps_journalFirmware | apply keeps_modFw | apply keeps_putRecord | apply keeps_raise
      | (apply wf_mk; dsimp only; apply cells_of)
    | split | intro _ _ _ | intro _ _ | intro _

theorem keeps_slotVerified (c : Nat) (slot : Bool) (m : Manifest) (s : State) (hs : s.memoryWf) :
    (slotVerified c slot m s).memoryWf := by
  unfold slotVerified
  try dsimp only
  repeat' first
    | with_reducible first
      | exact hs | assumption | apply wf_ite | apply keeps_modFw | (apply wf_mk; dsimp only; apply cells_of)
    | split | intro _ _ _ | intro _ _ | intro _

theorem keeps_scheduleSwitch (c : Nat) (m : Manifest) (s : State) (hs : s.memoryWf) :
    (scheduleSwitch c m s).memoryWf := by
  unfold scheduleSwitch
  try dsimp only
  repeat' first
    | with_reducible first
      | exact hs | assumption | apply wf_ite | apply keeps_editionSchedule | apply keeps_modFw | (apply wf_mk; dsimp only; apply cells_of)
    | split | intro _ _ _ | intro _ _ | intro _

theorem keeps_recoveryInstalled (c : Nat) (slot : Bool) (m : Manifest) (s : State) (hs : s.memoryWf) :
    (recoveryInstalled c slot m s).memoryWf := by
  unfold recoveryInstalled
  try dsimp only
  repeat' first
    | with_reducible first
      | exact hs | assumption | apply wf_ite | apply keeps_journalFirmware | apply keeps_modFw | (apply wf_mk; dsimp only; apply cells_of)
    | split | intro _ _ _ | intro _ _ | intro _

theorem keeps_updateFinish (who : Origin) (s : State) (hs : s.memoryWf) :
    (updateFinish who s).2.memoryWf := by
  unfold updateFinish
  try dsimp only
  repeat' first
    | with_reducible first
      | exact hs | assumption | apply wf_ite | apply wf_iteSnd | apply keeps_finishRecord | apply keeps_raise
      | apply keeps_recoveryInstalled | apply keeps_scheduleSwitch | apply keeps_slotVerified | (apply wf_mk; dsimp only; apply cells_of)
    | split | intro _ _ _ | intro _ _ | intro _

theorem keeps_updateAbort (who : Origin) (s : State) (hs : s.memoryWf) :
    (updateAbort who s).2.memoryWf := by
  unfold updateAbort
  try dsimp only
  repeat' first
    | with_reducible first
      | exact hs | assumption | apply wf_ite | apply wf_iteSnd | (apply wf_mk; dsimp only; apply cells_of)
    | split | intro _ _ _ | intro _ _ | intro _

theorem keeps_execRecoveryInstall (s : State) (hs : s.memoryWf) :
    KeepsOut (execRecoveryInstall s) := by
  unfold execRecoveryInstall
  try dsimp only
  repeat' first
    | with_reducible first
      | exact hs | assumption | apply wf_ite | apply wf_iteOut | apply wf_next | apply keeps_manifestRefused | apply keeps_modFw
      | apply keeps_recoveryInstalled | apply keeps_slotVerified | (apply wf_mk; dsimp only; apply cells_of)
    | split | intro _ _ _ | intro _ _ | intro _

theorem keeps_execRecoveryReset (s : State) (hs : s.memoryWf) :
    KeepsOut (execRecoveryReset s) := by
  unfold execRecoveryReset
  try dsimp only
  repeat' first
    | with_reducible first
      | exact hs | assumption | apply wf_ite | apply wf_iteOut | apply wf_next | apply keeps_advanceTo | apply keeps_beginReset
      | apply keeps_powerOn | (apply wf_mk; dsimp only; apply cells_of)
    | split | intro _ _ _ | intro _ _ | intro _

theorem keeps_execJournalGapRecord (s : State) (hs : s.memoryWf) :
    KeepsOut (execJournalGapRecord s) := by
  unfold execJournalGapRecord
  try dsimp only
  repeat' first
    | with_reducible first
      | exact hs | assumption | apply wf_ite | apply wf_iteOut | apply wf_next | apply keeps_advanceTo | apply keeps_journalOne
      | apply keeps_raise | (apply wf_mk; dsimp only; apply cells_of)
    | split | intro _ _ _ | intro _ _ | intro _

theorem keeps_attest (nonce : List Byte) (s : State) (hs : s.memoryWf) :
    (attest nonce s).2.memoryWf := by
  unfold attest
  try dsimp only
  repeat' first
    | with_reducible first
      | exact hs | assumption | apply wf_ite | apply wf_iteSnd | apply keeps_drawFree | (apply wf_mk; dsimp only; apply cells_of)
    | split | intro _ _ _ | intro _ _ | intro _

/-! ### Machine/Ptp.lean -/

theorem keeps_syncLoss (s : State) (hs : s.memoryWf) :
    (syncLoss s).memoryWf := by
  unfold syncLoss
  try dsimp only
  repeat' first
    | with_reducible first
      | exact hs | assumption | apply wf_ite | apply keeps_raise | (apply wf_mk; dsimp only; apply cells_of)
    | split | intro _ _ _ | intro _ _ | intro _

theorem keeps_stepHallTime (offset : Int) (s : State) (hs : s.memoryWf) :
    (stepHallTime offset s).memoryWf := by
  unfold stepHallTime
  try dsimp only
  repeat' first
    | with_reducible first
      | exact hs | assumption | apply wf_ite | (apply wf_mk; dsimp only; apply cells_of)
    | split | intro _ _ _ | intro _ _ | intro _

theorem keeps_takeSync (offset : Int) (s : State) (hs : s.memoryWf) :
    (takeSync offset s).memoryWf := by
  unfold takeSync
  try dsimp only
  repeat' first
    | with_reducible first
      | exact hs | assumption | apply wf_ite | apply keeps_stepHallTime | (apply wf_mk; dsimp only; apply cells_of)
    | split | intro _ _ _ | intro _ _ | intro _

theorem keeps_execPtpMessage (m : PtpMsg) (s : State) (hs : s.memoryWf) :
    KeepsOut (execPtpMessage m s) := by
  unfold execPtpMessage
  try dsimp only
  repeat' first
    | with_reducible first
      | exact hs | assumption | apply wf_ite | apply wf_iteOut | apply wf_next | apply keeps_emit | apply keeps_takeSync
      | (apply wf_mk; dsimp only; apply cells_of)
    | split | intro _ _ _ | intro _ _ | intro _

theorem keeps_execPdelayRequestTimer (s : State) (hs : s.memoryWf) :
    KeepsOut (execPdelayRequestTimer s) := by
  unfold execPdelayRequestTimer
  try dsimp only
  repeat' first
    | with_reducible first
      | exact hs | assumption | apply wf_ite | apply wf_iteOut | apply wf_next | apply keeps_emit
      | (apply wf_mk; dsimp only; apply cells_of)
    | split | intro _ _ _ | intro _ _ | intro _

theorem keeps_execGrandmasterLoss (s : State) (hs : s.memoryWf) :
    KeepsOut (execGrandmasterLoss s) := by
  unfold execGrandmasterLoss
  try dsimp only
  repeat' first
    | with_reducible first
      | exact hs | assumption | apply wf_ite | apply wf_iteOut | apply wf_next | apply keeps_syncLoss
      | (apply wf_mk; dsimp only; apply cells_of)
    | split | intro _ _ _ | intro _ _ | intro _

end Sys2Proof.Machine
end

