-- ==== Sys2Proof/Laws/KeepsCommands.lean ====
section
/-! SUPPORT. Both memories stay in canonical form: one lemma per operation of jobs, the control port and the epoch sequence. -/

namespace Sys2Proof.Machine

set_option linter.all false

/-! ### Machine/Control.lean -/

theorem keeps_done (st : BitVec 16) (s : State) (hs : s.memoryWf) :
    (done st s).2.memoryWf := by
  unfold done
  try dsimp only
  repeat' first
    | with_reducible first
      | exact hs | assumption | apply wf_ite | apply wf_iteSnd | (apply wf_mk; dsimp only; apply cells_of)
    | split | intro _ _ _ | intro _ _ | intro _

theorem keeps_countAuth (s : State) (hs : s.memoryWf) :
    (countAuth s).memoryWf := by
  unfold countAuth
  try dsimp only
  repeat' first
    | with_reducible first
      | exact hs | assumption | apply wf_ite | (apply wf_mk; dsimp only; apply cells_of)
    | split | intro _ _ _ | intro _ _ | intro _

theorem keeps_sessionOpen (who : Origin) (nonce : List Byte) (key : DWord) (role : Byte) (kem : List Byte) (s : State) (hs : s.memoryWf) :
    (sessionOpen who nonce key role kem s).2.memoryWf := by
  unfold sessionOpen
  try dsimp only
  repeat' first
    | with_reducible first
      | exact hs | assumption | apply wf_ite | apply wf_iteSnd | apply keeps_countAuth | apply keeps_done | apply keeps_modSession
      | (apply wf_mk; dsimp only; apply cells_of)
    | split | intro _ _ _ | intro _ _ | intro _

theorem keeps_sessionConfirm (who : Origin) (sig : List Byte) (s : State) (hs : s.memoryWf) :
    (sessionConfirm who sig s).2.memoryWf := by
  unfold sessionConfirm
  try dsimp only
  repeat' first
    | with_reducible first
      | exact hs | assumption | apply wf_ite | apply wf_iteSnd | apply keeps_done | apply keeps_modSession | apply keeps_raise
      | (apply wf_mk; dsimp only; apply cells_of)
    | split | intro _ _ _ | intro _ _ | intro _

theorem keeps_sessionClose (who : Origin) (s : State) (hs : s.memoryWf) :
    (sessionClose who s).2.memoryWf := by
  unfold sessionClose
  try dsimp only
  repeat' first
    | with_reducible first
      | exact hs | assumption | apply wf_ite | apply wf_iteSnd | apply keeps_complete | apply keeps_endSession
      | (apply wf_mk; dsimp only; apply cells_of)
    | split | intro _ _ _ | intro _ _ | intro _

theorem keeps_eventSubscribe (who : Origin) (mask : Word) (enable : Bool) (s : State) (hs : s.memoryWf) :
    (eventSubscribe who mask enable s).2.memoryWf := by
  unfold eventSubscribe
  try dsimp only
  repeat' first
    | with_reducible first
      | exact hs | assumption | apply wf_ite | apply wf_iteSnd | apply keeps_done | apply keeps_modSession
      | (apply wf_mk; dsimp only; apply cells_of)
    | split | intro _ _ _ | intro _ _ | intro _

theorem keeps_finishStep (s : State) (hs : s.memoryWf) :
    (finishStep s).memoryWf := by
  unfold finishStep
  try dsimp only
  repeat' first
    | with_reducible first
      | exact hs | assumption | apply wf_ite | apply keeps_advanceTo | apply keeps_complete | apply keeps_sysEnd
      | (apply wf_mk; dsimp only; apply cells_of)
    | split | intro _ _ _ | intro _ _ | intro _

theorem keeps_graphSubmit (addr : DWord) (s : State) (hs : s.memoryWf) :
    (graphSubmit addr s).2.memoryWf := by
  unfold graphSubmit
  try dsimp only
  repeat' first
    | with_reducible first
      | exact hs | assumption | apply wf_ite | apply wf_iteSnd | apply keeps_admitGraph | apply keeps_finishStep
      | (apply wf_mk; dsimp only; apply cells_of)
    | split | intro _ _ _ | intro _ _ | intro _

theorem keeps_graphRun (id : Word) (s : State) (hs : s.memoryWf) :
    (graphRun id s).2.memoryWf := by
  unfold graphRun
  try dsimp only
  repeat' first
    | with_reducible first
      | exact hs | assumption | apply wf_ite | apply wf_iteSnd | apply keeps_done | apply keeps_modGraph
      | (apply wf_mk; dsimp only; apply cells_of)
    | split | intro _ _ _ | intro _ _ | intro _

theorem keeps_graphRelease (id : Word) (s : State) (hs : s.memoryWf) :
    (graphRelease id s).2.memoryWf := by
  unfold graphRelease
  try dsimp only
  repeat' first
    | with_reducible first
      | exact hs | assumption | apply wf_ite | apply wf_iteSnd | apply keeps_done | apply keeps_leaveResidence | apply keeps_modGraph
      | (apply wf_mk; dsimp only; apply cells_of)
    | split | intro _ _ _ | intro _ _ | intro _

theorem keeps_graphReadmit (id : Word) (s : State) (hs : s.memoryWf) :
    (graphReadmit id s).2.memoryWf := by
  unfold graphReadmit
  try dsimp only
  repeat' first
    | with_reducible first
      | exact hs | assumption | apply wf_ite | apply wf_iteSnd | apply keeps_done | apply keeps_readmit
      | (apply wf_mk; dsimp only; apply cells_of)
    | split | intro _ _ _ | intro _ _ | intro _

theorem keeps_graphResume (id : Word) (s : State) (hs : s.memoryWf) :
    (graphResume id s).2.memoryWf := by
  unfold graphResume
  try dsimp only
  repeat' first
    | with_reducible first
      | exact hs | assumption | apply wf_ite | apply wf_iteSnd | apply keeps_done | apply keeps_modGraph
      | (apply wf_mk; dsimp only; apply cells_of)
    | split | intro _ _ _ | intro _ _ | intro _

theorem keeps_unitTable (id : Word) (ring : Nat) (s : State) (hs : s.memoryWf) :
    (unitTable id ring s).2.memoryWf := by
  unfold unitTable
  try dsimp only
  repeat' first
    | with_reducible first
      | exact hs | assumption | apply wf_ite | apply wf_iteSnd | apply keeps_done | apply keeps_telemetryPush
      | (apply wf_mk; dsimp only; apply cells_of)
    | split | intro _ _ _ | intro _ _ | intro _

theorem keeps_readWords (n off k : Nat) (s : State) (hs : s.memoryWf) : (readWords n off k s).2.memoryWf := by
  induction k generalizing off s with
  | zero => exact hs
  | succ k ih => exact ih _ _ (keeps_readEffect _ _ s hs)

theorem keeps_writeWords (off : Nat) (ws : List Word) (s : State) (hs : s.memoryWf) : (writeWords off ws s).memoryWf := by
  induction ws generalizing off s with
  | nil => exact hs
  | cons w r ih => exact ih _ _ (keeps_writeWord _ _ s hs)

theorem keeps_regRead (who : Origin) (a count : Nat) (s : State) (hs : s.memoryWf) :
    (regRead who a count s).2.memoryWf := by
  unfold regRead
  try dsimp only
  repeat' first
    | with_reducible first
      | exact hs | assumption | apply wf_ite | apply wf_iteSnd | apply keeps_done | apply keeps_readWords
      | (apply wf_mk; dsimp only; apply cells_of)
    | split | intro _ _ _ | intro _ _ | intro _

theorem keeps_regWrite (a : Nat) (ws : List Word) (maintain : Bool) (s : State) (hs : s.memoryWf) :
    (regWrite a ws maintain s).2.memoryWf := by
  unfold regWrite
  try dsimp only
  repeat' first
    | with_reducible first
      | exact hs | assumption | apply wf_ite | apply wf_iteSnd | apply keeps_done | apply keeps_writeWords
      | (apply wf_mk; dsimp only; apply cells_of)
    | split | intro _ _ _ | intro _ _ | intro _

theorem keeps_memRead (a n : Nat) (s : State) (hs : s.memoryWf) :
    (memRead a n s).2.memoryWf := by
  unfold memRead
  try dsimp only
  repeat' first
    | with_reducible first
      | exact hs | assumption | apply wf_ite | apply wf_iteSnd | apply keeps_done | (apply wf_mk; dsimp only; apply cells_of)
    | split | intro _ _ _ | intro _ _ | intro _

theorem keeps_memWrite (a : Nat) (data : List Byte) (s : State) (hs : s.memoryWf) :
    (memWrite a data s).2.memoryWf := by
  unfold memWrite
  try dsimp only
  repeat' first
    | with_reducible first
      | exact hs | assumption | apply wf_ite | apply wf_iteSnd | apply keeps_done | apply keeps_writeBytes
      | (apply wf_mk; dsimp only; apply cells_of)
    | split | intro _ _ _ | intro _ _ | intro _

theorem keeps_laneUnit (lane capture : Nat) (data : List Byte) (s : State) (hs : s.memoryWf) :
    (laneUnit lane capture data s).2.memoryWf := by
  unfold laneUnit
  try dsimp only
  repeat' first
    | with_reducible first
      | exact hs | assumption | apply wf_ite | apply wf_iteSnd | apply keeps_done | apply keeps_fileUnit
      | (apply wf_mk; dsimp only; apply cells_of)
    | split | intro _ _ _ | intro _ _ | intro _

theorem keeps_syscal (who : Origin) (step : Nat) (power : Word) (ref : List Word) (o : SysObs) (s : State) (hs : s.memoryWf) :
    (syscal who step power ref o s).2.memoryWf := by
  unfold syscal
  try dsimp only
  repeat' first
    | with_reducible first
      | exact hs | assumption | apply wf_ite | apply wf_iteSnd | apply keeps_done | apply keeps_sysStep
      | (apply wf_mk; dsimp only; apply cells_of)
    | split | intro _ _ _ | intro _ _ | intro _

theorem keeps_linkGroup (id : BitVec 16) (n i : Nat) (s : State) (hs : s.memoryWf) :
    (linkGroup id n i s).2.memoryWf := by
  unfold linkGroup
  try dsimp only
  repeat' first
    | with_reducible first
      | exact hs | assumption | apply wf_ite | apply wf_iteSnd | apply keeps_done | apply keeps_writeGroup
      | (apply wf_mk; dsimp only; apply cells_of)
    | split | intro _ _ _ | intro _ _ | intro _

theorem keeps_linkTrain (ports : Byte) (s : State) (hs : s.memoryWf) :
    (linkTrain ports s).2.memoryWf := by
  unfold linkTrain
  try dsimp only
  repeat' first
    | with_reducible first
      | exact hs | assumption | apply wf_ite | apply wf_iteSnd | apply keeps_done | apply keeps_trainRequest
      | (apply wf_mk; dsimp only; apply cells_of)
    | split | intro _ _ _ | intro _ _ | intro _

theorem keeps_pageDump (ring : Nat) (s : State) (hs : s.memoryWf) :
    (pageDump ring s).2.memoryWf := by
  unfold pageDump
  try dsimp only
  repeat' first
    | with_reducible first
      | exact hs | assumption | apply wf_ite | apply wf_iteSnd | apply keeps_done | (apply wf_mk; dsimp only; apply cells_of)
    | split | intro _ _ _ | intro _ _ | intro _

theorem keeps_setAction (a : Action) (s : State) (hs : s.memoryWf) :
    (setAction a s).2.memoryWf := by
  unfold setAction
  try dsimp only
  repeat' first
    | with_reducible first
      | exact hs | assumption | apply wf_ite | apply wf_iteSnd | apply keeps_done | (apply wf_mk; dsimp only; apply cells_of)
    | split | intro _ _ _ | intro _ _ | intro _

theorem keeps_refuseState (st : BitVec 16) (s : State) (hs : s.memoryWf) :
    (refuseState st s).2.memoryWf := by
  unfold refuseState
  try dsimp only
  repeat' first
    | with_reducible first
      | exact hs | assumption | apply wf_ite | apply wf_iteSnd | apply keeps_done | apply keeps_raise
      | (apply wf_mk; dsimp only; apply cells_of)
    | split | intro _ _ _ | intro _ _ | intro _

theorem keeps_frostCommand (s : State) (hs : s.memoryWf) :
    (frostCommand s).2.memoryWf := by
  unfold frostCommand
  try dsimp only
  repeat' first
    | with_reducible first
      | exact hs | assumption | apply wf_ite | apply wf_iteSnd | apply keeps_done | apply keeps_refuseState | apply keeps_setAction
      | (apply wf_mk; dsimp only; apply cells_of)
    | split | intro _ _ _ | intro _ _ | intro _

theorem keeps_thawCommand (s : State) (hs : s.memoryWf) :
    (thawCommand s).2.memoryWf := by
  unfold thawCommand
  try dsimp only
  repeat' first
    | with_reducible first
      | exact hs | assumption | apply wf_ite | apply wf_iteSnd | apply keeps_refuseState | apply keeps_setAction
      | (apply wf_mk; dsimp only; apply cells_of)
    | split | intro _ _ _ | intro _ _ | intro _

theorem keeps_resetCommand (type block : Nat) (s : State) (hs : s.memoryWf) :
    (resetCommand type block s).2.memoryWf := by
  unfold resetCommand
  try dsimp only
  repeat' first
    | with_reducible first
      | exact hs | assumption | apply wf_ite | apply wf_iteSnd | apply keeps_done | apply keeps_refuseState | apply keeps_setAction
      | (apply wf_mk; dsimp only; apply cells_of)
    | split | intro _ _ _ | intro _ _ | intro _

theorem keeps_calendarSet (secs ns : Nat) (s : State) (hs : s.memoryWf) :
    (calendarSet secs ns s).2.memoryWf := by
  unfold calendarSet
  try dsimp only
  repeat' first
    | with_reducible first
      | exact hs | assumption | apply wf_ite | apply wf_iteSnd | apply keeps_done | apply keeps_setCalendar
      | (apply wf_mk; dsimp only; apply cells_of)
    | split | intro _ _ _ | intro _ _ | intro _

theorem keeps_answered (r : Answer × State) (hr : r.2.memoryWf) : (answered r).2.memoryWf := hr

theorem keeps_runJob (who : Origin) (j : Job) (s : State) (hs : s.memoryWf) :
    (runJob who j s).2.memoryWf := by
  unfold runJob
  try dsimp only
  repeat' first
    | with_reducible first
      | exact hs | assumption | apply wf_ite | apply wf_iteSnd | apply keeps_answered | apply keeps_attest | apply keeps_calendarSet
      | apply keeps_closeLedger | apply keeps_done | apply keeps_eventSubscribe | apply keeps_frostCommand | apply keeps_graphReadmit
      | apply keeps_graphRelease | apply keeps_graphResume | apply keeps_graphRun | apply keeps_graphSubmit | apply keeps_laneUnit
      | apply keeps_linkGroup | apply keeps_linkTrain | apply keeps_memRead | apply keeps_memWrite | apply keeps_pageDump
      | apply keeps_regRead | apply keeps_regWrite | apply keeps_resetCommand | apply keeps_sessionClose | apply keeps_sessionConfirm
      | apply keeps_sessionOpen | apply keeps_setAction | apply keeps_setBatchSize | apply keeps_syscal | apply keeps_thawCommand
      | apply keeps_unitTable | apply keeps_updateAbort | apply keeps_updateBegin | apply keeps_updateData | apply keeps_updateFinish
      | (apply wf_mk; dsimp only; apply cells_of)
    | split | intro _ _ _ | intro _ _ | intro _

theorem keeps_execJob (who : Origin) (j : Job) (s : State) (hs : s.memoryWf) : (execJob who j s).memoryWf := by
  have h := keeps_runJob who j s hs
  unfold execJob
  split <;> rename_i e <;> rw [e] at h
  · with_reducible exact keeps_complete _ _ _ h
  · exact h

theorem keeps_submit (who : Origin) (j : Job) (s : State) (hs : s.memoryWf) :
    (submit who j s).memoryWf := by
  unfold submit
  try dsimp only
  repeat' first
    | with_reducible first
      | exact hs | assumption | apply wf_ite | apply keeps_execJob | (apply wf_mk; dsimp only; apply cells_of)
    | split | intro _ _ _ | intro _ _ | intro _

theorem keeps_runWaiting (s : State) (hs : s.memoryWf) :
    (runWaiting s).memoryWf := by
  unfold runWaiting
  try dsimp only
  repeat' first
    | with_reducible first
      | exact hs | assumption | apply wf_ite | apply keeps_each | apply keeps_submit | (apply wf_mk; dsimp only; apply cells_of)
    | split | intro _ _ _ | intro _ _ | intro _

theorem keeps_idle (s : State) (hs : s.memoryWf) :
    (idle s).memoryWf := by
  unfold idle
  try dsimp only
  repeat' first
    | with_reducible first
      | exact hs | assumption | apply wf_ite | apply keeps_finishStep | apply keeps_runWaiting | apply keeps_sendRequests | apply keeps_tick
      | (apply wf_mk; dsimp only; apply cells_of)
    | split | intro _ _ _ | intro _ _ | intro _

theorem keeps_execMscCoreRestartDone (s : State) (hs : s.memoryWf) :
    KeepsOut (execMscCoreRestartDone s) := by
  unfold execMscCoreRestartDone
  try dsimp only
  repeat' first
    | with_reducible first
      | exact hs | assumption | apply wf_ite | apply wf_iteOut | apply wf_next | apply keeps_mscRestartDone | apply keeps_runWaiting
      | (apply wf_mk; dsimp only; apply cells_of)
    | split | intro _ _ _ | intro _ _ | intro _

theorem keeps_execResetEnd (o : BringUp) (s : State) (hs : s.memoryWf) :
    KeepsOut (execResetEnd o s) := by
  unfold execResetEnd
  try dsimp only
  repeat' first
    | with_reducible first
      | exact hs | assumption | apply wf_ite | apply wf_iteOut | apply wf_next | apply keeps_resetEnd | apply keeps_runAccesses
      | apply keeps_runWaiting | (apply wf_mk; dsimp only; apply cells_of)
    | split | intro _ _ _ | intro _ _ | intro _

/-! ### Machine/Commands.lean -/

theorem keeps_dropFrame (s : State) (hs : s.memoryWf) :
    (dropFrame s).memoryWf := by
  unfold dropFrame
  try dsimp only
  repeat' first
    | with_reducible first
      | exact hs | assumption | apply wf_ite | apply keeps_raise | (apply wf_mk; dsimp only; apply cells_of)
    | split | intro _ _ _ | intro _ _ | intro _

theorem keeps_authFailed (st : BitVec 16) (s : State) (hs : s.memoryWf) :
    (authFailed st s).memoryWf := by
  unfold authFailed
  try dsimp only
  repeat' first
    | with_reducible first
      | exact hs | assumption | apply wf_ite | apply keeps_countAuth | apply keeps_raise | (apply wf_mk; dsimp only; apply cells_of)
    | split | intro _ _ _ | intro _ _ | intro _

theorem keeps_resend (fs : List Frame) (s : State) (hs : s.memoryWf) :
    (resend fs s).memoryWf := by
  unfold resend
  try dsimp only
  repeat' first
    | with_reducible first
      | exact hs | assumption | apply wf_ite | apply keeps_each | apply keeps_sendMessage | (apply wf_mk; dsimp only; apply cells_of)
    | split | intro _ _ _ | intro _ _ | intro _

theorem keeps_request (r : Req) (o need : Nat) (lenOk stateOk room : Bool) (go : State → State) (s : State) (h_go : ∀ s, State.memoryWf s → (go s).memoryWf) (hs : s.memoryWf) :
    (request r o need lenOk stateOk room go s).memoryWf := by
  unfold request
  try dsimp only
  repeat' first
    | with_reducible first
      | exact hs | assumption | apply wf_ite | apply keeps_authFailed | apply keeps_endSession | apply keeps_modSession | apply keeps_reply
      | apply keeps_resend | apply keeps_stateRefused | apply h_go | (apply wf_mk; dsimp only; apply cells_of)
    | split | intro _ _ _ | intro _ _ | intro _

theorem keeps_arrive (r : Req) (o need : Nat) (lenOk stateOk room : Bool) (go : State → State) (s : State) (h_go : ∀ s, State.memoryWf s → (go s).memoryWf) (hs : s.memoryWf) :
    (arrive r o need lenOk stateOk room go s).memoryWf := by
  unfold arrive
  try dsimp only
  repeat' first
    | with_reducible first
      | exact hs | assumption | apply wf_ite | apply keeps_dropFrame | apply keeps_request | apply h_go
      | (apply wf_mk; dsimp only; apply cells_of)
    | split | intro _ _ _ | intro _ _ | intro _

theorem keeps_immediate (r : Req) (o plen : Nat) (f : State → Answer × State) (hf : ∀ s, State.memoryWf s → (f s).2.memoryWf)
    (s : State) (hs : s.memoryWf) : (immediate r o plen f s).memoryWf := by
  unfold immediate
  with_reducible exact keeps_arrive _ _ _ _ _ _ _ _ (fun s h => keeps_reply _ _ _ _ _ _ _ _ (hf s h)) hs

theorem keeps_acceptRequest (r : Req) (j : Job) (s : State) (hs : s.memoryWf) :
    (acceptRequest r j s).memoryWf := by
  unfold acceptRequest
  try dsimp only
  repeat' first
    | with_reducible first
      | exact hs | assumption | apply wf_ite | apply keeps_endSession | apply keeps_modSession | apply keeps_reply | apply keeps_submit
      | (apply wf_mk; dsimp only; apply cells_of)
    | split | intro _ _ _ | intro _ _ | intro _

theorem keeps_command (r : Req) (j : Job) (s : State) (hs : s.memoryWf) :
    (command r j s).memoryWf := by
  unfold command
  try dsimp only
  repeat' first
    | with_reducible first
      | exact hs | assumption | apply wf_ite | apply keeps_acceptRequest | apply keeps_arrive | (apply wf_mk; dsimp only; apply cells_of)
    | split | intro _ _ _ | intro _ _ | intro _

theorem keeps_execStatus (r : Req) (s : State) (hs : s.memoryWf) :
    KeepsOut (execStatus r s) := by
  unfold execStatus
  try dsimp only
  repeat' first
    | with_reducible first
      | exact hs | assumption | apply wf_ite | apply wf_iteOut | apply wf_next | apply keeps_immediate
      | (apply wf_mk; dsimp only; apply cells_of)
    | split | intro _ _ _ | intro _ _ | intro _

theorem keeps_execTime (r : Req) (s : State) (hs : s.memoryWf) :
    KeepsOut (execTime r s) := by
  unfold execTime
  try dsimp only
  repeat' first
    | with_reducible first
      | exact hs | assumption | apply wf_ite | apply wf_iteOut | apply wf_next | apply keeps_immediate
      | (apply wf_mk; dsimp only; apply cells_of)
    | split | intro _ _ _ | intro _ _ | intro _

theorem keeps_execTemperature (r : Req) (s : State) (hs : s.memoryWf) :
    KeepsOut (execTemperature r s) := by
  unfold execTemperature
  try dsimp only
  repeat' first
    | with_reducible first
      | exact hs | assumption | apply wf_ite | apply wf_iteOut | apply wf_next | apply keeps_immediate
      | (apply wf_mk; dsimp only; apply cells_of)
    | split | intro _ _ _ | intro _ _ | intro _

theorem keeps_execStopBoundary (r : Req) (s : State) (hs : s.memoryWf) :
    KeepsOut (execStopBoundary r s) := by
  unfold execStopBoundary
  try dsimp only
  repeat' first
    | with_reducible first
      | exact hs | assumption | apply wf_ite | apply wf_iteOut | apply wf_next | apply keeps_immediate
      | (apply wf_mk; dsimp only; apply cells_of)
    | split | intro _ _ _ | intro _ _ | intro _

theorem keeps_execStopNow (r : Req) (s : State) (hs : s.memoryWf) :
    KeepsOut (execStopNow r s) := by
  unfold execStopNow
  try dsimp only
  repeat' first
    | with_reducible first
      | exact hs | assumption | apply wf_ite | apply wf_iteOut | apply wf_next | apply keeps_immediate | apply keeps_stopNow
      | (apply wf_mk; dsimp only; apply cells_of)
    | split | intro _ _ _ | intro _ _ | intro _

theorem keeps_resultAnswer (n : Nat) (seq : Word) (s : State) (hs : s.memoryWf) :
    (resultAnswer n seq s).2.memoryWf := by
  unfold resultAnswer
  try dsimp only
  repeat' first
    | with_reducible first
      | exact hs | assumption | apply wf_ite | apply wf_iteSnd | apply keeps_sendMessage | (apply wf_mk; dsimp only; apply cells_of)
    | split | intro _ _ _ | intro _ _ | intro _

theorem keeps_execResult (r : Req) (seq : Word) (s : State) (hs : s.memoryWf) :
    KeepsOut (execResult r seq s) := by
  unfold execResult
  try dsimp only
  repeat' first
    | with_reducible first
      | exact hs | assumption | apply wf_ite | apply wf_iteOut | apply wf_next | apply keeps_immediate | apply keeps_resultAnswer
      | (apply wf_mk; dsimp only; apply cells_of)
    | split | intro _ _ _ | intro _ _ | intro _

theorem keeps_execSessionOpen (r : Req) (nonce : List Byte) (key : DWord) (role : Byte) (kem : List Byte) (s : State) (hs : s.memoryWf) :
    KeepsOut (execSessionOpen r nonce key role kem s) := by
  unfold execSessionOpen
  try dsimp only
  repeat' first
    | with_reducible first
      | exact hs | assumption | apply wf_ite | apply wf_iteOut | apply wf_next | apply keeps_command | apply keeps_sessionOpen
      | (apply wf_mk; dsimp only; apply cells_of)
    | split | intro _ _ _ | intro _ _ | intro _

theorem keeps_execSessionConfirm (r : Req) (sig : List Byte) (s : State) (hs : s.memoryWf) :
    KeepsOut (execSessionConfirm r sig s) := by
  unfold execSessionConfirm
  try dsimp only
  repeat' first
    | with_reducible first
      | exact hs | assumption | apply wf_ite | apply wf_iteOut | apply wf_next | apply keeps_command | apply keeps_sessionConfirm
      | (apply wf_mk; dsimp only; apply cells_of)
    | split | intro _ _ _ | intro _ _ | intro _

theorem keeps_execSessionClose (r : Req) (s : State) (hs : s.memoryWf) :
    KeepsOut (execSessionClose r s) := by
  unfold execSessionClose
  try dsimp only
  repeat' first
    | with_reducible first
      | exact hs | assumption | apply wf_ite | apply wf_iteOut | apply wf_next | apply keeps_command | apply keeps_sessionClose
      | (apply wf_mk; dsimp only; apply cells_of)
    | split | intro _ _ _ | intro _ _ | intro _

theorem keeps_execAttest (r : Req) (nonce : List Byte) (s : State) (hs : s.memoryWf) :
    KeepsOut (execAttest r nonce s) := by
  unfold execAttest
  try dsimp only
  repeat' first
    | with_reducible first
      | exact hs | assumption | apply wf_ite | apply wf_iteOut | apply wf_next | apply keeps_attest | apply keeps_command
      | (apply wf_mk; dsimp only; apply cells_of)
    | split | intro _ _ _ | intro _ _ | intro _

theorem keeps_execEventSubscribe (r : Req) (mask : Word) (enable : Bool) (s : State) (hs : s.memoryWf) :
    KeepsOut (execEventSubscribe r mask enable s) := by
  unfold execEventSubscribe
  try dsimp only
  repeat' first
    | with_reducible first
      | exact hs | assumption | apply wf_ite | apply wf_iteOut | apply wf_next | apply keeps_command | apply keeps_eventSubscribe
      | (apply wf_mk; dsimp only; apply cells_of)
    | split | intro _ _ _ | intro _ _ | intro _

theorem keeps_execGraphSubmit (r : Req) (addr : DWord) (s : State) (hs : s.memoryWf) :
    KeepsOut (execGraphSubmit r addr s) := by
  unfold execGraphSubmit
  try dsimp only
  repeat' first
    | with_reducible first
      | exact hs | assumption | apply wf_ite | apply wf_iteOut | apply wf_next | apply keeps_command | apply keeps_graphSubmit
      | (apply wf_mk; dsimp only; apply cells_of)
    | split | intro _ _ _ | intro _ _ | intro _

theorem keeps_execGraphRun (r : Req) (id : Word) (s : State) (hs : s.memoryWf) :
    KeepsOut (execGraphRun r id s) := by
  unfold execGraphRun
  try dsimp only
  repeat' first
    | with_reducible first
      | exact hs | assumption | apply wf_ite | apply wf_iteOut | apply wf_next | apply keeps_command | apply keeps_graphRun
      | (apply wf_mk; dsimp only; apply cells_of)
    | split | intro _ _ _ | intro _ _ | intro _

theorem keeps_execGraphRelease (r : Req) (id : Word) (s : State) (hs : s.memoryWf) :
    KeepsOut (execGraphRelease r id s) := by
  unfold execGraphRelease
  try dsimp only
  repeat' first
    | with_reducible first
      | exact hs | assumption | apply wf_ite | apply wf_iteOut | apply wf_next | apply keeps_command | apply keeps_graphRelease
      | (apply wf_mk; dsimp only; apply cells_of)
    | split | intro _ _ _ | intro _ _ | intro _

theorem keeps_execGraphReadmit (r : Req) (id : Word) (s : State) (hs : s.memoryWf) :
    KeepsOut (execGraphReadmit r id s) := by
  unfold execGraphReadmit
  try dsimp only
  repeat' first
    | with_reducible first
      | exact hs | assumption | apply wf_ite | apply wf_iteOut | apply wf_next | apply keeps_command | apply keeps_graphReadmit
      | (apply wf_mk; dsimp only; apply cells_of)
    | split | intro _ _ _ | intro _ _ | intro _

theorem keeps_execGraphResume (r : Req) (id : Word) (s : State) (hs : s.memoryWf) :
    KeepsOut (execGraphResume r id s) := by
  unfold execGraphResume
  try dsimp only
  repeat' first
    | with_reducible first
      | exact hs | assumption | apply wf_ite | apply wf_iteOut | apply wf_next | apply keeps_command | apply keeps_graphResume
      | (apply wf_mk; dsimp only; apply cells_of)
    | split | intro _ _ _ | intro _ _ | intro _

theorem keeps_execUnitTable (r : Req) (id : Word) (ring : BitVec 16) (s : State) (hs : s.memoryWf) :
    KeepsOut (execUnitTable r id ring s) := by
  unfold execUnitTable
  try dsimp only
  repeat' first
    | with_reducible first
      | exact hs | assumption | apply wf_ite | apply wf_iteOut | apply wf_next | apply keeps_command | apply keeps_unitTable
      | (apply wf_mk; dsimp only; apply cells_of)
    | split | intro _ _ _ | intro _ _ | intro _

theorem keeps_execRegRead (r : Req) (addr : DWord) (count : BitVec 16) (s : State) (hs : s.memoryWf) :
    KeepsOut (execRegRead r addr count s) := by
  unfold execRegRead
  try dsimp only
  repeat' first
    | with_reducible first
      | exact hs | assumption | apply wf_ite | apply wf_iteOut | apply wf_next | apply keeps_command | apply keeps_regRead
      | (apply wf_mk; dsimp only; apply cells_of)
    | split | intro _ _ _ | intro _ _ | intro _

theorem keeps_execRegWrite (r : Req) (addr : DWord) (words : List Word) (s : State) (hs : s.memoryWf) :
    KeepsOut (execRegWrite r addr words s) := by
  unfold execRegWrite
  try dsimp only
  repeat' first
    | with_reducible first
      | exact hs | assumption | apply wf_ite | apply wf_iteOut | apply wf_next | apply keeps_command | apply keeps_regWrite
      | (apply wf_mk; dsimp only; apply cells_of)
    | split | intro _ _ _ | intro _ _ | intro _

theorem keeps_execMemRead (r : Req) (addr : DWord) (len : Word) (s : State) (hs : s.memoryWf) :
    KeepsOut (execMemRead r addr len s) := by
  unfold execMemRead
  try dsimp only
  repeat' first
    | with_reducible first
      | exact hs | assumption | apply wf_ite | apply wf_iteOut | apply wf_next | apply keeps_command | apply keeps_memRead
      | (apply wf_mk; dsimp only; apply cells_of)
    | split | intro _ _ _ | intro _ _ | intro _

theorem keeps_execMemWrite (r : Req) (addr : DWord) (data : List Byte) (s : State) (hs : s.memoryWf) :
    KeepsOut (execMemWrite r addr data s) := by
  unfold execMemWrite
  try dsimp only
  repeat' first
    | with_reducible first
      | exact hs | assumption | apply wf_ite | apply wf_iteOut | apply wf_next | apply keeps_command | apply keeps_memWrite
      | (apply wf_mk; dsimp only; apply cells_of)
    | split | intro _ _ _ | intro _ _ | intro _

theorem keeps_execLaneUnit (r : Req) (lane : Byte) (capture : DWord) (data : List Byte) (s : State) (hs : s.memoryWf) :
    KeepsOut (execLaneUnit r lane capture data s) := by
  unfold execLaneUnit
  try dsimp only
  repeat' first
    | with_reducible first
      | exact hs | assumption | apply wf_ite | apply wf_iteOut | apply wf_next | apply keeps_command | apply keeps_laneUnit
      | (apply wf_mk; dsimp only; apply cells_of)
    | split | intro _ _ _ | intro _ _ | intro _

theorem keeps_execLinkGroup (r : Req) (id : BitVec 16) (size index : Byte) (s : State) (hs : s.memoryWf) :
    KeepsOut (execLinkGroup r id size index s) := by
  unfold execLinkGroup
  try dsimp only
  repeat' first
    | with_reducible first
      | exact hs | assumption | apply wf_ite | apply wf_iteOut | apply wf_next | apply keeps_command | apply keeps_linkGroup
      | (apply wf_mk; dsimp only; apply cells_of)
    | split | intro _ _ _ | intro _ _ | intro _

theorem keeps_execLinkTrain (r : Req) (ports : Byte) (s : State) (hs : s.memoryWf) :
    KeepsOut (execLinkTrain r ports s) := by
  unfold execLinkTrain
  try dsimp only
  repeat' first
    | with_reducible first
      | exact hs | assumption | apply wf_ite | apply wf_iteOut | apply wf_next | apply keeps_command | apply keeps_linkTrain
      | (apply wf_mk; dsimp only; apply cells_of)
    | split | intro _ _ _ | intro _ _ | intro _

theorem keeps_execFrostEnter (r : Req) (s : State) (hs : s.memoryWf) :
    KeepsOut (execFrostEnter r s) := by
  unfold execFrostEnter
  try dsimp only
  repeat' first
    | with_reducible first
      | exact hs | assumption | apply wf_ite | apply wf_iteOut | apply wf_next | apply keeps_command
      | (apply wf_mk; dsimp only; apply cells_of)
    | split | intro _ _ _ | intro _ _ | intro _

theorem keeps_execThaw (r : Req) (s : State) (hs : s.memoryWf) :
    KeepsOut (execThaw r s) := by
  unfold execThaw
  try dsimp only
  repeat' first
    | with_reducible first
      | exact hs | assumption | apply wf_ite | apply wf_iteOut | apply wf_next | apply keeps_command
      | (apply wf_mk; dsimp only; apply cells_of)
    | split | intro _ _ _ | intro _ _ | intro _

theorem keeps_execResetPowerOn (r : Req) (s : State) (hs : s.memoryWf) :
    KeepsOut (execResetPowerOn r s) := by
  unfold execResetPowerOn
  try dsimp only
  repeat' first
    | with_reducible first
      | exact hs | assumption | apply wf_ite | apply wf_iteOut | apply wf_next | apply keeps_command
      | (apply wf_mk; dsimp only; apply cells_of)
    | split | intro _ _ _ | intro _ _ | intro _

theorem keeps_execResetCold (r : Req) (s : State) (hs : s.memoryWf) :
    KeepsOut (execResetCold r s) := by
  unfold execResetCold
  try dsimp only
  repeat' first
    | with_reducible first
      | exact hs | assumption | apply wf_ite | apply wf_iteOut | apply wf_next | apply keeps_command
      | (apply wf_mk; dsimp only; apply cells_of)
    | split | intro _ _ _ | intro _ _ | intro _

theorem keeps_execResetWarm (r : Req) (s : State) (hs : s.memoryWf) :
    KeepsOut (execResetWarm r s) := by
  unfold execResetWarm
  try dsimp only
  repeat' first
    | with_reducible first
      | exact hs | assumption | apply wf_ite | apply wf_iteOut | apply wf_next | apply keeps_command
      | (apply wf_mk; dsimp only; apply cells_of)
    | split | intro _ _ _ | intro _ _ | intro _

theorem keeps_execResetFunction (r : Req) (s : State) (hs : s.memoryWf) :
    KeepsOut (execResetFunction r s) := by
  unfold execResetFunction
  try dsimp only
  repeat' first
    | with_reducible first
      | exact hs | assumption | apply wf_ite | apply wf_iteOut | apply wf_next | apply keeps_command
      | (apply wf_mk; dsimp only; apply cells_of)
    | split | intro _ _ _ | intro _ _ | intro _

theorem keeps_execResetSubsystem (r : Req) (block : Byte) (s : State) (hs : s.memoryWf) :
    KeepsOut (execResetSubsystem r block s) := by
  unfold execResetSubsystem
  try dsimp only
  repeat' first
    | with_reducible first
      | exact hs | assumption | apply wf_ite | apply wf_iteOut | apply wf_next | apply keeps_command
      | (apply wf_mk; dsimp only; apply cells_of)
    | split | intro _ _ _ | intro _ _ | intro _

theorem keeps_execPowerOff (r : Req) (s : State) (hs : s.memoryWf) :
    KeepsOut (execPowerOff r s) := by
  unfold execPowerOff
  try dsimp only
  repeat' first
    | with_reducible first
      | exact hs | assumption | apply wf_ite | apply wf_iteOut | apply wf_next | apply keeps_command
      | (apply wf_mk; dsimp only; apply cells_of)
    | split | intro _ _ _ | intro _ _ | intro _

theorem keeps_execCalendarSet (r : Req) (secs : DWord) (ns : Word) (s : State) (hs : s.memoryWf) :
    KeepsOut (execCalendarSet r secs ns s) := by
  unfold execCalendarSet
  try dsimp only
  repeat' first
    | with_reducible first
      | exact hs | assumption | apply wf_ite | apply wf_iteOut | apply wf_next | apply keeps_calendarSet | apply keeps_command
      | (apply wf_mk; dsimp only; apply cells_of)
    | split | intro _ _ _ | intro _ _ | intro _

theorem keeps_execUpdateBegin (r : Req) (manifest : List Byte) (s : State) (hs : s.memoryWf) :
    KeepsOut (execUpdateBegin r manifest s) := by
  unfold execUpdateBegin
  try dsimp only
  repeat' first
    | with_reducible first
      | exact hs | assumption | apply wf_ite | apply wf_iteOut | apply wf_next | apply keeps_command | apply keeps_updateBegin
      | (apply wf_mk; dsimp only; apply cells_of)
    | split | intro _ _ _ | intro _ _ | intro _

theorem keeps_execUpdateData (r : Req) (offset : Word) (data : List Byte) (s : State) (hs : s.memoryWf) :
    KeepsOut (execUpdateData r offset data s) := by
  unfold execUpdateData
  try dsimp only
  repeat' first
    | with_reducible first
      | exact hs | assumption | apply wf_ite | apply wf_iteOut | apply wf_next | apply keeps_command | apply keeps_updateData
      | (apply wf_mk; dsimp only; apply cells_of)
    | split | intro _ _ _ | intro _ _ | intro _

theorem keeps_execUpdateFinish (r : Req) (s : State) (hs : s.memoryWf) :
    KeepsOut (execUpdateFinish r s) := by
  unfold execUpdateFinish
  try dsimp only
  repeat' first
    | with_reducible first
      | exact hs | assumption | apply wf_ite | apply wf_iteOut | apply wf_next | apply keeps_command | apply keeps_updateFinish
      | (apply wf_mk; dsimp only; apply cells_of)
    | split | intro _ _ _ | intro _ _ | intro _

theorem keeps_execUpdateAbort (r : Req) (s : State) (hs : s.memoryWf) :
    KeepsOut (execUpdateAbort r s) := by
  unfold execUpdateAbort
  try dsimp only
  repeat' first
    | with_reducible first
      | exact hs | assumption | apply wf_ite | apply wf_iteOut | apply wf_next | apply keeps_command | apply keeps_updateAbort
      | (apply wf_mk; dsimp only; apply cells_of)
    | split | intro _ _ _ | intro _ _ | intro _

theorem keeps_execRecoveryEnter (r : Req) (s : State) (hs : s.memoryWf) :
    KeepsOut (execRecoveryEnter r s) := by
  unfold execRecoveryEnter
  try dsimp only
  repeat' first
    | with_reducible first
      | exact hs | assumption | apply wf_ite | apply wf_iteOut | apply wf_next | apply keeps_command
      | (apply wf_mk; dsimp only; apply cells_of)
    | split | intro _ _ _ | intro _ _ | intro _

theorem keeps_execLedgerBatch (r : Req) (ring b : BitVec 16) (s : State) (hs : s.memoryWf) :
    KeepsOut (execLedgerBatch r ring b s) := by
  unfold execLedgerBatch
  try dsimp only
  repeat' first
    | with_reducible first
      | exact hs | assumption | apply wf_ite | apply wf_iteOut | apply wf_next | apply keeps_command
      | (apply wf_mk; dsimp only; apply cells_of)
    | split | intro _ _ _ | intro _ _ | intro _

theorem keeps_execLedgerClose (r : Req) (ring : BitVec 16) (s : State) (hs : s.memoryWf) :
    KeepsOut (execLedgerClose r ring s) := by
  unfold execLedgerClose
  try dsimp only
  repeat' first
    | with_reducible first
      | exact hs | assumption | apply wf_ite | apply wf_iteOut | apply wf_next | apply keeps_command
      | (apply wf_mk; dsimp only; apply cells_of)
    | split | intro _ _ _ | intro _ _ | intro _

theorem keeps_execJournalRead (r : Req) (first : Word) (count : Byte) (s : State) (hs : s.memoryWf) :
    KeepsOut (execJournalRead r first count s) := by
  unfold execJournalRead
  try dsimp only
  repeat' first
    | with_reducible first
      | exact hs | assumption | apply wf_ite | apply wf_iteOut | apply wf_next | apply keeps_command
      | (apply wf_mk; dsimp only; apply cells_of)
    | split | intro _ _ _ | intro _ _ | intro _

theorem keeps_execPageDump (r : Req) (ring : BitVec 16) (s : State) (hs : s.memoryWf) :
    KeepsOut (execPageDump r ring s) := by
  unfold execPageDump
  try dsimp only
  repeat' first
    | with_reducible first
      | exact hs | assumption | apply wf_ite | apply wf_iteOut | apply wf_next | apply keeps_command | apply keeps_pageDump
      | (apply wf_mk; dsimp only; apply cells_of)
    | split | intro _ _ _ | intro _ _ | intro _

theorem keeps_sysCommand (step : Nat) (v : SysVia) (o : SysObs) (s : State) (hs : s.memoryWf) :
    (sysCommand step v o s).memoryWf := by
  unfold sysCommand
  try dsimp only
  repeat' first
    | with_reducible first
      | exact hs | assumption | apply wf_ite | apply keeps_command | apply keeps_pathWrite | apply keeps_syscal | apply keeps_writeWordObs
      | (apply wf_mk; dsimp only; apply cells_of)
    | split | intro _ _ _ | intro _ _ | intro _

theorem keeps_execSyscalZero (v : SysVia) (o : SysObs) (s : State) (hs : s.memoryWf) :
    KeepsOut (execSyscalZero v o s) := by
  unfold execSyscalZero
  try dsimp only
  repeat' first
    | with_reducible first
      | exact hs | assumption | apply wf_ite | apply wf_iteOut | apply wf_next | apply keeps_sysCommand
      | (apply wf_mk; dsimp only; apply cells_of)
    | split | intro _ _ _ | intro _ _ | intro _

theorem keeps_execSyscalFull (v : SysVia) (o : SysObs) (s : State) (hs : s.memoryWf) :
    KeepsOut (execSyscalFull v o s) := by
  unfold execSyscalFull
  try dsimp only
  repeat' first
    | with_reducible first
      | exact hs | assumption | apply wf_ite | apply wf_iteOut | apply wf_next | apply keeps_sysCommand
      | (apply wf_mk; dsimp only; apply cells_of)
    | split | intro _ _ _ | intro _ _ | intro _

theorem keeps_execSyscalCommit (v : SysVia) (s : State) (hs : s.memoryWf) :
    KeepsOut (execSyscalCommit v s) := by
  unfold execSyscalCommit
  try dsimp only
  repeat' first
    | with_reducible first
      | exact hs | assumption | apply wf_ite | apply wf_iteOut | apply wf_next | apply keeps_sysCommand
      | (apply wf_mk; dsimp only; apply cells_of)
    | split | intro _ _ _ | intro _ _ | intro _

theorem keeps_execSyscalAbandon (v : SysVia) (s : State) (hs : s.memoryWf) :
    KeepsOut (execSyscalAbandon v s) := by
  unfold execSyscalAbandon
  try dsimp only
  repeat' first
    | with_reducible first
      | exact hs | assumption | apply wf_ite | apply wf_iteOut | apply wf_next | apply keeps_sysCommand
      | (apply wf_mk; dsimp only; apply cells_of)
    | split | intro _ _ _ | intro _ _ | intro _

theorem keeps_takeFragment (r : Req) (o : BitVec 16) (index count length : Nat) (data : List Byte) (s : State) (hs : s.memoryWf) :
    (takeFragment r o index count length data s).memoryWf := by
  unfold takeFragment
  try dsimp only
  repeat' first
    | with_reducible first
      | exact hs | assumption | apply wf_ite | apply keeps_command | apply keeps_reply | (apply wf_mk; dsimp only; apply cells_of)
    | split | intro _ _ _ | intro _ _ | intro _

theorem keeps_execMessageFragment (r : Req) (o : BitVec 16) (index count : Byte) (length : BitVec 16) (data : List Byte) (s : State) (hs : s.memoryWf) :
    KeepsOut (execMessageFragment r o index count length data s) := by
  unfold execMessageFragment
  try dsimp only
  repeat' first
    | with_reducible first
      | exact hs | assumption | apply wf_ite | apply wf_iteOut | apply wf_next | apply keeps_authFailed | apply keeps_dropFrame
      | apply keeps_reply | apply keeps_takeFragment | (apply wf_mk; dsimp only; apply cells_of)
    | split | intro _ _ _ | intro _ _ | intro _

theorem keeps_execFragmentTimeout (i : Nat) (s : State) (hs : s.memoryWf) :
    KeepsOut (execFragmentTimeout i s) := by
  unfold execFragmentTimeout
  try dsimp only
  repeat' first
    | with_reducible first
      | exact hs | assumption | apply wf_ite | apply wf_iteOut | apply wf_next | apply keeps_advanceTo | apply keeps_dropFrame
      | (apply wf_mk; dsimp only; apply cells_of)
    | split | intro _ _ _ | intro _ _ | intro _

theorem keeps_execSessionConfirmTimeout (n : Nat) (s : State) (hs : s.memoryWf) :
    KeepsOut (execSessionConfirmTimeout n s) := by
  unfold execSessionConfirmTimeout
  try dsimp only
  repeat' first
    | with_reducible first
      | exact hs | assumption | apply wf_ite | apply wf_iteOut | apply wf_next | apply keeps_advanceTo | apply keeps_endSession
      | (apply wf_mk; dsimp only; apply cells_of)
    | split | intro _ _ _ | intro _ _ | intro _

theorem keeps_execSessionIdleTimeout (n : Nat) (s : State) (hs : s.memoryWf) :
    KeepsOut (execSessionIdleTimeout n s) := by
  unfold execSessionIdleTimeout
  try dsimp only
  repeat' first
    | with_reducible first
      | exact hs | assumption | apply wf_ite | apply wf_iteOut | apply wf_next | apply keeps_advanceTo | apply keeps_endSession
      | (apply wf_mk; dsimp only; apply cells_of)
    | split | intro _ _ _ | intro _ _ | intro _

theorem keeps_execEventCopyDrop (n : Nat) (s : State) (hs : s.memoryWf) :
    KeepsOut (execEventCopyDrop n s) := by
  unfold execEventCopyDrop
  try dsimp only
  repeat' first
    | with_reducible first
      | exact hs | assumption | apply wf_ite | apply wf_iteOut | apply wf_next | (apply wf_mk; dsimp only; apply cells_of)
    | split | intro _ _ _ | intro _ _ | intro _

theorem keeps_execQbvCycleStart (s : State) (hs : s.memoryWf) :
    KeepsOut (execQbvCycleStart s) := by
  unfold execQbvCycleStart
  try dsimp only
  repeat' first
    | with_reducible first
      | exact hs | assumption | apply wf_ite | apply wf_iteOut | apply wf_next | apply keeps_advanceTo
      | (apply wf_mk; dsimp only; apply cells_of)
    | split | intro _ _ _ | intro _ _ | intro _

theorem keeps_execControlLinkUp (sqi : BitVec 3) (s : State) (hs : s.memoryWf) :
    KeepsOut (execControlLinkUp sqi s) := by
  unfold execControlLinkUp
  try dsimp only
  repeat' first
    | with_reducible first
      | exact hs | assumption | apply wf_ite | apply wf_iteOut | apply wf_next | (apply wf_mk; dsimp only; apply cells_of)
    | split | intro _ _ _ | intro _ _ | intro _

theorem keeps_execControlLinkDown (s : State) (hs : s.memoryWf) :
    KeepsOut (execControlLinkDown s) := by
  unfold execControlLinkDown
  try dsimp only
  repeat' first
    | with_reducible first
      | exact hs | assumption | apply wf_ite | apply wf_iteOut | apply wf_next | apply keeps_raise | apply keeps_syncLoss
      | (apply wf_mk; dsimp only; apply cells_of)
    | split | intro _ _ _ | intro _ _ | intro _

theorem keeps_execUnrecognisedControlFrame (f : RawFrame) (s : State) (hs : s.memoryWf) :
    KeepsOut (execUnrecognisedControlFrame f s) := by
  unfold execUnrecognisedControlFrame
  try dsimp only
  repeat' first
    | with_reducible first
      | exact hs | assumption | apply wf_ite | apply wf_iteOut | apply wf_next | apply keeps_dropFrame | apply keeps_reply
      | (apply wf_mk; dsimp only; apply cells_of)
    | split | intro _ _ _ | intro _ _ | intro _

theorem keeps_runEntry (who : Origin) (e : List Byte) (s : State) (hs : s.memoryWf) :
    (runEntry who e s).memoryWf := by
  unfold runEntry
  try dsimp only
  repeat' first
    | with_reducible first
      | exact hs | assumption | apply wf_ite | apply keeps_complete | apply keeps_stateRefused | apply keeps_submit
      | (apply wf_mk; dsimp only; apply cells_of)
    | split | intro _ _ _ | intro _ _ | intro _

theorem keeps_execSubmissionEntry (ring : BitVec 14) (s : State) (hs : s.memoryWf) :
    KeepsOut (execSubmissionEntry ring s) := by
  unfold execSubmissionEntry
  try dsimp only
  repeat' first
    | with_reducible first
      | exact hs | assumption | apply wf_ite | apply wf_iteOut | apply wf_next | apply keeps_faultRing | apply keeps_modRing
      | apply keeps_ringEvent | apply keeps_runEntry | (apply wf_mk; dsimp only; apply cells_of)
    | split | intro _ _ _ | intro _ _ | intro _

/-! ### Machine/Almanac.lean -/

theorem keeps_dumpPage (e : Nat) (bytes : List Byte) (s : State) (hs : s.memoryWf) :
    (dumpPage e bytes s).memoryWf := by
  unfold dumpPage
  try dsimp only
  repeat' first
    | with_reducible first
      | exact hs | assumption | apply wf_ite | apply keeps_telemetryPush | (apply wf_mk; dsimp only; apply cells_of)
    | split | intro _ _ _ | intro _ _ | intro _

theorem keeps_buildPage (unbuilt : Bool) (op : Opening) (s : State) (hs : s.memoryWf) :
    (buildPage unbuilt op s).memoryWf := by
  unfold buildPage
  try dsimp only
  repeat' first
    | with_reducible first
      | exact hs | assumption | apply wf_ite | apply keeps_dumpPage | apply keeps_each | apply keeps_raise | apply keeps_trialRevert
      | (apply wf_mk; dsimp only; apply cells_of)
    | split | intro _ _ _ | intro _ _ | intro _

/-! ### Machine/Epochs.lean -/

theorem keeps_latchPsr (s : State) (hs : s.memoryWf) :
    (latchPsr s).memoryWf := by
  unfold latchPsr
  try dsimp only
  repeat' first
    | with_reducible first
      | exact hs | assumption | apply wf_ite | apply keeps_raise | (apply wf_mk; dsimp only; apply cells_of)
    | split | intro _ _ _ | intro _ _ | intro _

theorem keeps_latchBlocks (s : State) (hs : s.memoryWf) :
    (latchBlocks s).memoryWf := by
  unfold latchBlocks
  try dsimp only
  repeat' first
    | with_reducible first
      | exact hs | assumption | apply wf_ite | (apply wf_mk; dsimp only; apply cells_of)
    | split | intro _ _ _ | intro _ _ | intro _

theorem keeps_snapshot (s : State) (hs : s.memoryWf) :
    (snapshot s).memoryWf := by
  unfold snapshot
  try dsimp only
  repeat' first
    | with_reducible first
      | exact hs | assumption | apply wf_ite | apply keeps_telemetryPush | (apply wf_mk; dsimp only; apply cells_of)
    | split | intro _ _ _ | intro _ _ | intro _

theorem keeps_setPlan (s : State) (hs : s.memoryWf) :
    (setPlan s).memoryWf := by
  unfold setPlan
  try dsimp only
  repeat' first
    | with_reducible first
      | exact hs | assumption | apply wf_ite | apply keeps_each | apply keeps_raise | (apply wf_mk; dsimp only; apply cells_of)
    | split | intro _ _ _ | intro _ _ | intro _

theorem keeps_parkDark (s : State) (hs : s.memoryWf) :
    (parkDark s).memoryWf := by
  unfold parkDark
  try dsimp only
  repeat' first
    | with_reducible first
      | exact hs | assumption | apply wf_ite | apply keeps_each | apply keeps_modStall | (apply wf_mk; dsimp only; apply cells_of)
    | split | intro _ _ _ | intro _ _ | intro _

theorem keeps_preloadStall (aborts : List Nat) (g : Nat) (m : MSet) (t : Tile) (s : State) (hs : s.memoryWf) :
    (preloadStall aborts g m t s).memoryWf := by
  unfold preloadStall
  try dsimp only
  repeat' first
    | with_reducible first
      | exact hs | assumption | apply wf_ite | apply keeps_loadAbort | apply keeps_modStall | (apply wf_mk; dsimp only; apply cells_of)
    | split | intro _ _ _ | intro _ _ | intro _

theorem keeps_preloadTiles (o : SlotObs) (s : State) (hs : s.memoryWf) :
    (preloadTiles o s).memoryWf := by
  unfold preloadTiles
  try dsimp only
  repeat' first
    | with_reducible first
      | exact hs | assumption | apply wf_ite | apply keeps_each | apply keeps_preloadStall | (apply wf_mk; dsimp only; apply cells_of)
    | split | intro _ _ _ | intro _ _ | intro _

theorem keeps_reloadAll (o : SlotObs) (s : State) (hs : s.memoryWf) :
    (reloadAll o s).memoryWf := by
  unfold reloadAll
  try dsimp only
  repeat' first
    | with_reducible first
      | exact hs | assumption | apply wf_ite | apply keeps_each | apply keeps_preloadStall | (apply wf_mk; dsimp only; apply cells_of)
    | split | intro _ _ _ | intro _ _ | intro _

theorem keeps_calibrateSlot (o : SlotObs) (urgent : Bool) (s : State) (hs : s.memoryWf) :
    (calibrateSlot o urgent s).memoryWf := by
  unfold calibrateSlot
  try dsimp only
  repeat' first
    | with_reducible first
      | exact hs | assumption | apply wf_ite | apply keeps_dropHeaters | apply keeps_each | apply keeps_fitOrdinary | apply keeps_fitUrgent
      | apply keeps_markPending | apply keeps_readStalls | apply keeps_reloadAll | apply keeps_setSource | apply keeps_spareChecks
      | (apply wf_mk; dsimp only; apply cells_of)
    | split | intro _ _ _ | intro _ _ | intro _

theorem keeps_beginSlot (short : Bool) (s : State) (hs : s.memoryWf) :
    (beginSlot short s).memoryWf := by
  unfold beginSlot
  try dsimp only
  repeat' first
    | with_reducible first
      | exact hs | assumption | apply wf_ite | apply keeps_dropColl | apply keeps_endSpan | (apply wf_mk; dsimp only; apply cells_of)
    | split | intro _ _ _ | intro _ _ | intro _

theorem keeps_slotSteps (o : SlotObs) (stop : Nat) (urgent : Bool) (s : State) (hs : s.memoryWf) :
    (slotSteps o stop urgent s).memoryWf := by
  unfold slotSteps
  try dsimp only
  repeat' first
    | with_reducible first
      | exact hs | assumption | apply wf_ite | apply keeps_buildPage | apply keeps_buildSubsts | apply keeps_countCalm
      | apply keeps_countLow | apply keeps_fadeCheck | apply keeps_latchBlocks | apply keeps_latchFigures | apply keeps_latchPsr
      | apply keeps_markPending | apply keeps_measureRows | apply keeps_parkDark | apply keeps_preloadTiles | apply keeps_probeAll
      | apply keeps_reloadAll | apply keeps_setPlan | apply keeps_snapshot | apply keeps_unitResets
      | (apply wf_mk; dsimp only; apply cells_of)
    | split | intro _ _ _ | intro _ _ | intro _

theorem keeps_execFallowSlotBegin (o : SlotObs) (s : State) (hs : s.memoryWf) :
    KeepsOut (execFallowSlotBegin o s) := by
  unfold execFallowSlotBegin
  try dsimp only
  repeat' first
    | with_reducible first
      | exact hs | assumption | apply wf_ite | apply wf_iteOut | apply wf_next | apply keeps_advanceTo | apply keeps_beginSlot
      | apply keeps_calibrateSlot | apply keeps_retestLanes | apply keeps_slotSteps | apply keeps_takeovers
      | (apply wf_mk; dsimp only; apply cells_of)
    | split | intro _ _ _ | intro _ _ | intro _

theorem keeps_execEpochOverrun (s : State) (hs : s.memoryWf) :
    KeepsOut (execEpochOverrun s) := by
  unfold execEpochOverrun
  try dsimp only
  repeat' first
    | with_reducible first
      | exact hs | assumption | apply wf_ite | apply wf_iteOut | apply wf_next | apply keeps_advanceTo | apply keeps_raise
      | (apply wf_mk; dsimp only; apply cells_of)
    | split | intro _ _ _ | intro _ _ | intro _

theorem keeps_execShortFallowSlot (o : SlotObs) (s : State) (hs : s.memoryWf) :
    KeepsOut (execShortFallowSlot o s) := by
  unfold execShortFallowSlot
  try dsimp only
  repeat' first
    | with_reducible first
      | exact hs | assumption | apply wf_ite | apply wf_iteOut | apply wf_next | apply keeps_advanceTo | apply keeps_beginSlot
      | apply keeps_skipReadings | apply keeps_slotSteps | (apply wf_mk; dsimp only; apply cells_of)
    | split | intro _ _ _ | intro _ _ | intro _

theorem keeps_stackLeaves (n : Nat) (s : State) (hs : s.memoryWf) : (stackLeaves n s).memoryWf := by
  unfold stackLeaves
  extract_lets h s1 h1 h2
  have w : s1.memoryWf := ⟨Memory.wf_filter _ s.mem hs.1, hs.2⟩
  clear_value s1
  with_reducible refine wf_ite (keeps_raise _ _ _ _ (keeps_raise _ _ _ _ ?_)) (wf_ite w (keeps_raise _ _ _ _ ?_))
  · exact w
  · exact w

theorem keeps_tierLeaves (s : State) (hs : s.memoryWf) :
    (tierLeaves s).memoryWf := by
  unfold tierLeaves
  try dsimp only
  repeat' first
    | with_reducible first
      | exact hs | assumption | apply wf_ite | apply keeps_raise | (apply wf_mk; dsimp only; apply cells_of)
    | split | intro _ _ _ | intro _ _ | intro _

theorem keeps_holdGraph (slot : Nat) (s : State) (hs : s.memoryWf) :
    (holdGraph slot s).memoryWf := by
  unfold holdGraph
  try dsimp only
  repeat' first
    | with_reducible first
      | exact hs | assumption | apply wf_ite | apply keeps_endAllTasks | apply keeps_modGraph | (apply wf_mk; dsimp only; apply cells_of)
    | split | intro _ _ _ | intro _ _ | intro _

theorem keeps_memoryBoundary (s : State) (hs : s.memoryWf) :
    (memoryBoundary s).memoryWf := by
  unfold memoryBoundary
  try dsimp only
  repeat' first
    | with_reducible first
      | exact hs | assumption | apply wf_ite | apply keeps_each | apply keeps_holdGraph | apply keeps_stackLeaves | apply keeps_tierLeaves
      | (apply wf_mk; dsimp only; apply cells_of)
    | split | intro _ _ _ | intro _ _ | intro _

theorem keeps_trimBoundary (s : State) (hs : s.memoryWf) :
    (trimBoundary s).memoryWf := by
  unfold trimBoundary
  try dsimp only
  repeat' first
    | with_reducible first
      | exact hs | assumption | apply wf_ite | (apply wf_mk; dsimp only; apply cells_of)
    | split | intro _ _ _ | intro _ _ | intro _

theorem keeps_swapPreloads (s : State) (hs : s.memoryWf) :
    (swapPreloads s).memoryWf := by
  unfold swapPreloads
  try dsimp only
  repeat' first
    | with_reducible first
      | exact hs | assumption | apply wf_ite | apply keeps_each | apply keeps_modStall | apply keeps_swapStall
      | (apply wf_mk; dsimp only; apply cells_of)
    | split | intro _ _ _ | intro _ _ | intro _

theorem keeps_switchesBoundary (s : State) (hs : s.memoryWf) :
    (switchesBoundary s).memoryWf := by
  unfold switchesBoundary
  try dsimp only
  repeat' first
    | with_reducible first
      | exact hs | assumption | apply wf_ite | (apply wf_mk; dsimp only; apply cells_of)
    | split | intro _ _ _ | intro _ _ | intro _

theorem keeps_oweRuns (slot k : Nat) (st : BitVec 16) (s : State) (hs : s.memoryWf) :
    (oweRuns slot k st s).memoryWf := by
  unfold oweRuns
  try dsimp only
  repeat' first
    | with_reducible first
      | exact hs | assumption | apply wf_ite | apply keeps_modGraph | (apply wf_mk; dsimp only; apply cells_of)
    | split | intro _ _ _ | intro _ _ | intro _

theorem keeps_lapseRuns (e : Nat) (s : State) (hs : s.memoryWf) :
    (lapseRuns e s).memoryWf := by
  unfold lapseRuns
  try dsimp only
  repeat' first
    | with_reducible first
      | exact hs | assumption | apply wf_ite | apply keeps_each | apply keeps_oweRuns | (apply wf_mk; dsimp only; apply cells_of)
    | split | intro _ _ _ | intro _ _ | intro _

theorem keeps_dueRuns (e t : Nat) (s : State) (hs : s.memoryWf) :
    (dueRuns e t s).memoryWf := by
  unfold dueRuns
  try dsimp only
  repeat' first
    | with_reducible first
      | exact hs | assumption | apply wf_ite | apply keeps_each | apply keeps_modGraph | apply keeps_oweRuns
      | (apply wf_mk; dsimp only; apply cells_of)
    | split | intro _ _ _ | intro _ _ | intro _

theorem keeps_postOwed (slot : Nat) (l : List (BitVec 16)) (s : State) (hs : s.memoryWf) : (postOwed slot l s).memoryWf := by
  induction l generalizing s with
  | nil => exact keeps_modGraph _ _ s hs
  | cons st r ih =>
    rw [postOwed]
    split
    · exact hs
    · split
      · exact keeps_raise _ _ _ _ (keeps_modGraph _ _ s hs)
      · exact ih _ (keeps_postNoRun _ _ s hs)

theorem keeps_planOutput (g : Graph) (e : Nat) (s : State) (hs : s.memoryWf) :
    (planOutput g e s).memoryWf := by
  unfold planOutput
  try dsimp only
  repeat' first
    | with_reducible first
      | exact hs | assumption | apply wf_ite | apply keeps_each | apply keeps_modLane | (apply wf_mk; dsimp only; apply cells_of)
    | split | intro _ _ _ | intro _ _ | intro _

theorem keeps_endStalled (slot : Nat) (s : State) (hs : s.memoryWf) :
    (endStalled slot s).memoryWf := by
  unfold endStalled
  try dsimp only
  repeat' first
    | with_reducible first
      | exact hs | assumption | apply wf_ite | apply keeps_each | apply keeps_taskEnd | (apply wf_mk; dsimp only; apply cells_of)
    | split | intro _ _ _ | intro _ _ | intro _

theorem keeps_runsWait (slot : Nat) (s : State) (hs : s.memoryWf) :
    (runsWait slot s).memoryWf := by
  unfold runsWait
  try dsimp only
  repeat' first
    | with_reducible first
      | exact hs | assumption | apply wf_ite | apply keeps_each | apply keeps_raise | (apply wf_mk; dsimp only; apply cells_of)
    | split | intro _ _ _ | intro _ _ | intro _

theorem keeps_startRun (slot : Nat) (s : State) (hs : s.memoryWf) :
    (startRun slot s).memoryWf := by
  unfold startRun
  try dsimp only
  repeat' first
    | with_reducible first
      | exact hs | assumption | apply wf_ite | apply keeps_endStalled | apply keeps_modGraph | apply keeps_modRing | apply keeps_planOutput
      | apply keeps_runsWait | (apply wf_mk; dsimp only; apply cells_of)
    | split | intro _ _ _ | intro _ _ | intro _

theorem keeps_startRuns (o : Opening) (s : State) (hs : s.memoryWf) :
    (startRuns o s).memoryWf := by
  unfold startRuns
  try dsimp only
  repeat' first
    | with_reducible first
      | exact hs | assumption | apply wf_ite | apply keeps_dueRuns | apply keeps_each | apply keeps_lapseRuns | apply keeps_postOwed
      | apply keeps_startRun | (apply wf_mk; dsimp only; apply cells_of)
    | split | intro _ _ _ | intro _ _ | intro _

theorem keeps_enterPage (o : Opening) (s : State) (hs : s.memoryWf) :
    (enterPage o s).memoryWf := by
  unfold enterPage
  try dsimp only
  repeat' first
    | with_reducible first
      | exact hs | assumption | apply wf_ite | (apply wf_mk; dsimp only; apply cells_of)
    | split | intro _ _ _ | intro _ _ | intro _

theorem keeps_openEpoch (o : Opening) (s : State) (hs : s.memoryWf) :
    (openEpoch o s).memoryWf := by
  unfold openEpoch
  try dsimp only
  repeat' first
    | with_reducible first
      | exact hs | assumption | apply wf_ite | apply keeps_endOnFaulted | apply keeps_enterPage | apply keeps_firmwareBoundary
      | apply keeps_memoryBoundary | apply keeps_raise | apply keeps_settleReplays | apply keeps_spareMapChange | apply keeps_startRuns
      | apply keeps_swapPreloads | apply keeps_switchesBoundary | apply keeps_trimBoundary | (apply wf_mk; dsimp only; apply cells_of)
    | split | intro _ _ _ | intro _ _ | intro _

theorem keeps_execEpochBoundary (s : State) (hs : s.memoryWf) :
    KeepsOut (execEpochBoundary s) := by
  unfold execEpochBoundary
  try dsimp only
  repeat' first
    | with_reducible first
      | exact hs | assumption | apply wf_ite | apply wf_iteOut | apply wf_next | apply keeps_advanceTo | apply keeps_openEpoch
      | (apply wf_mk; dsimp only; apply cells_of)
    | split | intro _ _ _ | intro _ _ | intro _

theorem keeps_execLateBoundary (s : State) (hs : s.memoryWf) :
    KeepsOut (execLateBoundary s) := by
  unfold execLateBoundary
  try dsimp only
  repeat' first
    | with_reducible first
      | exact hs | assumption | apply wf_ite | apply wf_iteOut | apply wf_next | apply keeps_advanceTo | apply keeps_openEpoch
      | (apply wf_mk; dsimp only; apply cells_of)
    | split | intro _ _ _ | intro _ _ | intro _

end Sys2Proof.Machine
end

