-- ==== Sys2Proof/Laws/Requests.lean ====
section
/-! SUPPORT. Requests of the control port: what acceptance and completion change, and that an accepted command executes. -/

namespace Sys2Proof.Machine

/-! ### What a reply, an acceptance and a completion change -/

/-- `t` differs from `s` at most in what has left, the control port's own state and the hall times journaled. -/
def PortOnly (s t : State) : Prop := ∃ q c h, t = { s with out := q, cp := c, msc := { s.msc with hostTimes := h } }

theorem PortOnly.refl (s : State) : PortOnly s s := ⟨s.out, s.cp, s.msc.hostTimes, rfl⟩

theorem PortOnly.trans {s t u : State} (h : PortOnly s t) (k : PortOnly t u) : PortOnly s u := by
  obtain ⟨_, _, _, rfl⟩ := h
  obtain ⟨q, c, e, rfl⟩ := k
  exact ⟨q, c, e, rfl⟩

theorem portOnly_sendFrame (f : Frame) (keep : Bool) (s : State) : PortOnly s (sendFrame f keep s) := by
  unfold sendFrame
  dsimp only
  split
  · exact ⟨_, _, s.msc.hostTimes, rfl⟩
  · exact ⟨_, s.cp, s.msc.hostTimes, rfl⟩

/-- A reply changes what has left and the control port's own state. -/
theorem portOnly_reply (r : Req) (o : Nat) (tagged keep : Bool) (st : BitVec 16) (d : Nat) (res : List Byte) (s : State) :
    PortOnly s (reply r o tagged keep st d res s) := portOnly_sendFrame _ _ s

/-- Taking a sequence changes the control port's own state. -/
theorem portOnly_takeSeq (r : Req) (s : State) : PortOnly s (takeSeq r s) := by
  unfold takeSeq
  split
  · exact PortOnly.refl s
  · exact ⟨s.out, _, s.msc.hostTimes, rfl⟩

/-- Acceptance changes what has left, the control port's own state and the hall times journaled. -/
theorem portOnly_taken (r : Req) (j : Job) (s : State) : PortOnly s (taken r j s) := by
  unfold taken
  refine (portOnly_takeSeq r s).trans ?_
  generalize takeSeq r s = t
  extract_lets m n u
  have h : PortOnly t u := by
    show PortOnly t (if _ then _ else _)
    split
    · exact ⟨t.out, t.cp, _, rfl⟩
    · exact PortOnly.refl t
  refine h.trans ?_
  split
  · exact PortOnly.refl u
  · exact portOnly_reply ..

/-- A completion to the control port changes what has left and the control port's own state. -/
theorem portOnly_complete (r : Req) (j : Job) (a : Answer) (s : State) : PortOnly s (complete (originOf r j) a s) := by
  unfold complete originOf
  dsimp only
  split
  · exact PortOnly.refl s
  · exact portOnly_sendFrame ..

/-! ### What acceptance leaves as it was -/

theorem taken_hif (r : Req) (j : Job) (s : State) : (taken r j s).hif = s.hif := by obtain ⟨_, _, _, h⟩ := portOnly_taken r j s; rw [h]
theorem taken_seq (r : Req) (j : Job) (s : State) : (taken r j s).seq = s.seq := by obtain ⟨_, _, _, h⟩ := portOnly_taken r j s; rw [h]
theorem taken_tsl (r : Req) (j : Job) (s : State) : (taken r j s).tsl = s.tsl := by obtain ⟨_, _, _, h⟩ := portOnly_taken r j s; rw [h]
theorem taken_ole (r : Req) (j : Job) (s : State) : (taken r j s).ole = s.ole := by obtain ⟨_, _, _, h⟩ := portOnly_taken r j s; rw [h]
theorem taken_hms (r : Req) (j : Job) (s : State) : (taken r j s).hms = s.hms := by obtain ⟨_, _, _, h⟩ := portOnly_taken r j s; rw [h]
theorem taken_lms (r : Req) (j : Job) (s : State) : (taken r j s).lms = s.lms := by obtain ⟨_, _, _, h⟩ := portOnly_taken r j s; rw [h]
theorem taken_cal (r : Req) (j : Job) (s : State) : (taken r j s).cal = s.cal := by obtain ⟨_, _, _, h⟩ := portOnly_taken r j s; rw [h]
theorem taken_tps (r : Req) (j : Job) (s : State) : (taken r j s).tps = s.tps := by obtain ⟨_, _, _, h⟩ := portOnly_taken r j s; rw [h]
theorem taken_mem (r : Req) (j : Job) (s : State) : (taken r j s).mem = s.mem := by obtain ⟨_, _, _, h⟩ := portOnly_taken r j s; rw [h]
theorem taken_hostMem (r : Req) (j : Job) (s : State) : (taken r j s).hostMem = s.hostMem := by
  obtain ⟨_, _, _, h⟩ := portOnly_taken r j s; rw [h]
theorem taken_msc (r : Req) (j : Job) (s : State) : ∃ h, (taken r j s).msc = { s.msc with hostTimes := h } := by
  obtain ⟨_, _, h, e⟩ := portOnly_taken r j s; exact ⟨h, by rw [e]⟩
theorem taken_mode (r : Req) (j : Job) (s : State) : (taken r j s).msc.mode = s.msc.mode := by
  obtain ⟨_, _, _, h⟩ := portOnly_taken r j s; rw [h]
theorem taken_action (r : Req) (j : Job) (s : State) : (taken r j s).msc.action = s.msc.action := by
  obtain ⟨_, _, _, h⟩ := portOnly_taken r j s; rw [h]
theorem taken_running (r : Req) (j : Job) (s : State) : (taken r j s).msc.running = s.msc.running := by
  obtain ⟨_, _, _, h⟩ := portOnly_taken r j s; rw [h]
theorem taken_waiting (r : Req) (j : Job) (s : State) : (taken r j s).msc.waiting = s.msc.waiting := by
  obtain ⟨_, _, _, h⟩ := portOnly_taken r j s; rw [h]
theorem taken_resetting (r : Req) (j : Job) (s : State) : (taken r j s).msc.resetting = s.msc.resetting := by
  obtain ⟨_, _, _, h⟩ := portOnly_taken r j s; rw [h]

/-! ### Accepted commands -/

theorem any_of_all_not {α : Type} (l : List α) (p : α → Bool) (h : l.all (fun a => !p a) = true) : l.any p = false := by
  induction l with
  | nil => rfl
  | cons a r ih => simp only [List.all_cons, Bool.and_eq_true, Bool.not_eq_true'] at h; simp only [List.any_cons, h.1, ih h.2, Bool.or_self]

/-- An element of a list with one element changed. -/
theorem update_getD {α : Type} (l : List α) (i : Nat) (f : α → α) (d : α) (hd : f d = d ∨ i < l.length) :
    (update l i f).getD i d = f (l.getD i d) := by
  induction l generalizing i with
  | nil => rcases hd with h | h
           · simp [update, h]
           · simp at h
  | cons a r ih =>
    cases i with
    | zero => rfl
    | succ n => exact ih n (hd.imp id (fun h => by simpa using h))

theorem update_getD_keeps {α β : Type} (l : List α) (i : Nat) (f : α → α) (g : α → β) (d : α) (h : ∀ a, g (f a) = g a) :
    g ((update l i f).getD i d) = g (l.getD i d) := by
  induction l generalizing i with
  | nil => rfl
  | cons a r ih =>
    cases i with
    | zero => exact h a
    | succ n => exact ih n

theorem takeSeq_role (r : Req) (s : State) : (sessionAt (takeSeq r s) (sessionNo r)).role = (sessionAt s (sessionNo r)).role := by
  unfold takeSeq
  split
  · rfl
  · exact update_getD_keeps s.cp.sessions _ _ Session.role {} (fun _ => rfl)

theorem takeSeq_state (r : Req) (s : State) : (sessionAt (takeSeq r s) (sessionNo r)).state = (sessionAt s (sessionNo r)).state := by
  unfold takeSeq
  split
  · rfl
  · exact update_getD_keeps s.cp.sessions _ _ Session.state {} (fun _ => rfl)

/-- An admitted request comes to what an accepted request does. -/
theorem arrive_admits (r : Req) (o need : Nat) (go : State → State) (s : State) (h : s.Admits r o need) :
    arrive r o need true true true go s = go (takeSeq r s) := by
  obtain ⟨serves, direct, shape, size, quiet, number, outside, inside, role⟩ := h
  have hrole : rolePermits (takeSeq r s) (sessionNo r) need = true := by
    unfold rolePermits at role ⊢
    dsimp only at role ⊢
    rw [takeSeq_role, takeSeq_state]; exact role
  unfold arrive
  rw [serves]
  have h1 : ¬ ((r.bcast = true ∧ o ≠ 1) ∨ 3 ≤ r.behind) := by
    rintro (⟨a, b⟩ | c)
    · exact b (direct a)
    · omega
  simp only [Bool.not_true, Bool.false_eq_true, if_false, if_neg h1]
  unfold request
  have h2 : ¬ (((!fragmented o && decide (1408 < r.plen)) || (r.quiet && o != 0x0310)) = true) := by
    intro c
    rw [Bool.or_eq_true] at c
    rcases c with c | c
    · rcases size with z | z
      · simp [z] at c
      · simp only [Bool.and_eq_true, decide_eq_true_eq] at c; omega
    · simp only [Bool.and_eq_true, bne_iff_ne] at c; exact c.2 (quiet c.1)
  have h3 : ¬ 8 < sessionNo r := by omega
  have h4 : ¬ (sessionNo r ≠ 0 ∧ (sessionAt s (sessionNo r)).state = .free) := fun c => (inside c.1).1 c.2
  have h5 : ¬ (sessionNo r = 0 ∧ (!sessionless o) = true) := fun c => by simp [outside c.1] at c
  have h6 : ¬ (sessionNo r ≠ 0 ∧ (!(r.tagged && r.tagOk)) = true) := fun c => by
    have q := inside c.1; simp [q.2.1, q.2.2.1] at c
  have h7 : ¬ (sessionNo r ≠ 0 ∧ r.seq.toNat ≤ (sessionAt s (sessionNo r)).lastSeq) := fun c => by
    have q := (inside c.1).2.2.2.1; omega
  have h8 : ∀ t : State, ¬ (sessionNo r ≠ 0 ∧ r.seq = 0xFFFFFFFF ∧ (sessionAt t (sessionNo r)).state ≠ .free) :=
    fun t c => (inside c.1).2.2.2.2 c.2.1
  simp only [sessionNo] at h3 h4 h5 h6 h7 h8
  simp only [if_neg h2, if_neg h3, if_neg h4, if_neg h5, if_neg h6, if_neg h7, if_neg (h8 _)]
  change (if (!rolePermits (takeSeq r s) (sessionNo r) need) = true then _ else go (takeSeq r s)) = _
  rw [hrole]; rfl

/-- The role carried by a REG_WRITE changes neither its opcode nor whether it waits. -/
theorem withRole_opcode (s : State) (n : Nat) (j : Job) : jobOpcode (withRole s n j) = jobOpcode j := by cases j <;> rfl
theorem withRole_waits (s t : State) (n : Nat) (j : Job) : jobWaits s (withRole t n j) = jobWaits s j := by cases j <;> rfl
theorem withRole_takeSeq (r : Req) (s : State) (j : Job) : withRole (takeSeq r s) (sessionNo r) j = withRole s (sessionNo r) j := by
  cases j <;> simp only [withRole, takeSeq_role]

theorem jobWaits_taken (r : Req) (k j : Job) (s : State) : jobWaits (taken r k s) j = jobWaits s j := by
  unfold jobWaits blockInReset
  simp only [taken_resetting]

theorem stepUnderWay_taken (r : Req) (j : Job) (s : State) (who : Origin) : stepUnderWay (taken r j s) who = stepUnderWay s who := by
  unfold stepUnderWay
  rw [taken_cal]

/-- An accepted command waits for nothing and executes. -/
theorem accept_executes (r : Req) (j : Job) (s : State) (h : s.Accepts r j) :
    command r j s = execJob (originOf r j) (withRole s (sessionNo r) j) (taken r j s) := by
  obtain ⟨admits, length, mode, room, core, free, idle, settled⟩ := h
  unfold command
  rw [length, mode, room, arrive_admits r _ _ _ s admits]
  have hl : (decide (r.session.toNat ≠ 0) && r.seq == 0xFFFFFFFF) = false := by
    by_cases h0 : r.session.toNat = 0
    · simp only [h0, ne_eq, not_true_eq_false, decide_false, Bool.false_and]
    · rw [beq_false_of_ne (admits.inside h0).2.2.2.2, Bool.and_false]
  have hs : acceptRequest r j (takeSeq r s) = submit (originOf r j) (withRole s (sessionNo r) j) (taken r j s) := by
    unfold acceptRequest
    extract_lets o n k m u v last w
    have e1 : last = false := hl
    have e2 : w = v := if_neg (by rw [e1]; exact Bool.false_ne_true)
    have e3 : k = withRole s (sessionNo r) j := withRole_takeSeq r s j
    have e4 : jobOpcode k = jobOpcode j := by rw [e3, withRole_opcode]
    have e5 : v = taken r j s := by
      unfold taken
      simp only [v, u, m, o, n, e3, withRole_opcode, withRole_takeSeq]
      rfl
    rw [e2, e5, e4, e3, if_neg (by rw [e1]; exact Bool.false_ne_true)]
    rfl
  rw [hs]
  unfold submit
  rw [taken_running, core, jobWaits_taken, withRole_waits, free, stepUnderWay_taken, settled, taken_waiting, any_of_all_not _ _ idle]
  rfl

end Sys2Proof.Machine
end

