-- ==== Sys2Proof/WellFormed.lean ====
section
/-! DEFINITION. Well-formed commands: operands within what the frames, registers and units of the specification can carry. -/

namespace Sys2Proof

/-- `lo` to `hi - 1`. -/
def inRange (lo hi n : Nat) : Bool := decide (lo ≤ n) && decide (n < hi)

/-- Bytes of a manifest (R418). -/
def manifestLength : Nat := 1344

/-- A request's header: HDR_PLEN has 16 bits (R308). -/
def Req.wf (r : Req) : Bool := decide (r.plen < 65536)

/-- A frame that is no request: its fields fit their header fields (R308, R315). -/
def RawFrame.wf (f : RawFrame) : Bool :=
  decide (f.plen < 65536) && inRange 0 256 f.frag.1 && inRange 0 256 f.frag.2.1 && inRange 0 65536 f.frag.2.2

/-- A link frame: a lane of 32, and 472 payload bytes (R238). -/
def LinkFrame.wf (f : LinkFrame) : Bool := inRange 0 32 f.lane && f.payload.length == 472 && f.names.all (inRange 0 32)

/-- A step of system calibration with a reference identifier of four words (R288, R323). -/
def SysVia.wf : SysVia → Bool
  | .cp r _ ref => r.wf && ref.length == 4
  | .reg _ _ => true

/-- A slicer word of a logical row, on one of four planes (R61). -/
def SlicerDev.wf (d : SlicerDev) : Bool := inRange 0 768 d.stall && inRange 0 64 d.row && inRange 0 4 d.plane

/-- Counts of soft values of a logical row: those below 32 are among those below 48, and these among all (R63, R278). -/
def SoftCount.wf (c : SoftCount) : Bool :=
  inRange 0 768 c.stall && inRange 0 64 c.row && decide (c.below32 ≤ c.below48) && decide (c.below48 ≤ c.all)

/-- The stalls of a pass (R42, R58): one by itself, or the 2 to 5 of a drive group, all on one die, each with its place in the member list. -/
def groupWf (ss : List (Nat × Tile)) : Bool :=
  match ss with
  | [] => false
  | [q] => q.2.group.isEmpty
  | q :: r =>
    let members := ss.map (fun x => x.1)
    decide (r.length ≤ 4) && decide members.Nodup && r.all (fun x => x.1 / 384 == q.1 / 384)
      && ((List.range ss.length).zip ss).all (fun x => x.2.2.group == members && x.2.2.member == x.1)

/-- A pass drives stalls that exist, one or a drive group (R42, R58). -/
def PassEntry.wf (p : PassEntry) : Bool :=
  groupWf p.stalls && p.stalls.all (fun q => inRange 0 768 q.1 && inRange 0 256 q.2.slot) && p.dev.all SlicerDev.wf && p.soft.all SoftCount.wf

/-- A decision of a probe: one of 68 rows and 65 symbols (R65). -/
def ProbeDev.wf (d : ProbeDev) : Bool := inRange 0 816 d.stall && inRange 0 68 d.row && inRange 0 65 d.symbol

/-- The 64 decisions of a reading on one tap, each with a soft value of six bits (R61, R274). -/
def ReadDev.wf (d : ReadDev) : Bool :=
  inRange 0 816 d.stall && inRange 0 68 d.row && inRange 0 65 d.column && d.decisions.length == 64 && d.decisions.all (fun q => inRange 0 64 q.2)

/-- What a fallow slot meets names stalls, sources and lanes that exist; no source is driven beyond its bias limit (R291). -/
def SlotObs.wf (o : SlotObs) : Bool :=
  o.probes.all ProbeDev.wf && o.aborts.all (inRange 0 816) && o.preloads.all (fun q => inRange 0 768 q.1) && o.errors.all ReadDev.wf
    && o.sources.all (fun q => inRange 0 56 q.1 && inRange 0 201 q.2.1) && o.checkFails.all (inRange 0 816) && o.lanePasses.all (inRange 0 32)

/-- What a calibration finds names rows and stalls that exist (R267, R278). -/
def CalObs.wf (o : CalObs) : Bool :=
  o.fails.all (fun q => inRange 0 816 q.1 && inRange 0 68 q.2) && o.spareFails.all (inRange 0 816)
    && o.epb.all (fun q => inRange 0 55488 q.1) && o.drops.all (fun q => inRange 0 816 q.1)

/-- A well-formed command. -/
def Instr.wf : Instr → Bool
  | .status r => r.wf
  | .time r => r.wf
  | .temperature r => r.wf
  | .stopBoundary r => r.wf
  | .stopNow r => r.wf
  | .result r _ => r.wf
  | .sessionOpen r nonce _ _ kem => r.wf && nonce.length == 32 && kem.length == 1568
  | .sessionConfirm r sig => r.wf && sig.length == 1280
  | .sessionClose r => r.wf
  | .attest r nonce => r.wf && nonce.length == 32
  | .eventSubscribe r _ _ => r.wf
  | .graphSubmit r _ => r.wf
  | .graphRun r _ => r.wf
  | .graphRelease r _ => r.wf
  | .graphReadmit r _ => r.wf
  | .graphResume r _ => r.wf
  | .unitTable r _ _ => r.wf
  | .regRead r _ _ => r.wf
  | .regWrite r _ words => r.wf && decide (words.length ≤ 349)
  | .memRead r _ _ => r.wf
  | .memWrite r _ data => r.wf && decide (data.length ≤ 1396)
  | .laneUnit r _ _ data => r.wf && decide (data.length ≤ 1396)
  | .syscalZero v o => v.wf && o.cal.wf
  | .syscalFull v o => v.wf && o.cal.wf
  | .syscalCommit v => v.wf
  | .syscalAbandon v => v.wf
  | .linkGroup r _ _ _ => r.wf
  | .linkTrain r _ => r.wf
  | .frostEnter r => r.wf
  | .thaw r => r.wf
  | .resetPowerOn r => r.wf
  | .resetCold r => r.wf
  | .resetWarm r => r.wf
  | .resetFunction r => r.wf
  | .resetSubsystem r _ => r.wf
  | .powerOff r => r.wf
  | .calendarSet r _ _ => r.wf
  | .updateBegin r manifest => r.wf && manifest.length == manifestLength
  | .updateData r _ data => r.wf && decide (data.length ≤ 1404)
  | .updateFinish r => r.wf
  | .updateAbort r => r.wf
  | .recoveryEnter r => r.wf
  | .ledgerBatch r _ _ => r.wf
  | .ledgerClose r _ => r.wf
  | .journalRead r _ _ => r.wf
  | .pageDump r _ => r.wf
  | .messageFragment r _ _ _ _ _ => r.wf
  | .fragmentTimeout _ => true
  | .sessionConfirmTimeout n => inRange 1 9 n
  | .sessionIdleTimeout n => inRange 1 9 n
  | .ptpMessage _ => true
  | .pdelayRequestTimer => true
  | .grandmasterLoss => true
  | .controlLinkDown => true
  | .controlLinkUp _ => true
  | .eventCopyDrop n => inRange 1 9 n
  | .qbvCycleStart => true
  | .pmaMapReqProbe _ _ => true
  | .pmaMapReqMapOut _ _ => true
  | .tdwClrStats _ _ => true
  | .squClrStats _ _ => true
  | .lgeClrStats _ _ => true
  | .xlClrStats _ _ => true
  | .seqClrStats _ _ => true
  | .hmsClrStats _ _ => true
  | .lmsClrStats _ _ => true
  | .oleClrStats _ _ => true
  | .calClrStats _ _ => true
  | .clsClrStats _ _ => true
  | .hifCpClrStats _ _ => true
  | .hifClrStats _ _ => true
  | .tpsClrStats _ _ => true
  | .tpsPwrClrStats _ _ => true
  | .tslEpochLenWrite _ _ => true
  | .tslLaneWrite _ _ _ _ => true
  | .oleRestWrite _ _ _ => true
  | .clsTakeoverGo _ _ => true
  | .hifRingEnable _ _ _ => true
  | .hifRingDisable _ _ _ => true
  | .hifDoorbell _ _ _ => true
  | .hifWindowWrite _ _ _ _ => true
  | .hifQbvWrite _ _ _ => true
  | .hifIrqWrite _ _ _ => true
  | .tpsFloorWrite _ _ => true
  | .mscDormantRequest _ _ => true
  | .w1cClear _ _ _ _ => true
  | .scaleDataRead _ => true
  | .latchedLowRead _ _ => true
  | .plainRegisterWrite _ _ _ => true
  | .apertureRead off len => decide (off.toNat + len ≤ 2 ^ 34)
  | .apertureWrite off data => decide (off.toNat + data.length ≤ 2 ^ 34)
  | .msixUnmask _ => true
  | .submissionEntry _ => true
  | .bulkCopy _ _ => true
  | .bulkFill _ _ => true
  | .bulkLaneUnit _ _ => true
  | .bulkWeightLoad _ _ => true
  | .bulkHostTimeout _ => true
  | .ringRoomReturn _ => true
  | .msixModerationTimeout _ => true
  | .shadowLoad l _ _ _ => inRange 0 768 l
  | .shadowLoadComplete l => inRange 0 768 l
  | .swap l => inRange 0 768 l
  | .pass p => p.wf
  | .chunkReconstruction _ => true
  | .opticalReplay dev => dev.all SlicerDev.wf
  | .electronicReplay _ => true
  | .replayDeadline => true
  | .replayHoldEnd => true
  | .rampFill l => inRange 0 768 l
  | .lgeEntry slot task => inRange 0 256 slot && inRange 0 65536 task
  | .substitutionHoldEnd => true
  | .xlEntry slot task => inRange 0 256 slot && inRange 0 65536 task
  | .squEntry slot task => inRange 0 256 slot && inRange 0 65536 task
  | .transferEntry slot task => inRange 0 256 slot && inRange 0 65536 task
  | .linkEntry slot task => inRange 0 256 slot && inRange 0 65536 task
  | .laneEntry slot task => inRange 0 256 slot && inRange 0 65536 task
  | .hbmRefresh => true
  | .lpddrRefresh => true
  | .holdRefresh l _ => inRange 0 768 l
  | .refreshLate g _ => inRange 0 816 g
  | .epochBoundary => true
  | .fallowSlotBegin o => o.wf
  | .epochOverrun => true
  | .shortFallowSlot o => o.wf
  | .lateBoundary => true
  | .laneUnitPresent lane => inRange 0 48 lane
  | .tagRecordWrite slot task => inRange 0 256 slot && inRange 0 65536 task
  | .ledgerBatchTimeout _ => true
  | .signatureRecord _ => true
  | .parityReread addr _ _ => decide (addr < 2 ^ 64)
  | .persistentError addr _ => decide (addr < 2 ^ 64)
  | .stackFail n => inRange 0 10 n
  | .stackCaParityLoss n => inRange 0 10 n
  | .lpddrPackageFail n => inRange 0 12 n
  | .frameData f => f.wf
  | .frameIdle f => f.wf
  | .frameResendReq f => f.wf
  | .frameService f => f.wf
  | .laneLockLoss lane => inRange 0 32 lane
  | .laneDiscardLimit lane => inRange 0 32 lane
  | .lanePauseEnd lane => inRange 0 32 lane
  | .portLightArrival port => inRange 0 4 port
  | .portTrainingDone port _ => inRange 0 4 port
  | .lossOfSignal port => inRange 0 4 port
  | .aprProbe port => inRange 0 4 port
  | .portPowerMonitorTrip port => inRange 0 4 port
  | .reconfigurationDeadline => true
  | .phaseWindowEnd => true
  | .linkHoldEnd => true
  | .linkHoldTimeout => true
  | .spareLocked src => inRange 0 56 src
  | .sourceLockTimeout src => inRange 0 56 src
  | .lightTrip arcade => inRange 0 24 arcade
  | .lightHoldEnd arcade => inRange 0 24 arcade
  | .spareLockFail arcade => inRange 0 24 arcade
  | .sourceWorn src => inRange 0 56 src
  | .spareSourceFail src => inRange 0 56 src
  | .linkSourceFail src => inRange 48 56 src
  | .startupCalibration => true
  | .startupCalibrationDone o => o.wf
  | .reacquisition => true
  | .reacquisitionDone o => o.wf
  | .monitorAdcSample input raw => inRange 0 2048 input && inRange 0 65536 raw
  | .monitorInputFault input => inRange 0 2048 input
  | .zoneLoopExit zone => inRange 0 192 zone
  | .weakRow g row => inRange 0 816 g && inRange 0 68 row
  | .sensorSample i _ => inRange 0 278 i
  | .thermalLevelLeave d => inRange 0 7 d
  | .throttleStepDown => true
  | .fastSamplingEnd d => inRange 0 7 d
  | .sensorInvalid i => inRange 0 278 i
  | .hardwareTrip i _ => inRange 0 278 i
  | .mscActionStart => true
  | .pwrEnAssert => true
  | .pwrEnDeassert => true
  | .inputQualified => true
  | .inputUndervoltage => true
  | .inputOvervoltage => true
  | .breakerTrip => true
  | .reverseCurrent => true
  | .railFault group => inRange 0 6 group
  | .railDroop group => inRange 0 6 group
  | .telemetrySample _ _ => true
  | .p1sUpdate _ => true
  | .excursionStep => true
  | .energyLimitShutdown => true
  | .telemetryLoss => true
  | .telemetryReturn => true
  | .backupDomainPowerOn => true
  | .supercapLow _ _ => true
  | .resetNPulse => true
  | .resetNRelease => true
  | .perstAssert => true
  | .pcieFlr => true
  | .pcieHotReset => true
  | .standbyExit b => b.cal.wf
  | .unitWatchdogExpiry block half => block == 11 && inRange 0 4 half || inRange 2 7 block && inRange 0 2 half
  | .mscWatchdogExpiry => true
  | .frontEndFallback => true
  | .updateArbitrationEnd => true
  | .updateLockTimeout => true
  | .trialEnd component => inRange 0 5 component
  | .recoveryInstall => true
  | .recoveryReset => true
  | .journalGapRecord => true
  | .pcieLinkUp _ _ _ => true
  | .pcieLinkDown => true
  | .registerAccessTimeout _ _ _ => true
  | .mscCoreRestartDone => true
  | .resetEnd b => b.cal.wf
  | .unrecognisedControlFrame f => f.wf
  | .inputQualificationLost => true

end Sys2Proof
end

