-- ==== Sys2Proof/Tests/Slice0.lean ====
section
/-! SUPPORT. Tests of the model on small states, ill-formed commands, and for each statement with hypotheses a state and operands that meet
them, clause by clause. -/

open Sys2Proof Sys2Proof.Machine

set_option Elab.async false

namespace Sys2Proof.Tests

/-! ### Small states -/

/-- IDLE, as bring-up leaves the mode; the rest as after reset. -/
def idle : State := { ({} : State) with msc := { mode := .idle } }

/-- IDLE with an open MAINTAIN session 1. -/
def up : State := { idle with cp := { sessions := [{ state := .isOpen, role := 3, mac := 7 }] } }

/-- A request of session 1 with `n` parameter bytes. -/
def req (n : Nat) : Req := { src := 7, session := 1, seq := 1, tagged := true, tagOk := true, plen := n }

/-- A request outside a session. -/
def bareReq (n : Nat) : Req := { src := 7, plen := n }

/-- BAR0, all byte enables set. -/
def bar : Path := .bar0 0xF

/-- A resident graph of one task, a transfer, with its run in progress. -/
def oneTask (t : Task) : Graph := { slot := 1, id := 9, tasks := [t], order := [0], run := some { ends := [none] } }

/-- ACTIVE with the graph of one task, which the page places. -/
def busy (t : Task) : State :=
  { ({} : State) with
    msc := { mode := .active }
    cp := { sessions := [{ state := .isOpen, role := 3, mac := 7 }] }
    tps := { groups := 63 }
    seq := { graphs := [oneTask t], page := { tasks := [(1, 0)] } } }

/-- Ring 5 set to `r` in `s`. -/
def withRing (r : Ring) (s : State) : State := setRing 5 r s

/-- The premise of a statement that a register access opens, shown by evaluation. -/
theorem opens_of {s : State} {p : Path} {off : Nat} {w : Bool} (h : gateOf s p off w = .take) : s.Opens p off w := h

/-- What `State.Admits` asks, for an evaluation. -/
abbrev AdmitFacts (s : State) (r : Req) (o need : Nat) : Prop :=
  portServes s = true ∧ (r.bcast = true → o = 1) ∧ r.behind < 3 ∧ (fragmented o = true ∨ r.plen ≤ 1408) ∧ (r.quiet = true → o = 0x0310)
    ∧ sessionNo r ≤ 8 ∧ (sessionNo r = 0 → sessionless o = true)
    ∧ (sessionNo r ≠ 0 → (sessionAt s (sessionNo r)).state ≠ .free ∧ r.tagged = true ∧ r.tagOk = true
        ∧ (sessionAt s (sessionNo r)).lastSeq < r.seq.toNat ∧ r.seq ≠ 0xFFFFFFFF)
    ∧ rolePermits s (sessionNo r) need = true

/-- The premise that a request is admitted, from an evaluation. -/
theorem admitted {s : State} {r : Req} {o need : Nat} (h : AdmitFacts s r o need) : s.Admits r o need :=
  ⟨h.1, h.2.1, h.2.2.1, h.2.2.2.1, h.2.2.2.2.1, h.2.2.2.2.2.1, h.2.2.2.2.2.2.1, h.2.2.2.2.2.2.2.1, h.2.2.2.2.2.2.2.2⟩

/-- The premise that a request is accepted, from an evaluation. -/
theorem accepted {s : State} {r : Req} {j : Job}
    (h : AdmitFacts s r (jobOpcode j).toNat (jobRole j) ∧ lengthFits s r.plen j = true ∧ jobAllowed s j = true ∧ queueRoom s r = true
      ∧ s.msc.running = true ∧ jobWaits s j = false ∧ s.msc.waiting.all (fun w => !sameQueue w.1 (originOf r j)) = true
      ∧ stepUnderWay s (originOf r j) = false) : s.Accepts r j :=
  ⟨admitted h.1, h.2.1, h.2.2.1, h.2.2.2.1, h.2.2.2.2.1, h.2.2.2.2.2.1, h.2.2.2.2.2.2.1, h.2.2.2.2.2.2.2⟩

/-! ### Witnesses: requests -/

theorem witness_IdleStep : ∃ s : State, s.pending = [] ∧ s.ole.requests = [] ∧ s.cal.sysRun = none ∧ s.msc.waiting = [] :=
  ⟨idle, rfl, rfl, rfl, rfl⟩

theorem witness_MemoryStaysCanonical : ∃ s t : State, s.memoryWf ∧ step s = .next t :=
  ⟨{ idle with mem := [(4096, 1)] }, _, ⟨rfl, rfl⟩, rfl⟩

theorem witness_AcceptedCommandExecutes : ∃ (i : Instr) (r : Req) (j : Job) (s : State), jobOfInstr i = some (r, j) ∧ s.Accepts r j :=
  ⟨.sessionClose (req 0), req 0, .sessionClose, up, rfl, accepted (by decide +kernel)⟩

theorem witness_RequestFrame : ∃ (r : Req) (a : Answer), sessionNo r ≤ 8 ∧ ¬ (r.quiet = true ∧ a.1 = Status.ok) :=
  ⟨req 0, (Status.ok, 0, []), by decide +kernel⟩

/-- Request fields at the bounds of the first checks: sessions 0, 1, 8 and 9, a sequence at and below the session's last. -/
theorem witness_UnauthenticatedRequests :
    ∃ s : State, portServes s = true ∧ (∃ r : Req, r.bcast = false ∧ r.behind < 3 ∧ r.plen ≤ 1408 ∧ r.quiet = false ∧ 8 < sessionNo r)
      ∧ (∃ r : Req, 1 ≤ sessionNo r ∧ sessionNo r ≤ 8 ∧ (sessionAt s (sessionNo r)).state = .free)
      ∧ (∃ r : Req, r.behind < 3 ∧ r.plen ≤ 1408 ∧ sessionNo r = 0)
      ∧ (∃ r : Req, 1 ≤ sessionNo r ∧ sessionNo r ≤ 8 ∧ (sessionAt s (sessionNo r)).state ≠ .free ∧ (r.tagged && r.tagOk) = false)
      ∧ (∃ r : Req, 1 ≤ sessionNo r ∧ sessionNo r ≤ 8 ∧ (sessionAt s (sessionNo r)).state ≠ .free ∧ r.tagged = true ∧ r.tagOk = true
          ∧ r.seq.toNat ≤ (sessionAt s (sessionNo r)).lastSeq ∧ r.seq ≠ 0) :=
  ⟨modSession 1 (fun x => { x with lastSeq := 1 }) up, by decide +kernel, ⟨{ session := 9, plen := 1408, behind := 2 }, by decide +kernel⟩,
    ⟨{ session := 8 }, by decide +kernel⟩, ⟨{ plen := 1408, behind := 2 }, by decide +kernel⟩, ⟨{ session := 1, tagged := true }, by decide +kernel⟩,
    ⟨req 4, by decide +kernel⟩⟩

theorem witness_RefusedRequests :
    (∃ (s : State) (r : Req), s.Admits r 0x0202 0 ∧ rolePermits s (sessionNo r) 2 = false)
      ∧ (∃ (s : State) (r : Req), s.Admits r 0x0202 0 ∧ rolePermits s (sessionNo r) 2 = true ∧ r.plen ≠ 4)
      ∧ (∃ (s : State) (r : Req), s.Admits r 0x0202 0 ∧ rolePermits s (sessionNo r) 2 = true ∧ r.plen = 4 ∧ s.msc.mode = .standby)
      ∧ (∃ (s : State) (r : Req), s.Admits r 0x0202 0 ∧ rolePermits s (sessionNo r) 2 = true ∧ r.plen = 4 ∧ s.msc.mode = .active
          ∧ queueRoom s r = false) :=
  ⟨⟨modSession 1 (fun x => { x with role := 1 }) up, req 4, admitted (by decide +kernel), by decide +kernel⟩,
    ⟨up, req 3, admitted (by decide +kernel), by decide +kernel⟩,
    ⟨{ up with msc := {} }, req 4, admitted (by decide +kernel), by decide +kernel⟩,
    ⟨{ up with msc := { mode := .active, waiting := List.replicate 64 (.cp 1 7 0 0x0202 false, .graphRun 9) } }, req 4,
      admitted (by decide +kernel), by decide +kernel⟩⟩

/-- A completion cached for sequence 3. -/
def cached : Frame :=
  { dst := 7, session := 1, seq := 3, opcode := 0x0202, tagged := true, completion := true, event := false, htLow := 0, params := [] }

theorem witness_ImmediateCommands :
    (∃ (s : State) (r : Req), s.Admits r 1 0 ∧ r.plen = 0) ∧ (∃ (s : State) (r : Req), s.Admits r 2 0 ∧ r.plen = 0)
      ∧ (∃ (s : State) (r : Req), s.Admits r 3 0 ∧ r.plen = 0)
      ∧ (∃ (s : State) (r : Req), s.Admits r 4 2 ∧ r.plen = 4 ∧ s.msc.mode = .active)
      ∧ (∃ (s : State) (r : Req) (seq : Word) (f : Frame), s.Admits r 5 1 ∧ r.plen = 4 ∧ s.msc.mode = .active
          ∧ (cachedFrames (takeSeq r s) (sessionNo r) seq).find? (fun f => f.completion) = some f) :=
  ⟨⟨up, bareReq 0, admitted (by decide +kernel), rfl⟩, ⟨up, bareReq 0, admitted (by decide +kernel), rfl⟩,
    ⟨up, bareReq 0, admitted (by decide +kernel), rfl⟩, ⟨busy {}, req 4, admitted (by decide +kernel), rfl, rfl⟩,
    ⟨modSession 1 (fun x => { x with cache := [cached] }) (busy {}), req 4, 3, cached,
      admitted (by decide +kernel), rfl, rfl, by decide +kernel⟩⟩

/-- An enrolled host key of role MAINTAIN. -/
def keyed : State := { up with msc := { up.msc with hostKeys := [{ id := 4, role := 3 }] } }

/-- Session 1 pending for that key. -/
def pendingSession : State := modSession 1 (fun x => { x with state := .pending, keyId := 4 }) keyed

theorem witness_SessionCommands :
    (∃ (s : State) (nonce : List Byte) (key : DWord) (role : Byte) (kem : List Byte) (k : HostKey) (n : Nat),
        s.Accepts (bareReq 1616) (.sessionOpen nonce key role kem) ∧ 1 ≤ role.toNat ∧ role.toNat ≤ 3 ∧ hostKey s key = some k ∧ freeSession s = some n)
      ∧ (∃ (s : State) (sig : List Byte) (k : HostKey), s.Accepts (req 1280) (.sessionConfirm sig)
          ∧ hostKey s (sessionAt s (sessionNo (req 1280))).keyId = some k ∧ (sessionAt s (sessionNo (req 1280))).role.toNat ≤ k.role.toNat)
      ∧ (∃ s : State, s.Accepts (req 0) .sessionClose) ∧ (∃ (s : State) (nonce : List Byte), s.Accepts (req 32) (.attest nonce))
      ∧ (∃ (s : State) (mask : Word) (enable : Bool), s.Accepts (req 8) (.eventSubscribe mask enable) ∧ mask.toNat ≤ 65535) :=
  ⟨⟨keyed, [], 4, 3, [], { id := 4, role := 3 }, 2, accepted (by decide +kernel), by decide +kernel⟩,
    ⟨pendingSession, [], { id := 4, role := 3 }, accepted (by decide +kernel), by decide +kernel⟩,
    ⟨up, accepted (by decide +kernel)⟩,
    ⟨up, [], accepted (by decide +kernel)⟩,
    ⟨up, 0xFFFF, true, accepted (by decide +kernel), by decide +kernel⟩⟩

/-- Bytes laid from an address on; those that are zero are not listed. -/
def lay (a : Nat) (bs : List Byte) : List (Nat × Byte) := (((List.range bs.length).zip bs).filter (fun q => q.2 ≠ 0)).map (fun q => (a + q.1, q.2))

/-- `s` with a graph of ID 9 described at 0x10000, its task table at 0x11000 and its image at 0x12000: one TRANSFER of 64 bytes from 0x4000 to 0x8000.
Its completion ring is ring 6. -/
def described (s : State) : State :=
  let desc : List Byte := [1, 1, 1, 0] ++ le 4 9 ++ le 4 1 ++ le 4 0 ++ le 8 0x11000 ++ le 8 0 ++ le 8 0x12000 ++ zeros 4 ++ le 2 6 ++ zeros 10 ++ le 4 1000 ++ zeros 4
  let task : List Byte := [4, 0, 0xFF, 0xFF] ++ zeros 4 ++ le 8 0x4000 ++ zeros 8 ++ le 8 0x8000 ++ le 4 64 ++ zeros 28
  { setRing 6 { type := .completion, state := .enabled, size := 3, baseLo := 0x2000 } s with
    mem := lay 0x10000 desc ++ lay 0x11000 task ++ [(0x12000, 4)], tps := { groups := 63 } }

/-- That graph, resident and held. -/
def heldGraph : Graph := { slot := 1, id := 9, addr := 0x10000, held := true }

theorem witness_GraphCommands :
    (∃ (s : State) (addr : DWord), s.Accepts (req 8) (.graphSubmit addr)
        ∧ admissionCheck (finishStep (taken (req 8) (.graphSubmit addr) s)) (descAt (finishStep (taken (req 8) (.graphSubmit addr) s)) addr.toNat) = none)
      ∧ (∃ (s : State) (id : Word) (g : Graph), s.Accepts (req 4) (.graphRun id) ∧ graphById s id = some g ∧ g.period = 0 ∧ g.held = false)
      ∧ (∃ (s : State) (id : Word) (g : Graph), s.Accepts (req 4) (.graphRelease id) ∧ graphById s id = some g)
      ∧ (∃ (s : State) (id : Word) (g : Graph), let u := taken (req 4) (.graphReadmit id) s
          s.Accepts (req 4) (.graphReadmit id) ∧ graphById s id = some g ∧ g.held = true
          ∧ admissionCheck { u with seq := { u.seq with graphs := u.seq.graphs.filter (fun p => p.slot ≠ g.slot) } } (descAt u g.addr.toNat) = none)
      ∧ (∃ s : State, s.Accepts (req 4) (.graphResume 0xFFFFFFFF))
      ∧ (∃ (s : State) (id : Word) (g : Graph), id ≠ 0xFFFFFFFF ∧ s.Accepts (req 4) (.graphResume id) ∧ graphById s id = some g ∧ g.held = false)
      ∧ (∃ (s : State) (id : Word) (g : Graph) (ring : BitVec 16), s.Accepts (req 8) (.unitTable id ring) ∧ graphById s id = some g
          ∧ ring.toNat < 16384 ∧ (ringOf s ring.toNat).type = .telemetry ∧ ringTakes s ring.toNat (unitEntries g).length = true)
      ∧ (∃ (s : State) (ring : BitVec 16), s.Accepts (req 4) (.pageDump ring) ∧ ring.toNat < 16384) :=
  ⟨⟨described up, 0x10000, accepted (by decide +kernel), by decide +kernel⟩,
    ⟨busy {}, 9, oneTask {}, accepted (by decide +kernel), by decide +kernel⟩,
    ⟨busy {}, 9, oneTask {}, accepted (by decide +kernel), by decide +kernel⟩,
    ⟨{ described up with seq := { graphs := [heldGraph] } }, 9, heldGraph, accepted (by decide +kernel), by decide +kernel, by decide +kernel,
      by decide +kernel⟩,
    ⟨busy {}, accepted (by decide +kernel)⟩,
    ⟨busy {}, 9, oneTask {}, by decide, accepted (by decide +kernel), by decide +kernel⟩,
    ⟨withRing { type := .telemetry, state := .enabled, size := 3 } (busy {}), 9, oneTask {}, 5, accepted (by decide +kernel), by decide +kernel⟩,
    ⟨busy {}, 16383, accepted (by decide +kernel), by decide +kernel⟩⟩

theorem witness_AccessCommands :
    (∃ (s : State) (addr : DWord) (count : BitVec 16), s.Accepts (req 12) (.regRead addr count) ∧ 1 ≤ count.toNat ∧ count.toNat ≤ 126
        ∧ wordsInBlock addr.toNat count.toNat = true)
      ∧ (∃ (s : State) (addr : DWord) (ws : List Word), s.Accepts (req 16) (.regWrite addr ws false) ∧ 1 ≤ ws.length ∧ ws.length ≤ 349
          ∧ wordsInBlock addr.toNat ws.length = true)
      ∧ (∃ (s : State) (addr : DWord) (len : Word), s.Accepts (req 12) (.memRead addr len) ∧ 1 ≤ len.toNat
          ∧ memRefusal s addr.toNat len.toNat 504 false = none)
      ∧ (∃ (s : State) (addr : DWord) (data : List Byte), s.Accepts (req 13) (.memWrite addr data) ∧ data ≠ []
          ∧ memRefusal s addr.toNat data.length 1396 true = none)
      ∧ (∃ (s : State) (lane : Byte) (capture : DWord) (data : List Byte), s.Accepts (req 13) (.laneUnit lane capture data) ∧ lane.toNat < 48
          ∧ (laneAt s lane.toNat).en = true ∧ (laneAt s lane.toNat).dir = false) :=
  ⟨⟨up, BitVec.ofNat 64 regBase, 126, accepted (by decide +kernel), by decide +kernel⟩,
    ⟨up, BitVec.ofNat 64 (regBase + 0x200000), [1], accepted (by decide +kernel), by decide +kernel⟩,
    ⟨busy {}, 4096, 504, accepted (by decide +kernel), by decide +kernel⟩,
    ⟨busy {}, 4096, [1], accepted (by decide +kernel), by decide +kernel⟩,
    ⟨modLane 47 (fun l => { l with en := true, unitBytes := 1 }) up, 47, 0, [1], accepted (by decide +kernel), by decide +kernel⟩⟩

theorem witness_SettingCommands :
    (∃ (s : State) (id : BitVec 16) (size index : Byte), s.Accepts (req 4) (.linkGroup id size index) ∧ 1 ≤ size.toNat ∧ size.toNat ≤ 16
        ∧ index.toNat < size.toNat ∧ groupBusy s = false)
      ∧ (∃ (s : State) (ports : Byte), s.Accepts (req 4) (.linkTrain ports) ∧ ports.toNat ≤ 15 ∧ groupBusy s = false)
      ∧ (∃ (s : State) (secs : DWord) (ns : Word), s.Accepts (req 12) (.calendarSet secs ns) ∧ ns.toNat < 1000000000)
      ∧ (∃ (s : State) (ring b : BitVec 16), s.Accepts (req 4) (.ledgerBatch ring b) ∧ ring.toNat < 16384 ∧ 1 ≤ b.toNat ∧ b.toNat ≤ 4096
          ∧ (ringOf s ring.toNat).type = .ledger ∧ (ringOf s ring.toNat).state ≠ .disabled ∧ (ringOf s ring.toNat).batch.length < b.toNat)
      ∧ (∃ (s : State) (ring : BitVec 16), s.Accepts (req 4) (.ledgerClose ring) ∧ ring.toNat < 16384 ∧ (ringOf s ring.toNat).type = .ledger
          ∧ (ringOf s ring.toNat).state ≠ .disabled ∧ (ringOf s ring.toNat).batch ≠ [])
      ∧ (∃ (s : State) (first : Word) (count : Byte) (j : Nat × List Byte), s.Accepts (req 8) (.journalRead first count) ∧ 1 ≤ count.toNat
          ∧ count.toNat ≤ 7 ∧ s.msc.journal.find? (fun j => j.1 % 2 ^ 32 = first.toNat) = some j) :=
  ⟨⟨up, 3, 16, 15, accepted (by decide +kernel), by decide +kernel⟩, ⟨up, 15, accepted (by decide +kernel), by decide +kernel⟩,
    ⟨up, 5, 999999999, accepted (by decide +kernel), by decide +kernel⟩,
    ⟨withRing { type := .ledger, state := .enabled, size := 5 } up, 5, 4096, accepted (by decide +kernel), by decide +kernel⟩,
    ⟨withRing { type := .ledger, state := .enabled, size := 5, batch := [[1]] } up, 5, accepted (by decide +kernel), by decide +kernel⟩,
    ⟨{ up with msc := { up.msc with journal := [(7, [1])] } }, 7, 7, (7, [1]), accepted (by decide +kernel), by decide +kernel⟩⟩

theorem witness_ActionCommands :
    (∃ s : State, s.Accepts (req 0) .frostEnter ∧ s.msc.mode = .idle ∧ s.msc.action = none)
      ∧ (∃ s : State, s.Accepts (req 0) .thaw ∧ s.msc.action = none) ∧ (∃ s : State, s.Accepts (req 0) .powerOff ∧ s.msc.action = none)
      ∧ (∃ s : State, s.Accepts (req 0) .recoveryEnter ∧ s.msc.action = none)
      ∧ (∃ s : State, s.msc.action = none ∧ s.msc.resetting = none ∧ s.msc.mode = .idle ∧ s.Accepts (req 4) (.reset 1 0)
          ∧ s.Accepts (req 4) (.reset 2 0) ∧ s.Accepts (req 4) (.reset 3 0) ∧ s.Accepts (req 4) (.reset 4 0)
          ∧ (∃ block : Byte, s.Accepts (req 4) (.reset 5 block) ∧ blockAllowed block.toNat = true)) :=
  ⟨⟨up, accepted (by decide +kernel), rfl, rfl⟩, ⟨{ up with msc := { mode := .frost } }, accepted (by decide +kernel), rfl⟩,
    ⟨up, accepted (by decide +kernel), rfl⟩, ⟨up, accepted (by decide +kernel), rfl⟩,
    ⟨up, rfl, rfl, rfl, accepted (by decide +kernel), accepted (by decide +kernel), accepted (by decide +kernel), accepted (by decide +kernel),
      ⟨12, accepted (by decide +kernel), by decide +kernel⟩⟩⟩

/-- The update session of control-port session 1. -/
def updating (u : UpdSession) : State := { up with msc := { up.msc with update := some u } }

/-- Its holder, for the commands of session 1. -/
def holder : Origin := .cp 1 7 0 0x0701 false

theorem witness_UpdateCommands :
    (∃ (s : State) (m : List Byte), s.Accepts (req 1344) (.updateBegin m) ∧ s.msc.update = none)
      ∧ (∃ (s : State) (off : Word) (data : List Byte) (u : UpdSession), s.Accepts (req 5) (.updateData off data) ∧ s.msc.update = some u
          ∧ sameHolder u.who (originOf (req 5) (.updateData off data)) = true ∧ off.toNat = u.written
          ∧ off.toNat + data.length ≤ u.man.length.toNat ∧ u.man.component.toNat = 5)
      ∧ (∃ (s : State) (off : Word) (data : List Byte) (u : UpdSession), s.Accepts (req 5) (.updateData off data) ∧ s.msc.update = some u
          ∧ sameHolder u.who (originOf (req 5) (.updateData off data)) = true ∧ off.toNat = u.written
          ∧ off.toNat + data.length ≤ u.man.length.toNat ∧ u.man.component.toNat < 5 ∧ u.data = [])
      ∧ (∃ (s : State) (u : UpdSession), s.Accepts (req 0) .updateFinish ∧ s.msc.update = some u
          ∧ sameHolder u.who (originOf (req 0) .updateFinish) = true ∧ u.written < u.man.length.toNat)
      ∧ (∃ (s : State) (u : UpdSession), s.Accepts (req 0) .updateFinish ∧ s.msc.update = some u
          ∧ sameHolder u.who (originOf (req 0) .updateFinish) = true ∧ u.man.length.toNat ≤ u.written ∧ u.man.component.toNat < 5
          ∧ s.msc.mode ≠ .recovery)
      ∧ (∃ s : State, s.Accepts (req 0) .updateAbort ∧ holdsLock s (originOf (req 0) .updateAbort) = true) :=
  ⟨⟨up, [], accepted (by decide +kernel), rfl⟩,
    ⟨updating { who := holder, man := { component := 5, length := 1 } }, 0, [9], _, accepted (by decide +kernel), rfl, by decide +kernel⟩,
    ⟨updating { who := holder, man := { component := 4, length := 1 } }, 0, [9], _, accepted (by decide +kernel), rfl, by decide +kernel⟩,
    ⟨updating { who := holder, man := { component := 4, length := 1 } }, _, accepted (by decide +kernel), rfl, by decide +kernel⟩,
    ⟨updating { who := holder, man := { component := 0, length := 1 }, written := 1 }, _, accepted (by decide +kernel), rfl, by decide +kernel⟩,
    ⟨updating { who := holder }, accepted (by decide +kernel), by decide +kernel⟩⟩

/-- IDLE with a system calibration at `stage`, its reference inputs sampled. -/
def staged (stage : BitVec 2) : State := { up with cal := { stage := stage, mons := [(1720, {}), (1721, {})] } }

theorem witness_SystemCalibration :
    (∃ s : State, s.msc.mode = .idle ∧ s.seq.graphs = [] ∧ s.cal.sysRun = none ∧ s.Accepts (req 24) (.syscal 1 5 [] {})
        ∧ s.Accepts (req 24) (.syscal 4 5 [] {}) ∧ (∃ (p : Path) (w : Word), s.Opens p 0xD00004 true ∧ bit w 0 = false))
      ∧ (∃ (s : State) (q f : Int), s.msc.mode = .idle ∧ s.seq.graphs = [] ∧ s.cal.sysRun = none ∧ s.Accepts (req 24) (.syscal 2 5 [] {})
          ∧ s.cal.stage ≠ 0 ∧ monValue s 1720 = some q ∧ monValue s 1721 = some f ∧ (∃ p : Path, s.Opens p 0xD00004 true))
      ∧ (∃ s : State, s.msc.mode = .idle ∧ s.seq.graphs = [] ∧ s.cal.sysRun = none ∧ s.Accepts (req 24) (.syscal 3 5 [] {}) ∧ s.cal.stage = 2
          ∧ (∃ p : Path, s.Opens p 0xD00004 true))
      ∧ (∃ (s : State) (x : SysRun), s.cal.sysRun = some x)
      ∧ (∃ s : State, s.msc.mode = .active ∧ s.Accepts (req 24) (.syscal 4 5 [] {})) :=
  ⟨⟨up, rfl, rfl, rfl, accepted (by decide +kernel), accepted (by decide +kernel), bar, 0, opens_of (by decide +kernel), by decide +kernel⟩,
    ⟨staged 1, _, _, rfl, rfl, rfl, accepted (by decide +kernel), by decide, rfl, rfl, bar, opens_of (by decide +kernel)⟩,
    ⟨staged 2, rfl, rfl, rfl, accepted (by decide +kernel), rfl, bar, opens_of (by decide +kernel)⟩,
    ⟨{ idle with cal := { sysRun := some {} } }, {}, rfl⟩, ⟨busy {}, rfl, accepted (by decide +kernel)⟩⟩

/-- A raw frame that R307 accepts, with room for its header, no parameters and a tag. -/
def raw (version : Byte) (flags : Byte) (opcode : BitVec 16) : RawFrame :=
  { toModule := true, etherType := 0x88B5, payload := 48, version := version, flags := flags, opcode := opcode }

theorem witness_PortTimers :
    (∃ (s : State) (r : Req) (o : BitVec 16) (index count : Byte) (length : BitVec 16) (data : List Byte), portServes s = true
        ∧ r.bcast = false ∧ r.behind < 3 ∧ r.quiet = false ∧ sessionNo r = 0 ∧ fragmented o.toNat = true ∧ sessionless o.toNat = true
        ∧ s.cp.assemblies = [] ∧ 1 < count.toNat ∧ count.toNat ≤ 8 ∧ index.toNat < count.toNat ∧ length.toNat ≤ 4096 ∧ data.length ≤ 1404)
      ∧ (∃ (s : State) (i : Nat) (a : Assembly), s.cp.assemblies[i]? = some a)
      ∧ (∃ (s : State) (n : Nat), 1 ≤ n ∧ n ≤ 8 ∧ (sessionAt s n).state = .pending)
      ∧ (∃ (s : State) (n : Nat), 1 ≤ n ∧ n ≤ 8 ∧ (sessionAt s n).state = .isOpen)
      ∧ (∃ (s : State) (n : Nat) (out : List Output), unsendEvent n s.out = some out)
      ∧ (∃ (s : State) (f : RawFrame), portServes s = true ∧ f.toModule = true ∧ f.etherType ≠ 0x88F7 ∧ frameAccepted s f = false)
      ∧ (∃ (s : State) (f : RawFrame), portServes s = true ∧ frameAccepted s f = true ∧ 16 + f.plen + 32 ≤ f.payload ∧ f.version ≠ 1)
      ∧ (∃ (s : State) (f : RawFrame), portServes s = true ∧ frameAccepted s f = true ∧ 16 + f.plen + 32 ≤ f.payload ∧ f.version = 1
          ∧ headerFits f = false)
      ∧ (∃ (s : State) (f : RawFrame), portServes s = true ∧ frameAccepted s f = true ∧ 16 + f.plen + 32 ≤ f.payload ∧ f.version = 1
          ∧ headerFits f = true ∧ opcodeListed f.opcode.toNat = false) :=
  ⟨⟨idle, { behind := 2 }, 0x0101, 7, 8, 4096, [], by decide +kernel⟩, ⟨{ idle with cp := { assemblies := [{}] } }, 0, {}, rfl⟩,
    ⟨modSession 8 (fun x => { x with state := .pending }) { up with cp := { sessions := List.replicate 8 {} } }, 8, by decide +kernel⟩,
    ⟨up, 1, by decide +kernel⟩,
    ⟨{ idle with out := [.frame { cached with event := true }] }, 1, [], by decide +kernel⟩,
    ⟨idle, { etherType := 0x0800 }, by decide +kernel⟩, ⟨idle, raw 2 0 1, by decide +kernel⟩, ⟨idle, raw 1 1 1, by decide +kernel⟩,
    ⟨idle, raw 1 0 9, by decide +kernel⟩⟩

/-- Ring 5, a submission ring of 16 entries in HBM3E with one entry, linked to completion ring 6. -/
def submitting : State :=
  setRing 6 { type := .completion, state := .enabled, size := 3, baseLo := 0x2000 }
    (withRing { type := .submission, state := .enabled, size := 3, baseLo := 0x1000, prod := 1, linked := 6 } (busy {}))

theorem witness_WaitingCommands :
    (∃ s : State, s.msc.running = false ∧ s.msc.mode ≠ .off ∧ wholeReset s = false)
      ∧ (∃ (s : State) (ring : BitVec 14), portServes s = true ∧ s.msc.mode ≠ .recovery ∧ (ringOf s ring.toNat).state = .enabled
          ∧ (ringOf s ring.toNat).type = .submission ∧ (ringOf s ring.toNat).used ≠ 0
          ∧ ringTakes s (ringOf s ring.toNat).linked.toNat 1 = true
          ∧ serves s ((ringOf s ring.toNat).entry (ringOf s ring.toNat).cons) 64 false = true) :=
  ⟨⟨{ idle with msc := { mode := .idle, running := false } }, by decide +kernel⟩, ⟨submitting, 5, by decide +kernel⟩⟩

theorem witness_TimeAndLink :
    (∃ s : State, s.msc.mode ≠ .off ∧ s.seq.graphs = [] ∧ s.tsl.sync ≠ .holdover)
      ∧ (∃ li offset : Int, -3 ≤ li ∧ li ≤ 0 ∧ 1000000 < offset.natAbs) ∧ (∃ s : State, s.msc.mode ≠ .off ∧ s.cp.linkUp = true)
      ∧ (∃ s : State, s.msc.mode ≠ .off ∧ portServes s = true ∧ s.cp.qbvEn = true ∧ s.cp.qbvCycle ≠ 0) :=
  ⟨⟨{ idle with tsl := { sync := .locked } }, by decide +kernel⟩, ⟨-3, -1000001, by decide⟩, ⟨{ idle with cp := { linkUp := true } }, by decide +kernel⟩,
    ⟨{ idle with cp := { qbvEn := true, qbvCycle := 1000 } }, by decide +kernel⟩⟩

/-! ### Witnesses: registers -/

theorem witness_EngineStatisticsCleared :
    ∃ (p : Path) (w : Word) (s : State), s.Opens p 0x200000 true ∧ s.Opens p 0x400004 true ∧ s.Opens p 0x500004 true ∧ s.Opens p 0x600004 true
      ∧ s.Opens p 0x700004 true ∧ bit w 31 = false ∧ s.Opens p 0x100004 true ∧ bits w 5 0 ≤ 55 :=
  ⟨bar, 55, idle, opens_of (by decide +kernel), opens_of (by decide +kernel), opens_of (by decide +kernel), opens_of (by decide +kernel),
    opens_of (by decide +kernel), by decide +kernel, opens_of (by decide +kernel), by decide +kernel⟩

theorem witness_SystemStatisticsCleared :
    ∃ (p : Path) (w : Word) (s : State), s.Opens p 0x900004 true ∧ s.Opens p 0xA00004 true ∧ s.Opens p 0xB00004 true ∧ bit w 31 = false
      ∧ s.Opens p 0xD00004 true ∧ bits w 30 28 ≤ 4 ∧ s.Opens p 0xC00100 true ∧ s.Opens p 0xC00004 true ∧ s.Opens p 0xE00004 true
      ∧ BitVec.ofNat 2 (bits w 1 0) = s.tps.floor ∧ s.Opens p 0xE00100 true :=
  ⟨bar, 0x40000000, idle, opens_of (by decide +kernel), opens_of (by decide +kernel), opens_of (by decide +kernel), by decide +kernel,
    opens_of (by decide +kernel), by decide +kernel, opens_of (by decide +kernel), opens_of (by decide +kernel), opens_of (by decide +kernel),
    by decide +kernel, opens_of (by decide +kernel)⟩

theorem witness_SettingWrites :
    (∃ (p : Path) (w : Word) (s : State), s.Opens p 0x800004 true ∧ 5 ≤ bits w 7 0 ∧ bits w 7 0 ≤ 200)
      ∧ (∃ (p : Path) (s : State) (lane : Fin 48), s.Opens p (0x801000 + 32 * lane.val + 12) true)
      ∧ (∃ (p : Path) (s : State) (lane : Fin 48), s.Opens p (0x801000 + 32 * lane.val) true ∧ laneBound s lane.val = false
          ∧ (laneAt s lane.val).units ≠ 0)
      ∧ (∃ (p : Path) (w : Word) (s : State) (lane : Fin 48), s.Opens p (0x801000 + 32 * lane.val) true ∧ (laneAt s lane.val).units = 0
          ∧ bit w 31 = true)
      ∧ (∃ (p : Path) (w : Word) (s : State), s.Opens p 0xB00018 true ∧ switchValid (BitVec.ofNat 12 (bits w 11 0)) = true)
      ∧ (∃ (p : Path) (w : Word) (s : State), s.Opens p 0xE00004 true ∧ bit w 31 = false ∧ levelInForce s < bits w 1 0)
      ∧ (∃ (p : Path) (w : Word) (s : State), s.Opens p 0xE00004 true ∧ bit w 31 = false
          ∧ levelInForce { s with tps := { s.tps with floor := BitVec.ofNat 2 (bits w 1 0) } } < levelInForce s) :=
  ⟨⟨bar, 200, idle, opens_of (by decide +kernel), by decide +kernel⟩, ⟨bar, idle, 47, opens_of (by decide +kernel)⟩,
    ⟨bar, modLane 47 (fun l => { l with units := 1 }) idle, 47, opens_of (by decide +kernel), by decide +kernel⟩,
    ⟨bar, 0x80000000, idle, 47, opens_of (by decide +kernel), by decide +kernel⟩,
    ⟨bar, BitVec.ofNat 32 idle.ole.restSwitch.toNat, idle, opens_of (by decide +kernel), by decide +kernel⟩,
    ⟨bar, 1, idle, opens_of (by decide +kernel), by decide +kernel⟩,
    ⟨bar, 0, { idle with tps := { floor := 1 } }, opens_of (by decide +kernel), by decide +kernel⟩⟩

/-- IDLE with stall `g` in state `st`. -/
def withStall (g : Nat) (st : Stall) (s : State) : State := modStall g (fun _ => st) s

/-- IDLE with source 0 serving and its spare in state `x`. -/
def lit (x : SrcState) : State := modSource 1 (fun y => { y with state := x }) (modSource 0 (fun y => { y with state := .serving }) idle)

theorem witness_RequestWrites :
    (∃ (p : Path) (s : State) (phys : BitVec 10), s.Opens p 0xC true ∧ phys.toNat ≤ 815
        ∧ (stallAt s phys.toNat).state = .loaded)
      ∧ (∃ (p : Path) (s : State) (phys : BitVec 10), s.Opens p 0xC true ∧ phys.toNat ≤ 815 ∧ (stallAt s phys.toNat).state = .suspect)
      ∧ (∃ (p : Path) (s : State) (phys : BitVec 10), s.Opens p 0xC true ∧ 815 < phys.toNat)
      ∧ (∃ (p : Path) (w : Word) (s : State), s.Opens p 0x100004 true ∧ bits w 5 0 ≤ 55 ∧ bit w 30 = false
          ∧ (sourceAt s (bits w 5 0)).state = .serving ∧ (sourceAt s (partnerOf (bits w 5 0))).state = .warm
          ∧ s.cls.requests.contains (bits w 5 0) = false)
      ∧ (∃ (p : Path) (s : State), s.Opens p 0xF00104 true ∧ s.msc.mode ≠ .idle)
      ∧ (∃ (p : Path) (s : State), s.Opens p 0xF00104 true ∧ s.msc.mode = .idle ∧ s.cal.stage = 0 ∧ s.cal.sysRun = none
          ∧ s.msc.update = none ∧ s.msc.resetting = none) :=
  ⟨⟨bar, withStall 815 { state := .loaded } idle, 815, opens_of (by decide +kernel), by decide +kernel⟩,
    ⟨bar, withStall 815 { state := .suspect } idle, 815, opens_of (by decide +kernel), by decide +kernel⟩,
    ⟨bar, idle, 816, opens_of (by decide +kernel), by decide +kernel⟩, ⟨bar, 0, lit .warm, opens_of (by decide +kernel), by decide +kernel⟩,
    ⟨.cp 0, busy {}, opens_of (by decide +kernel), by decide +kernel⟩, ⟨.cp 0, up, opens_of (by decide +kernel), rfl, rfl, rfl, rfl, rfl⟩⟩

theorem witness_HostRegisters :
    (∃ (p : Path) (s : State) (src : Fin 17), s.Opens p (eventOffset src.val) true ∧ s.Opens p (0xC00880 + 4 * src.val) true
        ∧ s.Opens p 0xC00804 true ∧ s.Opens p 0x400020 true)
      ∧ (∃ (p : Path) (s : State) (w : Word), s.Opens p 0xF00004 true ∧ bits w 30 28 ≤ 4)
      ∧ (∃ (p : Path) (s : State) (w : Word), s.Opens p 0xF00004 true ∧ 4 < bits w 30 28)
      ∧ (∃ (s : State) (be : BitVec 4) (off : BitVec 24), s.Opens (.bar0 be) 0x400024 false ∧ s.Opens (.bar0 be) (off.toNat / 4 * 4) false)
      ∧ (∃ (low high src : Nat) (s t : State), latchedBy low = [high] ∧ t.hif.latches = (readEffect src low s).hif.latches) :=
  ⟨⟨bar, idle, 16, opens_of (by decide +kernel), opens_of (by decide +kernel), opens_of (by decide +kernel), opens_of (by decide +kernel)⟩,
    ⟨.cp 0, up, 0x40000000, opens_of (by decide +kernel), by decide +kernel⟩, ⟨.cp 0, up, 0x50000000, opens_of (by decide +kernel), by decide +kernel⟩,
    ⟨idle, 0, 0x80000C, opens_of (by decide +kernel), opens_of (by decide +kernel)⟩,
    ⟨0x800010, 0x800014, 1, idle, readEffect 1 0x800010 idle, by decide +kernel, rfl⟩⟩

theorem witness_BarredAccesses :
    (∃ s : State, s.msc.mode = .off ∨ s.msc.strapPcieOff = true)
      ∧ (∃ (s : State) (off : BitVec 24), s.msc.mode = .idle ∧ s.msc.strapPcieOff = false ∧ off.toNat / 4 * 4 / 0x100000 = 15)
      ∧ (∃ (s : State) (be : BitVec 4) (off : BitVec 24), s.msc.mode = .idle ∧ s.msc.strapPcieOff = false ∧ off.toNat / 4 * 4 / 0x100000 ≠ 15
          ∧ be ≠ 0xF)
      ∧ (∃ (s : State) (off : BitVec 24), s.msc.mode = .standby ∧ s.msc.strapPcieOff = false ∧ off.toNat / 4 * 4 / 0x100000 < 8)
      ∧ (∃ (s : State) (off : BitVec 24), s.msc.mode = .idle ∧ s.msc.strapPcieOff = false ∧ off.toNat / 4 * 4 / 0x100000 ≠ 15
          ∧ blockInReset s (off.toNat / 4 * 4 / 0x100000) = true)
      ∧ (∃ s : State, s.msc.mode ≠ .off ∧ s.msc.strapPcieOff = false) :=
  ⟨⟨{ ({} : State) with msc := { mode := .off } }, by decide +kernel⟩, ⟨idle, 0xF00000, by decide +kernel⟩, ⟨idle, 0xE, 0xEFFFFF, by decide +kernel⟩,
    ⟨{}, 0x7FFFFF, by decide +kernel⟩, ⟨{ idle with msc := { mode := .idle, resetting := some (.reset (.subsystem 3) 1) } }, 0x300004, by decide +kernel⟩,
    ⟨idle, by decide +kernel⟩⟩

theorem witness_GateList :
    ∃ (p : Path) (s : State), s.Opens p 0xC00128 true ∧ s.Opens p 0xC0012C true ∧ s.Opens p 0xC00130 true
      ∧ (∃ w : Word, 1000 ≤ w.toNat ∧ w.toNat ≤ 1000000000) ∧ (∃ i : Fin 64, s.Opens p (0xC00200 + 4 * i.val) true) ∧ (∃ w : Word, bits w 23 0 ≠ 0)
      ∧ s.Opens p 0xC00124 true ∧ (∃ w : Word, bit w 31 = false ∧ 1 ≤ bits w 6 0 ∧ bits w 6 0 ≤ 64) :=
  ⟨bar, idle, opens_of (by decide +kernel), opens_of (by decide +kernel), opens_of (by decide +kernel), ⟨1000000000, by decide +kernel⟩,
    ⟨63, opens_of (by decide +kernel)⟩, ⟨1, by decide +kernel⟩, opens_of (by decide +kernel), ⟨64, by decide +kernel⟩⟩

/-! ### Witnesses: rings, windows, the aperture and bulk work -/

/-- Ring 5, disabled, of 16 entries in HBM3E, linked to completion ring 6, as the host sets it up before enabling it. -/
def ringReady : State :=
  { setRing 6 { type := .completion, state := .enabled, size := 3, baseLo := 0x2000 } (withRing { size := 3, baseLo := 0x1000, linked := 6 } idle) with
    tps := { groups := 63 } }

theorem witness_Rings :
    (∃ (p : Path) (s : State) (ring : BitVec 14) (w : Word) (t : RingType), s.Opens p (0xC10000 + 32 * ring.toNat) true
        ∧ (ringOf s ring.toNat).state = .disabled ∧ ringTypeOf (bits w 30 28) = some t ∧ 3 ≤ bits w 27 24
        ∧ ((ringOf s ring.toNat).base < regBase ∨ regEnd ≤ (ringOf s ring.toNat).base)
        ∧ enableAllowed s ring.toNat { ringOf s ring.toNat with type := t, size := BitVec.ofNat 4 (bits w 27 24) } = true ∧ s.msc.copyGap = [])
      ∧ (∃ (p : Path) (s : State) (ring : BitVec 14), s.Opens p (0xC10000 + 32 * ring.toNat) true ∧ (ringOf s ring.toNat).state ≠ .disabled)
      ∧ (∃ (p : Path) (s : State) (ring : BitVec 14), s.Opens p (0xCA0000 + 4 * ring.toNat) true ∧ s.msc.mode ≠ .recovery
          ∧ (ringOf s ring.toNat).state = .enabled ∧ hostProduced (ringOf s ring.toNat).type = true)
      ∧ (∃ (s : State) (ring : BitVec 14), s.Opens (.bar0 0xF) (0xCA0000 + 4 * ring.toNat) true ∧ s.msc.mode ≠ .recovery
          ∧ (ringOf s ring.toNat).state = .enabled ∧ hostProduced (ringOf s ring.toNat).type = false) :=
  ⟨⟨bar, ringReady, 5, 0x03000000, .submission, opens_of (by decide +kernel), by decide +kernel⟩,
    ⟨bar, submitting, 5, opens_of (by decide +kernel), by decide +kernel⟩, ⟨bar, submitting, 5, opens_of (by decide +kernel), by decide +kernel⟩,
    ⟨submitting, 6, opens_of (by decide +kernel), by decide +kernel⟩⟩

theorem witness_RingEvents :
    (∃ (s : State) (ring : BitVec 14) (first : Nat), (ringOf s ring.toNat).state = .enabled ∧ (ringOf s ring.toNat).room ≠ 0
        ∧ (ringOf s ring.toNat).type = .event ∧ (ringOf s ring.toNat).gapFirst = some first ∧ ringServes s ring.toNat = true)
      ∧ (∃ (s : State) (ring : BitVec 14), (ringOf s ring.toNat).state = .enabled ∧ (ringOf s ring.toNat).room ≠ 0
          ∧ (ringOf s ring.toNat).type = .ledger)
      ∧ (∃ (s : State) (ring : BitVec 14), (ringOf s ring.toNat).intEn = true ∧ 0 < (ringOf s ring.toNat).unsignalled)
      ∧ (∃ (s : State) (v : BitVec 6), s.hif.msixPending.toNat.testBit v.toNat = true ∧ s.msc.strapPcieOff = false)
      ∧ (∃ (s : State) (v : BitVec 6), s.hif.msixPending.toNat.testBit v.toNat = false) :=
  ⟨⟨withRing { type := .event, state := .enabled, size := 3, gapFirst := some 4, baseLo := 0x1000 } (busy {}), 5, 4, by decide +kernel⟩,
    ⟨withRing { type := .ledger, state := .enabled, size := 3 } idle, 5, by decide +kernel⟩,
    ⟨withRing { intEn := true, unsignalled := 1 } idle, 5, by decide +kernel⟩, ⟨{ idle with hif := { msixPending := 0x8000000000000000 } }, 63, by decide +kernel⟩,
    ⟨idle, 63, by decide +kernel⟩⟩

theorem witness_RingEntryStored :
    ∃ (i : Nat) (e : List Byte) (s : State), s.memoryWf ∧ e.length = 64 ∧ (ringOf s i).intEn = false
      ∧ (∃ k j, k < 64 ∧ place s ((ringOf s i).entry (ringOf s i).prod + k) true = .device j
          ∧ (∀ m, k < m → m < 64 → place s ((ringOf s i).entry (ringOf s i).prod + m) true ≠ .device j)) :=
  ⟨6, zeros 64, submitting, ⟨rfl, rfl⟩, rfl, rfl, 63, 0x203F, by decide, by decide +kernel, by omega⟩

/-- Host window 63, enabled for reads and writes at host address 0, and aperture segment 1 on HBM3E's first GiB. -/
def windowed : State :=
  { busy {} with hif := { wins := List.replicate 64 { en := true, read := true, write := true, size := 12 }
                          aper := [(false, 0), (true, 0), (true, 0x3FFF)] } }

theorem witness_WindowsAndAperture :
    (∃ (p : Path) (s : State) (win : BitVec 6) (w : Word), s.Opens p (0xC00400 + 16 * win.toNat) true ∧ windowUsed s win.toNat = false
        ∧ 12 ≤ bits w 5 0 ∧ bits w 5 0 ≤ 40)
      ∧ (∃ (p : Path) (s : State) (win : BitVec 6) (w : Word), s.Opens p (0xC00400 + 16 * win.toNat + 4) true ∧ windowUsed s win.toNat = false
          ∧ bits w 11 0 = 0)
      ∧ (∃ (p : Path) (s : State) (win : BitVec 6), s.Opens p (0xC00400 + 16 * win.toNat + 8) true ∧ windowUsed s win.toNat = false)
      ∧ (∃ (p : Path) (s : State) (win : BitVec 6), s.Opens p (0xC00400 + 16 * win.toNat) true ∧ windowUsed s win.toNat = true)
      ∧ (∃ (s : State) (off : BitVec 34) (len a : Nat), apertureOpen s = true ∧ apertureAddr s off.toNat = some a
          ∧ touches s a len false apertureBars = false ∧ touches s a len false (fun q => q == .failing) = false)
      ∧ (∃ (s : State) (off : BitVec 34) (data : List Byte) (a : Nat), apertureOpen s = true ∧ apertureAddr s off.toNat = some a
          ∧ touches s a data.length true apertureBars = false ∧ touches s a data.length true (fun q => q == .failing) = false)
      ∧ (∃ (s : State) (off : BitVec 34), apertureOpen s = true ∧ apertureAddr s off.toNat = none)
      ∧ (∃ (s : State) (off : BitVec 34) (len a : Nat), apertureOpen s = true ∧ apertureAddr s off.toNat = some a
          ∧ touches s a len false apertureBars = true) :=
  ⟨⟨bar, idle, 63, 40, opens_of (by decide +kernel), by decide +kernel⟩, ⟨bar, idle, 63, 0x1000, opens_of (by decide +kernel), by decide +kernel⟩,
    ⟨bar, idle, 63, opens_of (by decide +kernel), by decide +kernel⟩,
    ⟨bar, withRing { state := .enabled, size := 3, baseLo := 0, baseHi := BitVec.ofNat 32 (windowBase / 2 ^ 32) } windowed, 0,
      opens_of (by decide +kernel), by decide +kernel⟩,
    ⟨windowed, 0x40000000, 8, 0, by decide +kernel⟩, ⟨windowed, 0x40000000, [1], 0, by decide +kernel⟩, ⟨windowed, 0, by decide +kernel⟩,
    ⟨windowed, 0x80000000, 1, 0x3FFF * 2 ^ 30, by decide +kernel⟩⟩

theorem witness_StoredBytesReadBack :
    ∃ (a : Nat) (data : List Byte) (s : State), s.memoryWf ∧ a + data.length ≤ hbmEnd ∧ s.hms.spill = none
      ∧ touches s a data.length true (fun q => !placeServes q) = false :=
  ⟨hbmEnd - 2, [1, 0], busy {}, ⟨rfl, rfl⟩, by decide +kernel, rfl, by decide +kernel⟩

/-- `submitting` with ring 5 a bulk ring, its descriptor's operation, flags, lane byte, source, destination and length as given, in bytes 0, 1, 17, 25 and
32 of the entry, and the dimensions of a weight load 1 by 1. -/
def bulkReady (op flags : Byte) (len : Byte) : State :=
  { modRing 5 (fun r => { r with type := .bulk }) submitting with
    mem := [(0x1000, op)] ++ (if flags = 0 then [] else [(0x1001, flags)]) ++ [(0x1011, 0x30), (0x1019, 0x40), (0x1020, len)]
             ++ (if flags = 8 then [(0x1030, 1), (0x1034, 1)] else [])
    tsl := { lanes := [{ en := true, unitBytes := 4 }] } }

/-- The premises of a bulk descriptor that starts. -/
abbrev bulkStarts (s : State) : Prop :=
  let r := ringOf s 5
  let d := bulkOf (readBytes s (r.entry r.cons) 64)
  r.state = .enabled ∧ r.type = .bulk ∧ r.used ≠ 0 ∧ s.hif.bulk = [] ∧ serves s (r.entry r.cons) 64 false = true ∧ bulkCheck s d = none
    ∧ bulkRoom (ringOf s r.linked.toNat).capacity d = none ∧ ringTakes s r.linked.toNat (max 1 (bulkPosts d)) = true ∧ d.len ≠ 0

/-- The descriptor's list lies on a stack in FAILING. -/
abbrev bulkUnread (s : State) : Bool :=
  let r := ringOf s 5
  let d := bulkOf (readBytes s (r.entry r.cons) 64)
  bdList d && touchesFailing (modRing r.linked.toNat (fun q => { q with reserved := q.reserved + max 1 (bulkPosts d) })
    (modRing 5 (fun r => { r with cons := r.cons + 1 }) s)) d.src (32 * d.len) false

/-- `bulkReady` with a list of one entry at 0x3000, on stack 2, which is in FAILING. -/
def listFailing : State := { bulkReady 1 4 1 with hms := { hbm := [{}, {}, { state := .failing }] } }

theorem witness_BulkWork :
    (∃ s : State, let r := ringOf s 5; bulkStarts s ∧ bulkUnread s = false ∧ (bulkOf (readBytes s (r.entry r.cons) 64)).op = 1
        ∧ bdWeights (bulkOf (readBytes s (r.entry r.cons) 64)) = false)
      ∧ (∃ s : State, let r := ringOf s 5; bulkStarts s ∧ bulkUnread s = false ∧ (bulkOf (readBytes s (r.entry r.cons) 64)).op = 3)
      ∧ (∃ s : State, let r := ringOf s 5; bulkStarts s ∧ bulkUnread s = false ∧ (bulkOf (readBytes s (r.entry r.cons) 64)).op = 2)
      ∧ (∃ s : State, let r := ringOf s 5; bulkStarts s ∧ bulkUnread s = false ∧ (bulkOf (readBytes s (r.entry r.cons) 64)).op = 1
          ∧ bdWeights (bulkOf (readBytes s (r.entry r.cons) 64)) = true)
      ∧ (∃ s : State, let r := ringOf s 5; bulkStarts s ∧ bulkUnread s = true ∧ (bulkOf (readBytes s (r.entry r.cons) 64)).op = 1
          ∧ bdWeights (bulkOf (readBytes s (r.entry r.cons) 64)) = false)
      ∧ (∃ (s : State) (k : BulkJob), s.hif.bulk.find? (fun j => j.ring = 5) = some k) :=
  ⟨⟨bulkReady 1 0 4, by decide +kernel⟩, ⟨bulkReady 3 0 4, by decide +kernel⟩, ⟨bulkReady 2 0 4, by decide +kernel⟩,
    ⟨bulkReady 1 8 32, by decide +kernel⟩, ⟨listFailing, by decide +kernel⟩, ⟨{ idle with hif := { bulk := [{ ring := 5 }] } }, _, rfl⟩⟩

theorem witness_BulkPort :
    (∃ (s : State) (speed : BitVec 3) (width mps : BitVec 4), s.msc.strapPcieOff = false ∧ s.msc.mode ≠ .off ∧ s.msc.resetting = none
        ∧ 1 ≤ speed.toNat ∧ speed.toNat ≤ 5 ∧ width.toNat = 8 ∧ mps.toNat ≤ 2)
      ∧ (∃ s : State, s.msc.strapPcieOff = true) :=
  ⟨⟨idle, 5, 8, 2, by decide +kernel⟩, { idle with msc := { strapPcieOff := true } }, rfl⟩

/-! ### Witnesses: the optical engine -/

/-- `lit .warm` in every arcade, with stall 0 as `st`, serving logical stall 0, and work in the engine as `p`. -/
def engine (st : Stall) (p : Psr) (s : State) : State :=
  { withStall 0 { st with logical := some 0 } s with psr := p }

theorem witness_StallOperations :
    (∃ s : State, servedBy s 0 = some 0 ∧ running s = true ∧ held s = false)
      ∧ (∃ s : State, servedBy s 0 = some 0 ∧ (stallAt s 0).loading = true)
      ∧ (∃ s : State, servedBy s 0 = some 0 ∧ running s = true ∧ held s = false ∧ (stallAt s 0).shadow.valid = true ∧ (stallAt s 0).loading = false
          ∧ (stallAt s 0).front.valid = false)
      ∧ (∃ s : State, servedBy s 0 = some 0 ∧ running s = true ∧ held s = false ∧ (stallAt s 0).shadow.valid = true ∧ (stallAt s 0).front.valid = true
          ∧ (stallAt s 0).shadow.mset ≠ (stallAt s 0).front.mset)
      ∧ (∃ s : State, servedBy s 0 = some 0 ∧ running s = true ∧ held s = false ∧ (stallAt s 0).shadow.valid = false)
      ∧ (∃ s : State, servedBy s 0 = some 0 ∧ running s = true ∧ held s = false ∧ (stallAt s 0).front.valid = true)
      ∧ (∃ s : State, servedBy s 767 = none ∧ running s = true ∧ held s = false) :=
  ⟨⟨engine {} {} idle, by decide +kernel⟩, ⟨engine { loading := true } {} idle, by decide +kernel⟩,
    ⟨engine { shadow := { valid := true } } {} idle, by decide +kernel⟩,
    ⟨engine { shadow := { valid := true, mset := some .b }, front := { valid := true, mset := some .a } } {} idle, by decide +kernel⟩,
    ⟨engine {} {} idle, by decide +kernel⟩, ⟨engine { front := { valid := true } } {} idle, by decide +kernel⟩,
    ⟨withStall 790 { state := .retired } (engine {} {} { idle with stalls := [{}] }), by decide +kernel⟩⟩

theorem witness_LoadAborts :
    ∃ s : State, running s = true ∧ held s = false ∧ servedBy s 0 = some 0 ∧ (stallAt s 0).state = .loaded ∧ (stallAt s 0).aborts = 1 :=
  ⟨engine { state := .loaded, aborts := 1 } {} idle, by decide +kernel⟩

theorem witness_ReconstructionInverts :
    ∃ (m : MSet) (x : Int) (r : Nat), -(setProduct m : Int) ≤ 2 * x ∧ 2 * x < setProduct m ∧ r < (setModuli m).getLastD 1
      ∧ r ≠ ((setModuli m).map (fun k => (x % (k : Int)).toNat)).getLastD 0 :=
  ⟨.a, -1, 0, by decide +kernel⟩

theorem witness_PlanesAndAccumulators :
    (∃ (a : Acc) (v : Int) (rest : List Acc), inRange32 (a.value + v) = true ∧ a :: rest ≠ [])
      ∧ (∃ (a : Acc) (v : Int), inRange32 (a.value + v) = false)
      ∧ (∃ (accs : List Acc) (v : Int), accs.any (fun a => a.slot = 1 ∧ a.task = 0 ∧ a.vec = 0 ∧ a.out = 0) = false ∧ inRange32 v = true) :=
  ⟨⟨{ value := 2147483646 }, 1, [], by decide +kernel⟩, ⟨{ value := 2147483647 }, 1, by decide +kernel⟩, ⟨[], -2147483648, by decide +kernel⟩⟩

/-- A flight of the task of `busy`, over no stall and over one whose front hold has no tile. -/
def flown : Flight := { slot := 1 }
def strayed : Flight := { slot := 1, stalls := [(0, {})] }

theorem witness_PassesAndReplays :
    (∃ (p : PassEntry) (l : Nat) (t : Tile) (g : Graph) (s : State), p.stalls = [(l, t)] ∧ graphAt s t.slot = some g
        ∧ taskReady s t.slot t.task = true ∧ (taskAt g t.task).kind = kPassGroup)
      ∧ (∃ (f : Flight) (s : State), s.psr.flights = [f] ∧ (flightRecon f).all (fun r => reconOk r.2.2) = true)
      ∧ (∃ (f : Flight) (s : State), running s = true ∧ held s = false ∧ s.seq.fallow = false ∧ s.psr.optWait = [f]
          ∧ (graphAt s f.slot).isSome = true ∧ flightInFront s f = true)
      ∧ (∃ (f : Flight) (s : State), running s = true ∧ held s = false ∧ s.seq.fallow = false ∧ s.psr.optWait = [f]
          ∧ (graphAt s f.slot).isSome = true ∧ flightInFront s f = false)
      ∧ (∃ (f : Flight) (s : State), s.psr.queue0 = [f] ∧ f.replay = true)
      ∧ (∃ (f : Flight) (s : State), running s = true ∧ held s = false ∧ replaysPending s = [f])
      ∧ (∃ (t : Nat) (s : State), s.seq.replayHold = some t ∧ (replaysPending s).any (fun f => decide (f.deadline ≤ s.seq.work)) = false)
      ∧ (∃ (s : State) (e : AlmanacEntry), running s = true ∧ held s = false ∧ (servedBy s 0).isSome = true
          ∧ s.seq.page.entries.find? (fun e => decide (e.op = 4) && decide (e.unit = 0) && decide (e.start ≤ epochWork s)
              && decide (epochWork s < e.start + e.len)) = some e)
      ∧ (∃ (t : Nat) (s : State), s.seq.substHold = some t) :=
  let lit (p : Psr) : State := engine {} p (busy {})
  ⟨⟨{ stalls := [(0, { slot := 1 })] }, 0, { slot := 1 }, oneTask { kind := kPassGroup }, busy { kind := kPassGroup }, by decide +kernel⟩,
    ⟨{}, engine {} { flights := [{}] } idle, by decide +kernel⟩, ⟨flown, lit { optWait := [flown] }, by decide +kernel⟩,
    ⟨strayed, lit { optWait := [strayed] }, by decide +kernel⟩,
    ⟨{ replay := true }, engine {} { queue0 := [{ replay := true }] } idle, by decide +kernel⟩,
    ⟨{}, engine {} { optWait := [{}] } idle, by decide +kernel⟩, ⟨5, { idle with seq := { replayHold := some 5 } }, by decide +kernel⟩,
    ⟨{ engine {} {} idle with seq := { page := { entries := [{ op := 4, len := 1 }] } } }, { op := 4, len := 1 }, by decide +kernel⟩,
    ⟨5, { idle with seq := { substHold := some 5 } }, rfl⟩⟩

/-- Of an image header that is empty no collective descriptor is read. -/
theorem collOf_empty (s : State) (g : Graph) (t : Nat) (h : g.header = []) : collOf s g t = [] := by
  unfold collOf
  dsimp only
  rw [h]
  split <;> simp

theorem witness_EngineEntries :
    (∃ (g : Graph) (s : State), s.Acts 1 0 g ∧ (taskAt g 0).kind = kLutGemv ∧ operandStatus s g (taskAt g 0) = Status.ok ∧ (taskAt g 0).d0 ≠ 0
        ∧ (taskAt g 0).d0.toNat ≤ sliceColumns (max 1 (taskAt g 0).d2.toNat))
      ∧ (∃ (g : Graph) (s : State), s.Acts 1 0 g ∧ (taskAt g 0).kind = kPassGroup ∧ operandStatus s g (taskAt g 0) = Status.ok
          ∧ sumsReady s g 1 0 = true)
      ∧ (∃ (g : Graph) (s : State), s.Acts 1 0 g ∧ (taskAt g 0).kind = kHarvest ∧ operandStatus s g (taskAt g 0) = Status.ok)
      ∧ (∃ (g : Graph) (s : State), s.Acts 1 0 g ∧ (taskAt g 0).kind = kXlOp ∧ operandStatus s g (taskAt g 0) = Status.ok)
      ∧ (∃ (g : Graph) (s : State), let t := taskAt g 0; s.Acts 1 0 g ∧ t.kind = kTransfer ∧ tdList t = false ∧ t.d0 = 0)
      ∧ (∃ (g : Graph) (s : State), let t := taskAt g 0; s.Acts 1 0 g ∧ t.kind = kTransfer ∧ tdList t = false ∧ tdWeightLoad t = false
          ∧ rangeStatus s g t.a.toNat false t.d0.toNat = Status.ok ∧ rangeStatus s g t.res.toNat true t.d0.toNat = Status.ok ∧ t.d0 ≠ 0
          ∧ (taskWrite g t.res.toNat (taskBytes s g t.a.toNat t.d0.toNat) (addInput g.slot 0 (taskBytes s g t.a.toNat t.d0.toNat) s)).hif.egressFull = false)
      ∧ (∃ (g : Graph) (s : State), let t := taskAt g 0; s.Acts 1 0 g ∧ t.kind = kLaneIn
          ∧ rangeStatus s g t.res.toNat true (extentRes s t) = Status.ok)
      ∧ (∃ (g : Graph) (s : State), let t := taskAt g 0; s.Acts 1 0 g ∧ t.kind = kLaneOut
          ∧ rangeStatus s g t.a.toNat false (extentA s t) = Status.ok)
      ∧ (∃ (g : Graph) (s : State), let t := taskAt g 0; s.Acts 1 0 g ∧ t.kind = kCollective ∧ liveColl s = none ∧ t.d1 = 0)
      ∧ (∃ (g : Graph) (s : State), let t := taskAt g 0; let v := advanceTo (timeOfWork (s.seq.workAt + linkStart s 1 0) s) s
          s.Acts 1 0 g ∧ t.kind = kCollective ∧ liveColl s = none ∧ t.d1 ≠ 0 ∧ operandStatus v g t = Status.ok
          ∧ rangeStatus v g (commonAt (cdRecv (collOf s g 0))) true (s.ole.size.toNat * contribution t) = Status.ok) :=
  let shape (k : BitVec 8) : Task := { kind := k, a := 0x4000, b := 0x8000, res := 0xC000, d0 := 1, d1 := 1, d2 := 1 }
  let flat (k : BitVec 8) : Task := { shape k with d1 := 0 }
  ⟨⟨oneTask (shape kLutGemv), busy (shape kLutGemv), ⟨by decide +kernel, by decide +kernel⟩, by decide +kernel⟩,
    ⟨oneTask (shape kPassGroup), { busy (shape kPassGroup) with psr := { accs := [{ slot := 1, task := 0, vec := 0, out := 0, value := -5, chunks := 1 }] } },
      ⟨by decide +kernel, by decide +kernel⟩, by decide +kernel⟩,
    ⟨oneTask (shape kHarvest), busy (shape kHarvest), ⟨by decide +kernel, by decide +kernel⟩, by decide +kernel⟩,
    ⟨oneTask (shape kXlOp), busy (shape kXlOp), ⟨by decide +kernel, by decide +kernel⟩, by decide +kernel⟩,
    ⟨oneTask { flat kTransfer with d0 := 0 }, busy { flat kTransfer with d0 := 0 }, ⟨by decide +kernel, by decide +kernel⟩, by decide +kernel⟩,
    ⟨oneTask (flat kTransfer), busy (flat kTransfer), ⟨by decide +kernel, by decide +kernel⟩, by decide +kernel⟩,
    ⟨oneTask (shape kLaneIn), busy (shape kLaneIn), ⟨by decide +kernel, by decide +kernel⟩, by decide +kernel⟩,
    ⟨oneTask (shape kLaneOut), busy (shape kLaneOut), ⟨by decide +kernel, by decide +kernel⟩, by decide +kernel⟩,
    ⟨oneTask (flat kCollective), busy (flat kCollective), ⟨by decide +kernel, by decide +kernel⟩, by decide +kernel⟩,
    ⟨oneTask (shape kCollective), busy (shape kCollective), ⟨by decide +kernel, by decide +kernel⟩, by decide +kernel, by decide +kernel,
      by decide +kernel, by decide +kernel, by rw [collOf_empty _ _ _ rfl]; decide +kernel⟩⟩

/-- A byte to a host window finds the egress buffer full while the link is down (R347). -/
theorem taskByteOut_full {p k : Nat} {b : Byte} {s : State} (hp : place s p true = .host k) (hd : s.hif.plUp = false)
    (hn : egressSize ≤ s.hif.egress.length) : (taskByteOut p b s).hif.egressFull = true := by
  unfold taskByteOut
  split
  · assumption
  · rw [hp]
    simp [hd, Nat.not_lt.mpr hn]

/-- ACTIVE with a transfer of one byte to host window 0, which nothing has written before, and a full egress buffer. -/
def toHost : Task := { kind := kTransfer, a := 0x4000, res := 0x8000000000000000, d0 := 1 }
def fullBuffer : State :=
  { busy toHost with hif := { wins := [{ en := true, write := true, size := 13 }], egress := List.replicate 4194304 (0, 0) } }

theorem witness_EngineEntries_egress :
    fullBuffer.Acts 1 0 (oneTask toHost) ∧ tdList toHost = false ∧ tdWeightLoad toHost = false
      ∧ rangeStatus fullBuffer (oneTask toHost) 0x4000 false 1 = Status.ok
      ∧ rangeStatus fullBuffer (oneTask toHost) 0x8000000000000000 true 1 = Status.ok
      ∧ ∀ bs, (taskWrite (oneTask toHost) 0x8000000000000000 [0] (addInput 1 0 bs fullBuffer)).hif.egressFull = true := by
  refine ⟨⟨by decide +kernel, by decide +kernel⟩, by decide +kernel, by decide +kernel, by decide +kernel, by decide +kernel, fun bs => ?_⟩
  have h : (taskByteOut 0x8000000000000000 0 (addInput 1 0 bs fullBuffer)).hif.egressFull = true :=
    taskByteOut_full (k := 0) (by rfl) rfl (by show egressSize ≤ (List.replicate 4194304 (0, (0 : Byte))).length; rw [List.length_replicate]; exact Nat.le_refl _)
  have hp : physical (oneTask toHost) 0x8000000000000000 = some 0x8000000000000000 := by decide +kernel
  simp only [taskWrite, hp, taskByteStale, h, if_true]

theorem witness_EntriesWait : ∃ (slot task : Nat) (s : State), taskReady s slot task = false := ⟨1, 1, busy {}, by decide +kernel⟩

theorem witness_LanesTagsAndBatches :
    (∃ (s : State) (n : Nat) (u : OutUnit) (d : List Byte), (laneAt s n).out.find? (fun u => !u.done && !u.late) = some u ∧ u.data = some d)
      ∧ (∃ (s : State) (n : Nat) (u : OutUnit), (laneAt s n).out.find? (fun u => !u.done && !u.late) = some u ∧ u.data = none
          ∧ (laneAt s n).dropLate = false)
      ∧ (∃ (s : State) (g : Graph) (r : Run) (p : TagPrep), graphAt s 1 = some g ∧ g.run = some r
          ∧ r.tagWait.find? (fun p => p.task = 0) = some p)
      ∧ (∃ s : State, s.msc.running = true ∧ (ringOf s 5).batch ≠ [])
      ∧ (∃ (s : State) (b : Nat × Bool × Nat × List (List Byte)), s.msc.running = true ∧ (ringOf s 5).closed = [b]
          ∧ (ringOf s 5).state ≠ .disabled) :=
  let g : Graph := { slot := 1, run := some { tagWait := [{ task := 0 }] } }
  ⟨⟨{ idle with tsl := { lanes := [{ out := [{ data := some [1] }] }] } }, 0, _, [1], rfl, rfl⟩,
    ⟨{ idle with tsl := { lanes := [{ out := [{}] }] } }, 0, _, rfl, rfl, rfl⟩,
    ⟨{ idle with seq := { graphs := [g] } }, g, _, _, by decide +kernel, rfl, rfl⟩, ⟨withRing { batch := [[1]] } idle, by decide +kernel⟩,
    ⟨withRing { state := .enabled, closed := [(0, false, 0, [[1]])] } idle, _, rfl, rfl, by decide +kernel⟩⟩

/-! ### Witnesses: the links -/

/-- A collective of one INT8 value between modules 0 and 1, over port 0 and lane 0, whose descriptor is all zeros. -/
def collTask : Task := { kind := kCollective, a := 0x4000, res := 0xC000, d1 := 1, d2 := 1 }
def meshed (c : Coll) : State :=
  { busy collTask with ole := { coll := some c, lanes := [{ state := .active }], size := 2
                                ports := (List.range 4).map (fun p => { state := .up, peer := 1, peerPort := BitVec.ofNat 2 p }) } }

/-- The check blocks of a DATA, an IDLE, a RESEND_REQ and a SERVICE frame of 472 zero bytes, frame number and acknowledged number 0. -/
def zeroFrame (check : DWord) : LinkFrame := { payload := zeros 472, check := check }
def dataFrame : LinkFrame := zeroFrame 1152921508787684131
def idleFrame : LinkFrame := zeroFrame 2305843012599663250
def resendFrame : LinkFrame := zeroFrame 3458764517470572029
def serviceFrame : LinkFrame := zeroFrame 4611686021247490544

/-- The CRC's shift of one byte. -/
abbrev crcByte (c : Nat) (b : Byte) : Nat := crcShift 8 (c ^^^ b.toNat)

theorem zeros_crc0 : (zeros 59).foldl crcByte 4294967295 = 2798266487 := by decide +kernel
theorem zeros_crc1 : (zeros 59).foldl crcByte 2798266487 = 3385476334 := by decide +kernel
theorem zeros_crc2 : (zeros 59).foldl crcByte 3385476334 = 2212518565 := by decide +kernel
theorem zeros_crc3 : (zeros 59).foldl crcByte 2212518565 = 3886591064 := by decide +kernel
theorem zeros_crc4 : (zeros 59).foldl crcByte 3886591064 = 2032420844 := by decide +kernel
theorem zeros_crc5 : (zeros 59).foldl crcByte 2032420844 = 2767735681 := by decide +kernel
theorem zeros_crc6 : (zeros 59).foldl crcByte 2767735681 = 1636573301 := by decide +kernel
theorem zeros_crc7 : (zeros 59).foldl crcByte 1636573301 = 2721472556 := by decide +kernel

theorem zeros_add (m n : Nat) : zeros (m + n) = zeros m ++ zeros n := List.replicate_append_replicate.symm

/-- CRC-32C of a payload of zeros and four bytes. -/
theorem crc_zeros (h : List Byte) : crc32c (zeros 472 ++ h) = h.foldl crcByte 2721472556 ^^^ 0xFFFFFFFF := by
  show (zeros (59 + 59 + 59 + 59 + 59 + 59 + 59 + 59) ++ h).foldl crcByte 0xFFFFFFFF ^^^ 0xFFFFFFFF = _
  simp only [zeros_add, List.foldl_append, zeros_crc0, zeros_crc1, zeros_crc2, zeros_crc3, zeros_crc4, zeros_crc5, zeros_crc6, zeros_crc7]

/-- Whether such a frame is good depends on its check block alone. -/
theorem zeroFrame_good (check : DWord) (ty : Nat) : frameGood (zeroFrame check) ty
    = (((le 4 (check.toNat / 2 ^ 32)).foldl crcByte 2721472556 ^^^ 0xFFFFFFFF) == check.toNat % 2 ^ 32 && frameType check == ty) := by
  unfold frameGood zeroFrame
  have hl : (zeros 472).length = 472 := List.length_replicate
  simp only [crc_zeros, hl, beq_self_eq_true, Bool.and_self, Bool.true_and]

theorem dataFrame_good : frameGood dataFrame 1 = true := by rw [dataFrame, zeroFrame_good]; decide +kernel
theorem idleFrame_good : frameGood idleFrame 2 = true := by rw [idleFrame, zeroFrame_good]; decide +kernel
theorem resendFrame_good : frameGood resendFrame 3 = true := by rw [resendFrame, zeroFrame_good]; decide +kernel
theorem serviceFrame_good : frameGood serviceFrame 4 = true := by rw [serviceFrame, zeroFrame_good]; decide +kernel

/-- The frames that a phase of zeros brings from module 1. -/
theorem fibre_arriving {s : State} (c : Coll) (g : Graph) (p : Nat) (hg : g.header = []) (hs : s.ole.switch = 0)
    (hi : s.ole.index = 0) (hp : p < 4) (hf : fibreOf s 0 p = some (1, p)) : arriving s c g p = some (1, 0) := by
  unfold arriving collDescOf
  rw [collOf_empty _ _ _ hg]
  have h3 : ∀ i, phaseEntry s [] c.phase i = zeros 32 := fun i => by simp [phaseEntry, fit, zeros]
  have hq : ∀ q, q < 4 → phasePort (zeros 32) q = none := by decide
  have hv : ∀ q, q < 4 → phaseSend (zeros 32) q = 0 := by decide
  have hw : ∀ q, q < 4 → (switchPort 0 q).isSome = false := by decide
  have h4 : pathEnd s [] c.phase 2 0 p = some (1, p) := by
    unfold pathEnd
    simp only [hf, h3, hq p hp]
  simp only [hs, hi, hw p hp]
  show (match pathEnd s _ c.phase 2 0 p with | none => none | some (j, q) => _) = _
  simp only [h4, h3, hv p hp]
  decide

theorem witness_LinkFrames :
    (∃ (f : LinkFrame) (s : State), (linkLane s f.lane).state = .active ∧ frameGood f 1 = true ∧ s.ole.coll = none)
      ∧ (∃ (f : LinkFrame) (s : State) (c : Coll) (g : Graph) (q : Nat × Nat), (linkLane s f.lane).state = .active ∧ frameGood f 1 = true
          ∧ liveColl (takeReport f { s with ole := { s.ole with cur := { s.ole.cur with frames := s.ole.cur.frames + 1 } } }) = some (c, g)
          ∧ arriving (takeReport f { s with ole := { s.ole with cur := { s.ole.cur with frames := s.ole.cur.frames + 1 } } }) c g
              (linkLane s f.lane).port.toNat = some q
          ∧ frameNumber (lowestMissing c (linkLane s f.lane).port.toNat) (frameSeq f.check) < framesOf c.size
          ∧ c.got.contains ((linkLane s f.lane).port.toNat, frameNumber (lowestMissing c (linkLane s f.lane).port.toNat) (frameSeq f.check)) = false)
      ∧ (∃ (f : LinkFrame) (s : State), (linkLane s f.lane).state = .active ∧ frameGood f 1 = false ∧ frameGood f 3 = false ∧ s.ole.coll = none
          ∧ f.lane < s.ole.lanes.length)
      ∧ (∃ (f : LinkFrame) (s : State), (linkLane s f.lane).state = .active ∧ frameGood f 2 = true ∧ s.ole.reconf = [])
      ∧ (∃ (f : LinkFrame) (s : State) (c : Coll) (g : Graph) (x : Nat × Nat × Nat), (linkLane s f.lane).state = .active
          ∧ frameGood f 3 = true ∧ liveColl s = some (c, g)
          ∧ c.sent.find? (fun x => decide (x.1 = (linkLane s f.lane).port.toNat)
              && decide (x.2.2 = frameNumber (acked c (linkLane s f.lane).port.toNat) (frameAck f.check))) = some x
          ∧ c.fails = [] ∧ (linkLane s x.2.1).state = .active)
      ∧ (∃ (f : LinkFrame) (s : State) (c : Coll) (g : Graph) (x : Nat × Nat × Nat), (linkLane s f.lane).state = .active
          ∧ frameGood f 3 = true ∧ liveColl s = some (c, g)
          ∧ c.sent.find? (fun x => decide (x.1 = (linkLane s f.lane).port.toNat)
              && decide (x.2.2 = frameNumber (acked c (linkLane s f.lane).port.toNat) (frameAck f.check))) = some x
          ∧ c.fails = [(x.2.1, frameNumber (acked c (linkLane s f.lane).port.toNat) (frameAck f.check), 3)] ∧ (linkLane s x.2.1).state = .active)
      ∧ (∃ (f : LinkFrame) (s : State), (linkLane s f.lane).state = .active ∧ frameGood f 4 = true ∧ f.pausing = true)
      ∧ (∃ (f : LinkFrame) (s : State), (linkLane s f.lane).state = .active ∧ frameGood f 4 = true ∧ f.pausing = false) :=
  let s := meshed { slot := 1, size := 1 }
  let quiet : State := { idle with ole := { lanes := [{ state := .active }] } }
  ⟨⟨dataFrame, quiet, rfl, dataFrame_good, rfl⟩,
    ⟨dataFrame, s, _, _, (1, 0), rfl, dataFrame_good, rfl, fibre_arriving _ _ 0 rfl rfl rfl (by decide) rfl, by decide +kernel, by decide +kernel⟩,
    ⟨{ dataFrame with sync := false }, quiet, rfl, by decide +kernel, by decide +kernel, rfl, by decide⟩,
    ⟨idleFrame, quiet, rfl, idleFrame_good, rfl⟩,
    ⟨resendFrame, meshed { slot := 1, size := 1, sent := [(0, 0, 0)] }, _, _, (0, 0, 0), rfl, resendFrame_good, rfl, by decide +kernel, rfl, rfl⟩,
    ⟨resendFrame, meshed { slot := 1, size := 1, sent := [(0, 0, 0)], fails := [(0, 0, 3)] }, _, _, (0, 0, 0), rfl, resendFrame_good, rfl,
      by decide +kernel, by decide +kernel, rfl⟩,
    ⟨{ serviceFrame with pausing := true }, quiet, rfl, serviceFrame_good, rfl⟩, ⟨serviceFrame, quiet, rfl, serviceFrame_good, rfl⟩⟩

theorem witness_LanesAndPorts :
    (∃ (s : State) (l : Nat), (linkLane s l).pauseUntil = none ∧ s.ole.coll = none ∧ l < s.ole.lanes.length ∧ (linkLane s l).state = .active)
      ∧ (∃ (s : State) (l : Nat), (linkLane s l).pauseUntil = none ∧ (linkLane s l).state ≠ .active)
      ∧ (∃ (s : State) (l t : Nat), (linkLane s l).pauseUntil = some t) ∧ (∃ (s : State) (l : Nat), 8 < (linkLane s l).epochFails)
      ∧ (∃ (s : State) (p : Nat), p < 4 ∧ running s = true ∧ (portOf s p).state = .dark)
      ∧ (∃ (s : State) (p : Nat), p < 4 ∧ (portOf s p).state ≠ .dark)
      ∧ (∃ (s : State) (p : Nat) (o : TrainObs), (portOf s p).state = .training
          ∧ trainReason s ((List.range 32).filter (fun l =>
              decide (steeredBy s.ole.restLanes s l = p) && decide ((linkLane s l).state ≠ .dark) && !o.failed.contains l)) o = none)
      ∧ (∃ (s : State) (p : Nat) (o : TrainObs) (r : BitVec 2), (portOf s p).state = .training ∧ (portOf s p).peer ≠ o.index
          ∧ trainReason s ((List.range 32).filter (fun l =>
              decide (steeredBy s.ole.restLanes s l = p) && decide ((linkLane s l).state ≠ .dark) && !o.failed.contains l)) o = some r) :=
  let one (x : LinkLane) : State := { idle with ole := { lanes := [x] } }
  let training : State := { idle with ole := { lanes := [{ state := .active }], ports := [{ state := .training }], restLanes := [0, 0, 0, 0] } }
  ⟨⟨one { state := .active }, 0, rfl, rfl, by decide, rfl⟩, ⟨one { state := .dropped }, 0, rfl, by decide⟩, ⟨one { pauseUntil := some 9 }, 0, 9, rfl⟩,
    ⟨one { epochFails := 9 }, 0, by decide⟩, ⟨idle, 3, by decide +kernel⟩,
    ⟨training, 0, by decide +kernel⟩, ⟨training, 0, { size := 1, index := 1, rtt := 2400 }, by decide +kernel⟩,
    ⟨training, 0, { size := 1, index := 1, rtt := 2401 }, 2, by decide +kernel⟩⟩


/-- The frames such a phase lacks: those of its four ports that it has not got. -/
theorem fibre_missing {s : State} (c : Coll) (g : Graph) (hg : g.header = []) (hs : s.ole.switch = 0) (hi : s.ole.index = 0)
    (hf : ∀ p, p < 4 → fibreOf s 0 p = some (1, p)) (hc : c.size = 1) :
    missingFrames s c g = (List.range 4).flatMap (fun p => ([0].filter (fun f => !c.got.contains (p, f))).map (fun f => (p, f))) := by
  have ha : ∀ p, p < 4 → arriving s c g p = some (1, 0) := fun p hp => fibre_arriving c g p hg hs hi hp (hf p hp)
  unfold missingFrames
  rw [hc]
  show List.flatMap _ [0, 1, 2, 3] = _
  simp only [List.flatMap_cons, ha 0 (by decide), ha 1 (by decide), ha 2 (by decide), ha 3 (by decide)]
  rfl

/-- The collective with every frame of its phase, and the one that lacks them all. -/
def whole : Coll := { slot := 1, size := 1, got := [(0, 0), (1, 0), (2, 0), (3, 0)] }
def lacking : Coll := { slot := 1, size := 1 }

theorem meshed_fibre (c : Coll) : ∀ p, p < 4 → fibreOf (meshed c) 0 p = some (1, p) := by
  intro p hp
  match p, hp with
  | 0, _ => rfl
  | 1, _ => rfl
  | 2, _ => rfl
  | 3, _ => rfl

/-- In a link hold since 7 ns. -/
def holding (c : Coll) : State := { meshed c with seq := { (meshed c).seq with linkHold := some 7 } }

/-- What such a phase lacks by the frames it has got. -/
abbrev lacks (c : Coll) : List (Nat × Nat) :=
  (List.range 4).flatMap (fun p => ([0].filter (fun f => !c.got.contains (p, f))).map (fun f => (p, f)))

theorem missing_by (c : Coll) (g : Graph) (t : Nat) (hg : g.header = []) (hc : c.size = 1) :
    missingFrames (advanceTo t (sendRequests (meshed c))) c g = lacks c := fibre_missing c g hg rfl rfl (meshed_fibre c) hc
theorem missing_held (c : Coll) (g : Graph) (hg : g.header = []) (hc : c.size = 1) : missingFrames (holding c) c g = lacks c :=
  fibre_missing c g hg rfl rfl (meshed_fibre c) hc
theorem missing_held_by (c : Coll) (g : Graph) (t : Nat) (hg : g.header = []) (hc : c.size = 1) : missingFrames (advanceTo t (holding c)) c g = lacks c :=
  fibre_missing c g hg rfl rfl (meshed_fibre c) hc

theorem witness_CollectivePhases :
    (∃ (s : State) (t : Nat), s.ole.steering = some t ∧ s.ole.reconf = [])
      ∧ (∃ (s : State) (t l k : Nat), s.ole.steering = some t ∧ s.ole.reconf = [(l, k)])
      ∧ (∃ (s : State) (c : Coll) (g : Graph), liveColl s = some (c, g) ∧ c.waiting = false ∧ s.seq.linkHold = none
          ∧ missingFrames (advanceTo (windowEnd s c g) (sendRequests s)) c g = [])
      ∧ (∃ (s : State) (c : Coll) (g : Graph) (m : Nat × Nat), liveColl s = some (c, g) ∧ c.waiting = false ∧ s.seq.linkHold = none
          ∧ (missingFrames (advanceTo (windowEnd s c g) (sendRequests s)) c g).getLast? = some m)
      ∧ (∃ (s : State) (t : Nat) (c : Coll) (g : Graph), s.seq.linkHold = some t ∧ liveColl s = some (c, g) ∧ phaseComplete s c g = true)
      ∧ (∃ (s : State) (t : Nat), s.seq.linkHold = some t ∧ s.ole.coll = none)
      ∧ (∃ (s : State) (t : Nat) (c : Coll) (g : Graph), let u := advanceTo (t + 1000000) s
          s.seq.linkHold = some t ∧ liveColl u = some (c, g) ∧ phaseComplete u c g = false) :=
  ⟨⟨{ idle with ole := { steering := some 5 } }, 5, rfl, rfl⟩, ⟨{ idle with ole := { steering := some 5, reconf := [(31, 7)] } }, 5, 31, 7, rfl, rfl⟩,
    ⟨meshed whole, whole, _, rfl, rfl, rfl, (missing_by whole _ _ rfl rfl).trans (by decide +kernel)⟩,
    ⟨meshed lacking, lacking, _, (3, 0), rfl, rfl, rfl, (congrArg _ (missing_by lacking _ _ rfl rfl)).trans (by decide +kernel)⟩,
    ⟨holding whole, 7, whole, _, rfl, rfl, (congrArg _ (missing_held whole _ rfl rfl)).trans (by decide +kernel)⟩,
    ⟨{ idle with seq := { linkHold := some 7 } }, 7, rfl, rfl⟩,
    ⟨holding lacking, 7, lacking, _, rfl, rfl, (congrArg _ (missing_held_by lacking _ _ rfl rfl)).trans (by decide +kernel)⟩⟩

/-! ### Witnesses: epochs, memory errors, light, calibration -/

/-- An epoch open up to 50 us, its slot not begun. -/
def opened : State := { idle with seq := { boundary := 50000 } }

theorem witness_EpochCourse :
    (∃ s : State, running s = true ∧ s.seq.boundary = 0)
      ∧ (∃ s : State, running s = true ∧ s.seq.fallow = true ∧ s.seq.short = false)
      ∧ (∃ s : State, running s = true ∧ s.seq.boundary ≠ 0 ∧ s.seq.fallow = false ∧ s.seq.overrun = false)
      ∧ (∃ s : State, running s = true ∧ awaitsSlot s = true ∧ s.seq.overrun = false ∧ slotTime s + 5000 ≤ nextBoundary s)
      ∧ (∃ s : State, running s = true ∧ awaitsSlot s = true ∧ s.seq.overrun = true)
      ∧ (∃ s : State, running s = true ∧ s.seq.boundary ≠ 0 ∧ s.seq.fallow = true ∧ s.seq.short = true)
      ∧ (∃ (s : State) (t : Nat), running s = true ∧ s.tsl.lenNext = s.tsl.len ∧ nextBoundary s ≤ t
          ∧ t < nextBoundary s + s.tsl.len.toNat * 50000)
      ∧ (∃ (s : State) (t : Nat), running s = true ∧ s.tsl.lenNext = s.tsl.len ∧ nextBoundary s ≤ t
          ∧ nextBoundary s + s.tsl.len.toNat * 50000 ≤ t) :=
  ⟨⟨idle, by decide +kernel⟩, ⟨{ opened with seq := { boundary := 50000, fallow := true } }, by decide +kernel⟩,
    ⟨opened, by decide +kernel⟩, ⟨{ opened with tsl := { hallTime := 44999 } }, by decide +kernel⟩,
    ⟨{ opened with seq := { boundary := 50000, overrun := true } }, by decide +kernel⟩,
    ⟨{ opened with seq := { boundary := 50000, fallow := true, short := true } }, by decide +kernel⟩,
    ⟨opened, 50000, by decide +kernel⟩, ⟨opened, 50000 + 200000000, by decide +kernel⟩⟩

theorem witness_MemoryErrors :
    (∃ (s : State) (a i : Nat), a < hbmEnd ∧ (ringOf s i).state = .enabled ∧ s.hif.evRingEn = false)
      ∧ (∃ (s : State) (n : Nat), n < 10 ∧ stackState s n = .inService
          ∧ 16 ≤ ((s.hms.hbm.getD n {}).persist.filter (fun e => s.seq.epoch < e + 16)).length)
      ∧ (∃ (s : State) (n : Nat), n < 10 ∧ stackState s n = .inService ∧ n < s.hms.hbm.length)
      ∧ (∃ (s : State) (n : Nat), n < 12 ∧ s.lms.failed.toNat.testBit n = false ∧ s.lms.tier ≠ .failed) :=
  ⟨⟨submitting, hbmEnd - 1, 5, by decide +kernel⟩,
    ⟨{ busy {} with hms := { hbm := [{ persist := List.replicate 16 0 }] }, seq := { epoch := 15 } }, 0, by decide +kernel⟩,
    ⟨busy {}, 9, by decide +kernel⟩, ⟨busy {}, 11, by decide +kernel⟩⟩

/-- Sources 0 and 1, and 48 and 49, in given states. -/
def pair (x y : SrcState) : State :=
  modSource 49 (fun z => { z with state := y }) (modSource 48 (fun z => { z with state := x })
    (modSource 1 (fun z => { z with state := y }) (modSource 0 (fun z => { z with state := x }) idle)))

theorem witness_Sources :
    (∃ (s : State) (i : Nat), i < 48 ∧ (sourceAt s i).state = .locking)
      ∧ (∃ (s : State) (i : Nat), (sourceAt s i).state = .locking ∧ s.cls.tripped = [] ∧ partnerOf i ≠ i
          ∧ (sourceAt s (partnerOf i)).state = .locked)
      ∧ (∃ (s : State) (a i : Nat), running s = true ∧ a < 24 ∧ s.cls.dark = [] ∧ s.cls.tripped = [] ∧ servingOf s a = some i
          ∧ (sourceAt s (partnerOf i)).state = .warm)
      ∧ (∃ (s : State) (a t i : Nat), s.cls.tripped.find? (fun q => q.1 = a) = some (a, t)
          ∧ [2 * a, 2 * a + 1].find? (fun i => (sourceAt s i).state = .locked) = some i)
      ∧ (∃ (s : State) (a t i : Nat), s.cls.tripped.find? (fun q => q.1 = a) = some (a, t)
          ∧ [2 * a, 2 * a + 1].find? (fun i => (sourceAt s i).state = .locking) = some i)
      ∧ (∃ (s : State) (i : Nat), (sourceAt s i).due.isSome = true ∧ (sourceAt s i).state = .locked
          ∧ (sourceAt s (partnerOf i)).state = .serving)
      ∧ (∃ (s : State) (i : Nat), (sourceAt s i).state = .warm ∧ s.cls.tripped = [])
      ∧ (∃ (s : State) (i : Nat), 48 ≤ i ∧ (sourceAt s i).state = .serving ∧ (sourceAt s (partnerOf i)).state = .warm ∧ partnerOf i ≠ i) :=
  let tripped (s : State) : State := { s with cls := { s.cls with tripped := [(0, 4)] } }
  ⟨⟨pair .serving .locking, 1, by decide +kernel⟩, ⟨pair .locking .locked, 0, by decide +kernel⟩, ⟨pair .serving .warm, 0, 0, by decide +kernel⟩,
    ⟨tripped (pair .failed .locked), 0, 4, 1, by decide +kernel⟩, ⟨tripped (pair .failed .locking), 0, 4, 1, by decide +kernel⟩,
    ⟨modSource 1 (fun z => { z with due := some 1 }) (pair .serving .locked), 1, by decide +kernel⟩, ⟨pair .serving .warm, 1, by decide +kernel⟩,
    ⟨pair .serving .warm, 48, by decide +kernel⟩⟩

/-- The dies powered, each converter at the last input of its scan. -/
def scanning : State := { idle with tps := { groups := 63 }, cal := { scan := [511, 511, 511, 511] } }

theorem witness_Calibration :
    (∃ s : State, pairsSettled s = true ∧ s.cal.phase = 0 ∧ s.seq.graphs = [])
      ∧ (∃ (s : State) (o : CalObs), s.cal.phase = 1 ∧ o.slow = false) ∧ (∃ (s : State) (o : CalObs), s.cal.phase = 8 ∧ o.slow = false)
      ∧ (∃ (s : State) (n raw : Nat), 1688 ≤ n ∧ n < 2048 ∧ raw < 65536 ∧ diesPowered s = true ∧ s.cal.scan.getD (n % 4) 0 = n / 4)
      ∧ (∃ (s : State) (n raw : Nat), n < 816 ∧ raw < 65536 ∧ diesPowered s = true ∧ s.cal.scan.getD (n % 4) 0 = n / 4)
      ∧ (∃ (s : State) (n : Nat), (monOf s n).railed = 8 ∧ (monOf s n).faulted = false ∧ n < 816)
      ∧ (∃ (s : State) (z : Nat), (zoneAt s z).loop = true ∧ (zoneAt s z).calm = 64
          ∧ ((sensorAt s (zoneSensor z)).temp - (zoneAt s z).entryTemp).natAbs ≤ 48)
      ∧ (∃ (s : State) (z : Nat), (zoneAt s z).loop = true ∧ (zoneAt s z).calm = 64
          ∧ 48 < ((sensorAt s (zoneSensor z)).temp - (zoneAt s z).entryTemp).natAbs)
      ∧ (∃ (s : State) (g row : Nat), 4 ≤ (assoc (68 * g + row) s.cal.low).getD 0 ∧ (stallAt s g).weak.contains row = false) :=
  let cal (c : Cal) : State := { idle with cal := c }
  ⟨⟨{ idle with cls := { sources := List.replicate 56 { state := .serving } } }, by decide +kernel⟩, ⟨cal { phase := 1 }, {}, by decide +kernel⟩,
    ⟨cal { phase := 8 }, {}, by decide +kernel⟩, ⟨scanning, 2047, 65535, by decide +kernel⟩, ⟨{ scanning with cal := { scan := [0, 0, 0, 203] } }, 815, 65535, by decide +kernel⟩,
    ⟨setMon 815 { railed := 8 } idle, 815, by decide +kernel⟩,
    ⟨modSensor (zoneSensor 0) (fun x => { x with temp := 48 }) (modZone 0 (fun x => { x with loop := true, calm := 64 }) idle), 0, by decide +kernel⟩,
    ⟨modSensor (zoneSensor 0) (fun x => { x with temp := -49 }) (modZone 0 (fun x => { x with loop := true, calm := 64 }) idle), 0, by decide +kernel⟩,
    ⟨cal { low := [(68, 4)] }, 1, 0, by decide +kernel⟩⟩


/-! ### Witnesses: temperature, power, lifecycle, events, frames -/

theorem witness_Temperatures :
    (∃ (s : State) (i : Nat) (t : Int), i < 278 ∧ i < s.tps.sensors.length ∧ s.msc.mode = .idle ∧ domainPowered s (sensorDomain i) = true
        ∧ -640 ≤ t ∧ t ≤ 1000)
      ∧ (∃ (s : State) (i : Nat), i < 278 ∧ s.msc.mode ≠ .off ∧ domainPowered s (sensorDomain i) = true ∧ (sensorAt s i).valid = true)
      ∧ (∃ (s : State) (d t : Nat), (domainAt s d).level = 1 ∧ (domainAt s d).below.getD 0 none = some t ∧ now s ≤ t + 10000000
          ∧ t + 10000000 < 2 ^ 64)
      ∧ (∃ s : State, levelK (levelInForce s) < s.tps.k)
      ∧ (∃ (s : State) (d : Nat), d < 7 ∧ ((sensorsOf d).map (fun i => (sensorAt s i).fastUntil)).foldl max 0 ≠ 0) :=
  let warm : State := { idle with tps := { groups := 63 } }
  ⟨⟨warm, 277, -640, by decide +kernel⟩, ⟨modSensor 277 (fun x => { x with valid := true }) warm, 277, by decide +kernel⟩,
    ⟨modDomain 6 (fun x => { x with level := 1, below := [some 3, none, none] }) warm, 6, 3, by decide +kernel⟩,
    ⟨{ idle with tps := { k := 3 } }, by decide +kernel⟩, ⟨modSensor 277 (fun x => { x with fastUntil := 100 }) warm, 6, by decide +kernel⟩⟩

theorem witness_InputPower :
    (∃ s : State, s.msc.mode = .off ∧ s.tps.pwrEn = true ∧ s.tps.offLatch = false)
      ∧ (∃ (s : State) (group : Nat), s.msc.mode ≠ .off ∧ 1 ≤ group ∧ group ≤ 5 ∧ s.tps.groups.toNat.testBit group = true)
      ∧ (∃ s : State, sequencing s = true ∧ s.msc.mode = .standby) :=
  ⟨⟨{ ({} : State) with msc := { mode := .off } , tps := { pwrEn := true } }, by decide +kernel⟩, ⟨busy {}, 5, by decide +kernel⟩, ⟨{}, by decide +kernel⟩⟩

theorem witness_PowerTelemetry :
    let mean (s : State) : Nat := figureP1s 960 (meanPower (lastSecond s))
    (∃ s : State, s.msc.mode ≠ .off ∧ 940 < mean s ∧ mean s ≤ 985)
      ∧ (∃ s : State, s.msc.mode ≠ .off ∧ 985 < mean s ∧ since s s.tps.sustAt 50000000 = true)
      ∧ (∃ s : State, s.msc.mode ≠ .off ∧ mean s ≤ 940 ∧ s.tps.excursion = false ∧ s.tps.calmAt + 100000000 ≤ now s
          ∧ since s s.tps.fallAt 100000000 = true ∧ s.tps.isoLost = false ∧ 0 < s.tps.lp)
      ∧ (∃ s : State, s.msc.mode ≠ .off ∧ s.tps.excursion = true)
      ∧ (∃ s : State, s.msc.mode ≠ .off ∧ s.tps.excursion = true ∧ s.tps.lp = 3 ∧ s.tps.overAt = none) :=
  ⟨⟨{ idle with tps := { msPower := (9409999, 1), secPower := [(9410001, 1)] } }, by decide +kernel⟩,
    ⟨{ idle with tps := { msPower := (9860000, 1) } }, by decide +kernel⟩,
    ⟨{ idle with tps := { msPower := (9409999, 1), lp := 1 }, tsl := { hallTime := 100000000 } }, by decide +kernel⟩,
    ⟨{ idle with tps := { excursion := true } }, by decide +kernel⟩,
    ⟨{ idle with tps := { excursion := true, lp := 3 } }, by decide +kernel⟩⟩

theorem witness_ActionsAndResets :
    (∃ (s : State) (a : Action), s.msc.action = some a) ∧ (∃ s : State, s.msc.mode = .idle ∧ resetLight s = true)
      ∧ (∃ s : State, s.msc.mode = .standby ∧ s.msc.resetHeld = false ∧ s.msc.resetting = none ∧ s.msc.running = true)
      ∧ (∃ (s : State) (source : Nat), s.msc.resetting = some (.reset .function source)) :=
  ⟨⟨{ idle with msc := { mode := .idle, action := some .powerOff } }, _, rfl⟩, ⟨idle, by decide +kernel⟩,
    ⟨{ ({} : State) with msc := { running := true } }, by decide +kernel⟩,
    ⟨{ idle with msc := { mode := .idle, resetting := some (.reset .function 3) } }, 3, rfl⟩⟩

theorem witness_ColdReset : ∃ s : State, s.msc.mode = .idle ∧ resetLight s = true ∧ s.cal.sysRun = none ∧ s.mem ≠ [] ∧ s.seq.graphs ≠ [] :=
  ⟨{ idle with mem := [(5, 1)], seq := { graphs := [oneTask {}] } }, by decide +kernel⟩

theorem witness_Watchdogs :
    (∃ (s : State) (block half : Nat), running s = true ∧ unitExists block half = true ∧ s.msc.units.contains (block, half) = false)
      ∧ (∃ s : State, s.msc.running = true ∧ s.msc.mode = .idle ∧ s.msc.wdTimes = [] ∧ (fwOf s 0).trial = none)
      ∧ (∃ s : State, s.msc.running = true ∧ s.msc.mode = .idle ∧ 2 ≤ (s.msc.wdTimes.filter (fun t => decide (now s < t + 60000000000))).length)
      ∧ (∃ (s : State) (who : Origin), s.msc.running = false ∧ s.msc.waiting = [(who, .powerOff)]) :=
  ⟨⟨idle, 11, 3, by decide +kernel⟩, ⟨up, by decide +kernel⟩, ⟨{ up with msc := { mode := .idle, wdTimes := [0, 0] } }, by decide +kernel⟩,
    ⟨{ idle with msc := { mode := .idle, running := false, waiting := [(holder, .powerOff)] } }, holder, by decide +kernel⟩⟩

/-- RECOVERY with the input up, and window 0 open to host memory or not. -/
def recovering (open0 : Bool) : State :=
  { ({} : State) with
    msc := { mode := .recovery, rcvState := 1 }, tps := { groups := 63 }
    hif := { plUp := true, wins := [{ en := open0, read := true, write := true, size := 13 }] } }

theorem witness_FirmwareAndJournal :
    (∃ (s : State) (h : Held), s.msc.held = [h] ∧ s.msc.running = true) ∧ (∃ (s : State) (u : UpdSession), s.msc.update = some u)
      ∧ (∃ (s : State) (c t : Nat), (fwOf s c).trial = some t)
      ∧ (∃ s : State, s.msc.mode = .recovery ∧ s.msc.rcvState = 1 ∧ serves s windowBase 1344 false = false)
      ∧ (∃ s : State, s.msc.mode = .recovery ∧ s.msc.rcvState = 1 ∧ serves s windowBase 1344 false = true
          ∧ serves s (windowBase + 4096) (manifestOf (readBytes s windowBase 1344)).length.toNat false = true)
      ∧ (∃ s : State, s.msc.mode = .recovery ∧ s.msc.rcvState = 4 ∧ s.msc.resetting = none)
      ∧ (∃ (s : State) (g : Nat × Nat), s.msc.jGap = some g) :=
  ⟨⟨{ up with msc := { up.msc with held := [{}] } }, {}, rfl, rfl⟩, ⟨updating {}, _, rfl⟩,
    ⟨modFw 1 (fun f => { f with trial := some 60000000000 }) up, 1, 60000000000, by decide +kernel⟩, ⟨recovering false, by decide +kernel⟩,
    ⟨recovering true, by decide +kernel⟩, ⟨{ ({} : State) with msc := { mode := .recovery, rcvState := 4 } }, by decide +kernel⟩,
    ⟨{ up with msc := { up.msc with jGap := some (1, 2) } }, _, rfl⟩⟩

theorem witness_EventFrame :
    (∃ (s : State) (i : EvInfo), recRule .squ 3 = .edge ∧ (s.ev.read .squ).toNat.testBit 3 = true ∧ s.hif.evRingEn = false ∧ i.graph = none) :=
  ⟨{ idle with ev := { squ := 8 } }, {}, by decide +kernel⟩

theorem witness_EventRecorded :
    ∃ (c : Src) (b : Nat) (i : EvInfo) (s : State), s.hif.evRingEn = true ∧ i.graph = none
      ∧ recorded c b ((s.ev.read c).toNat.testBit b) = true
      ∧ (ringOf s s.hif.evRing.toNat).type = .event ∧ (ringOf s s.hif.evRing.toNat).gapFirst = none ∧ ringTakes s s.hif.evRing.toNat 1 = true
      ∧ ringServes s s.hif.evRing.toNat = true ∧ (ringOf s s.hif.evRing.toNat).intEn = false :=
  ⟨.hms, 2, {}, withRing { type := .event, state := .enabled, size := 3, baseLo := 0x1000 } { busy {} with hif := { evRingEn := true, evRing := 5 } },
    by decide +kernel⟩

theorem apertureRead_next (off : BitVec 34) (len : Nat) (s : State) : ∃ t, exec (.apertureRead off len) s = .next t := by
  show ∃ t, execApertureRead off len s = _
  unfold execApertureRead
  repeat' split
  all_goals exact ⟨_, rfl⟩

theorem witness_RowsThatStoreNothing :
    ∃ s : State, s.hif.evRingEn = false ∧ apertureOpen s = true ∧ ∃ t, exec (.apertureRead 0x40000000 4) s = .next t :=
  ⟨windowed, by decide +kernel, by decide +kernel, apertureRead_next _ _ _⟩

/-! ### Ill-formed commands: one for each check -/

theorem test_wf_refuses : ([
    .status (bareReq 65536), .sessionOpen (bareReq 1616) [] 0 0 (zeros 1568), .sessionOpen (bareReq 1616) (zeros 32) 0 0 [], .sessionConfirm (req 1280) [1],
    .attest (req 32) [], .regWrite (req 0) 0 (List.replicate 350 0), .memWrite (req 0) 0 (zeros 1397), .laneUnit (req 0) 0 0 (zeros 1397),
    .syscalFull (.cp (req 24) 0 [0]) {}, .updateBegin (req 1344) [], .updateData (req 1408) 0 (zeros 1405), .sessionConfirmTimeout 0, .sessionIdleTimeout 9,
    .eventCopyDrop 0, .apertureRead 0x3FFFFFFFF 2, .apertureWrite 0x3FFFFFFFF [1, 2], .shadowLoad 768 {} .a false, .shadowLoadComplete 768, .swap 768,
    .pass {}, .pass { stalls := [(768, {})] }, .opticalReplay [{ stall := 768 }], .rampFill 768, .lgeEntry 256 0, .xlEntry 0 65536, .squEntry 256 0,
    .transferEntry 256 0, .linkEntry 256 0, .laneEntry 256 0, .holdRefresh 816 false, .refreshLate 816 true, .fallowSlotBegin { checkFails := [816] },
    .shortFallowSlot { lanePasses := [32] }, .laneUnitPresent 48, .tagRecordWrite 256 0, .parityReread (2 ^ 64) .bulkPort 1,
    .persistentError (2 ^ 64) .bulkPort, .stackFail 10, .stackCaParityLoss 10, .lpddrPackageFail 12, .frameData {}, .frameIdle { lane := 32 },
    .frameResendReq {}, .frameService { names := [32] } ] : List Instr).all (fun i => !i.wf) = true := by decide +kernel

theorem test_wf_refuses_more : ([
    .laneLockLoss 32, .laneDiscardLimit 32, .lanePauseEnd 32, .portLightArrival 4, .portTrainingDone 4 {}, .lossOfSignal 4, .aprProbe 4,
    .portPowerMonitorTrip 4, .spareLocked 56, .sourceLockTimeout 56, .lightTrip 24, .lightHoldEnd 24, .spareLockFail 24, .sourceWorn 56,
    .spareSourceFail 56, .linkSourceFail 47, .monitorAdcSample 2048 0, .monitorAdcSample 0 65536, .monitorInputFault 2048, .zoneLoopExit 192,
    .weakRow 816 0, .weakRow 0 68, .sensorSample 278 0, .thermalLevelLeave 7, .fastSamplingEnd 7, .sensorInvalid 278, .hardwareTrip 278 0, .railFault 6,
    .railDroop 6, .unitWatchdogExpiry 7 0, .unitWatchdogExpiry 11 4, .trialEnd 5, .unrecognisedControlFrame { plen := 65536 } ]
      : List Instr).all (fun i => !i.wf) = true := by decide +kernel

theorem test_wf_takes : ([.status (bareReq 65535), .swap 767, .stackFail 9, .linkSourceFail 48, .unitWatchdogExpiry 11 3, .pass { stalls := [(0, {})] },
    .frameData dataFrame] : List Instr).all Instr.wf = true := by decide +kernel

/-! ### One step -/

/-- The next state of an outcome, or the state after reset. -/
def nextOf : Out → State
  | .next t => t
  | _ => {}

/-- One step from `s` with `i` in front. -/
def stepOn (i : Instr) (s : State) : State := nextOf (step { s with pending := [i, .pwrEnAssert] })

/-- First in, first out: one command leaves the queue, and the next stays. -/
theorem test_step_queue : (stepOn .reverseCurrent idle).pending = [.pwrEnAssert] := by decide +kernel
/-- R361: from T3 the skip count falls by 6, and to the lower level's value at last. -/
theorem test_throttle_26 : (stepOn .throttleStepDown { idle with tps := { k := 32 } }).tps.k = 26 := by decide +kernel
theorem test_throttle_0 : (stepOn .throttleStepDown { idle with tps := { k := 2 } }).tps.k = 0 := by decide +kernel
/-- R361: 100 us of hall time for each. -/
theorem test_throttle_time : (stepOn .throttleStepDown { idle with tps := { k := 32 } }).tsl.hallTime = 100000 := by decide +kernel
/-- R50: a swap exchanges front and shadow; the old front is not valid as a shadow. -/
theorem test_swap : let s := stepOn (.swap 0) (engine { front := { valid := true, edition := 4 }, shadow := { valid := true, edition := 5 } } {} idle)
    ((stallAt s 0).front.edition, (stallAt s 0).shadow.edition, (stallAt s 0).shadow.valid) = (5, 4, false) := by decide +kernel
/-- R51: without a valid shadow hold the column drivers are off. -/
theorem test_swap_invalid : (stallAt (stepOn (.swap 0) (engine {} {} idle)) 0).driveOff = true := by decide +kernel
/-- R333: a doorbell sets PROD to what it carries. -/
theorem test_doorbell : (ringOf (stepOn (.hifDoorbell .bar4 5 3) submitting) 5).prod = 3 := by decide +kernel
/-- R345: the aperture stores the byte where its segment leads: segment 1 on the first GiB. -/
theorem test_aperture_write : (stepOn (.apertureWrite 0x40000010 [7]) windowed).mem = [(16, 7)] := by decide +kernel
/-- A write of the byte that an unlisted address reads as lists nothing (log 2). -/
theorem test_aperture_write_zero : (stepOn (.apertureWrite 0x40000010 [0]) { windowed with mem := [(16, 7)] }).mem = [] := by decide +kernel
/-- R347: with the link down a byte to a host window waits, and is sent when the link comes up. -/
theorem test_egress : ((taskWrite (oneTask {}) 0x8000000000000000 [7] { windowed with hif := { wins := [{ en := true, write := true, size := 13 }] } }).hif.egress,
    (sendEgress { idle with hif := { egress := [(5, 1), (5, 7)] } }).hostMem) = ([(0, 7)], [(5, 7)]) := by decide +kernel
/-- R379: P1s is the mean of the samples, to 1.5 % plus 2 W. -/
theorem test_p1s : [0, 1321, 1322].map (fun p =>
    (stepOn (.p1sUpdate p) { idle with tps := { msPower := (30000000, 2), secPower := [(9000000, 1)] } }).tps.p1s) = [1300, 1321, 1300] := by
  decide +kernel
/-- R343: the link down shows in HIF_PL_UP. -/
theorem test_pcie_down : (stepOn .pcieLinkDown { idle with hif := { plUp := true } }).hif.plUp = false := by decide +kernel
/-- R282: eight samples in a row at an end of the range count as railed. -/
theorem test_railed : (monOf (stepOn (.monitorAdcSample 2047 65535) (setMon 2047 { railed := 7 } scanning)) 2047).railed = 8 := by decide +kernel
theorem test_not_railed : (monOf (stepOn (.monitorAdcSample 2047 65534) (setMon 2047 { railed := 7 } scanning)) 2047).railed = 0 := by decide +kernel

/-! ### Operations, against values worked by hand -/

/-- The worked chunk of 03 under set A: residues 24, 12, 0 and tally 20 give -1,600, inside the bounds. -/
theorem test_worked_chunk : reconstruct .a [24, 12, 0, 20] 15 (-144) 112 = { value := -1600, tally := false, range := false } := by decide +kernel
/-- The same with channel 1 one level high: -3,456, a tally failure and a range fault. -/
theorem test_worked_fault : reconstruct .a [24, 16, 0, 20] 15 (-144) 112 = { value := -3456, tally := true, range := true } := by decide +kernel
/-- The worked INT3 chunk under set D with a fault that the tally passes: 1,336, a range fault alone. -/
theorem test_worked_range : reconstruct .d [1, 8, 10, 10] 7 (-256) 0 = { value := 1336, tally := false, range := true } := by decide +kernel
/-- R83 on the worked chunk: the levels of channels 0 and 1 and of the tally. -/
theorem test_worked_levels : (combine 29 [26, 10, 7, 1], combine 31 [30, 14, 13, 11], combine 27 [22, 6, 1, 18]) = (24, 12, 20) := by decide +kernel
/-- R88: one past 2,147,483,647 is not added. -/
theorem test_acc_range : accAdd 0 0 0 0 1 1 [{ value := 2147483647 }] = none := by decide +kernel
/-- CRC-32C of the nine digits, its published check value. -/
theorem test_crc32c : crc32c [0x31, 0x32, 0x33, 0x34, 0x35, 0x36, 0x37, 0x38, 0x39] = 0xE3069283 := by decide +kernel
/-- R104, R105: 1.5 times 2 is 3; 1 plus 2^-24 is a tie, which goes away from zero; the largest number doubled is infinite. -/
theorem test_fp : (fpMul 0x3FC00000 0x40000000, fpAdd 0x3F800000 0x33800000, fpMul 0x7F7FFFFF 0x40000000) = (0x40400000, 0x3F800001, 0x7F800000) := by
  decide +kernel
/-- R238, R254: low bits 5 beyond 16,380 are 16,389; low bits 16,380 beyond 16,389 are 16,380. -/
theorem test_frame_number : (frameNumber 16380 5, frameNumber 16389 16380) = (16389, 16380) := by decide +kernel
/-- R359: the skip counts of the levels. -/
theorem test_levels : (List.range 4).map levelK = [0, 8, 16, 32] := by decide +kernel
/-- R360: at k = 26, 26 of the first 64 periods are skipped. -/
theorem test_skipped : (skippedIn 26 64, skippedIn 32 3) = (26, 1) := by decide +kernel

end Sys2Proof.Tests
end

section
/-! SUPPORT. A register access that its path lets through: what a write and a read of it do, which function of the register map a write
reaches, and what a read of a low word latches. -/

namespace Sys2Proof.Machine

/-! ### Accesses that their path lets through (R345, R433 to R435) -/

/-- An open write reaches the register map, but for the doorbell by which RECOVERY starts an install (R430). -/
theorem pathWrite_of_opens {s : State} {p : Path} {off : Nat} (w : Word) (h : s.Opens p off true) (hoff : off ≠ 0xCA0000) :
    pathWrite p off w s = writeWord off w s := by
  have hgate : gateOf s p off (some w).isSome = .take := h
  unfold pathWrite access
  rw [hgate]
  simp [performAccess, hoff]

/-- An open read over BAR0 answers with the word that source 0 reads, and has its effect (R438). -/
theorem access_read_of_opens {s : State} {be : BitVec 4} {off : Nat} (h : s.Opens (.bar0 be) off false) :
    access (.bar0 be) off none s = emit (.data (le 4 (readAs s 0 off).toNat)) (readEffect 0 off s) := by
  have hgate : gateOf s (.bar0 be) off (none : Option Word).isSome = .take := h
  unfold access
  rw [hgate]
  rfl

/-! ### Repeated registers -/

/-- The offset of repeated register `i` has index `i`. -/
theorem indexOf_register {base stride n i : Nat} (hstride : 0 < stride) (hi : i < n) :
    indexOf base stride n (base + stride * i) = some i := by
  have hlt : stride * i < stride * n := Nat.mul_lt_mul_of_pos_left hi hstride
  simp [indexOf, hlt, hstride]

/-- An offset below the first or past the last of repeated registers has no index. -/
theorem indexOf_outside {base stride n o : Nat} (h : o < base ∨ base + stride * n ≤ o) : indexOf base stride n o = none := by
  unfold indexOf
  rw [if_neg]
  omega

/-! ### What the map does with a write -/

/-- The event-status registers of the map: each offset clears its own source (R443). -/
theorem writeWordObs_eventOffset (src : Fin 17) (w hw : Word) (obs : SysObs) (s : State) :
    writeWordObs (eventOffset src.val) w hw obs s = clearEvents (srcOf src.val) w hw s := by
  fin_cases src <;> rfl

/-- Block 12 at the offset of an interrupt enable, which lies between its single registers and the vectors (R443). -/
theorem writeHif_irqEn (src : Fin 17) (w hw : Word) (s : State) :
    writeHif (0x0880 + 4 * src.val) w hw s = writeIrq (some src.val) w s := by
  have hsrc := src.isLt
  have hgate : indexOf 0x0200 4 64 (0x0880 + 4 * src.val) = none := indexOf_outside (by omega)
  have haper : indexOf 0x0300 4 16 (0x0880 + 4 * src.val) = none := indexOf_outside (by omega)
  have hen : indexOf 0x0880 4 17 (0x0880 + 4 * src.val) = some src.val := indexOf_register (by decide) hsrc
  unfold writeHif
  simp (disch := omega) only [hgate, haper, hen, if_neg]

/-- A write of an interrupt enable (R444). -/
theorem writeWord_irqEn (src : Fin 17) (w : Word) (s : State) :
    writeWord (0xC00880 + 4 * src.val) w s = writeIrq (some src.val) w s := by
  have hblock : (0xC00880 + 4 * src.val) / 0x100000 = 12 := by omega
  have hoff : (0xC00880 + 4 * src.val) % 0x100000 = 0x0880 + 4 * src.val := by omega
  rw [← writeHif_irqEn src w 0 s]
  simp only [writeWord, writeWordObs, hblock, hoff]

/-- HIF_IRQ_CTRL (R444). -/
theorem writeWord_irqCtrl (w : Word) (s : State) : writeWord 0xC00804 w s = writeIrq none w s := rfl

/-- MSC_CTRL (R442). -/
theorem writeWord_mscCtrl (w : Word) (s : State) : writeWord 0xF00004 w s = writeMscCtrl w s := rfl

/-- SQU_SCALE_SEL (R135). -/
theorem writeWord_scaleSel (w : Word) (s : State) :
    writeWord 0x400020 w s = { s with squ := { s.squ with selDie := bit w 31, selIndex := BitVec.ofNat 13 (bits w 12 0) } } := rfl

/-- An LED pattern that R442 lists is taken. -/
theorem writeMscCtrl_of_listed {w : Word} (h : bits w 30 28 ≤ 4) (s : State) :
    writeMscCtrl w s = { s with msc := { s.msc with ledOverride := bit w 31, ledPattern := BitVec.ofNat 3 (bits w 30 28) } } :=
  if_neg (Nat.not_lt.mpr h)

/-- An LED pattern that R442 does not list is an invalid encoding (R437). -/
theorem writeMscCtrl_of_unlisted {w : Word} (h : 4 < bits w 30 28) (s : State) : writeMscCtrl w s = raise .msc 7 {} s := if_pos h

/-! ### What a read captures and latches (R135, R438) -/

/-- A read of SQU_SCALE_DATA0 captures the selected scale register. -/
theorem readEffect_capture (src : Nat) (s : State) : (readEffect src 0x400024 s).squ.capture = scaleWords s := by
  simp [readEffect]

/-- A read puts the high words of its register in front of the source's other latches. -/
theorem readEffect_latches (src off : Nat) (s : State) :
    (readEffect src off s).hif.latches = (latchedBy off).map (fun h => (src, h, readWord s h))
      ++ s.hif.latches.filter (fun l => !(decide (l.1 = src) && (latchedBy off).contains l.2.1)) := by
  unfold readEffect
  dsimp only
  split <;> rfl

/-- A source whose first latch is of the word at `off` reads that latch there. -/
theorem readAs_of_first_latch {t : State} {src off : Nat} {w : Word} {rest : List (Nat × Nat × Word)}
    (h : t.hif.latches = (src, off, w) :: rest) : readAs t src off = w := by
  simp [readAs, h]

/-- While the latches stay as a read of the low word left them, its source reads the high word of that moment. -/
theorem readAs_of_latched {src low high : Nat} {s t : State} (hlow : latchedBy low = [high])
    (hkept : t.hif.latches = (readEffect src low s).hif.latches) : readAs t src high = readWord s high := by
  rw [readEffect_latches, hlow] at hkept
  exact readAs_of_first_latch hkept

end Sys2Proof.Machine
end

section
/-! SUPPORT. The rows of the host's registers: W1C_CLEAR, HIF_IRQ_WRITE, PLAIN_REGISTER_WRITE and the two reads, each over an open path. -/

namespace Sys2Proof.Machine

variable {p : Path} {s : State}

theorem exec_w1cClear_of_opens {src : Fin 17} (w hw : Word) (h : s.Opens p (eventOffset src.val) true) :
    exec (.w1cClear p src w hw) s = .next (clearEvents (srcOf src.val) w hw s) := by
  have hgate : gateOf s p (eventOffset src.val) true = .take := h
  rw [← writeWordObs_eventOffset src w hw {} s]
  show execW1cClear p src w hw s = _
  simp only [execW1cClear, hgate]

theorem exec_hifIrqWrite_source_of_opens {src : Fin 17} (w : Word) (h : s.Opens p (0xC00880 + 4 * src.val) true) :
    exec (.hifIrqWrite p (some src) w) s = .next (writeIrq (some src.val) w s) := by
  rw [← writeWord_irqEn, ← pathWrite_of_opens w h (by omega)]
  rfl

theorem exec_hifIrqWrite_control_of_opens (w : Word) (h : s.Opens p 0xC00804 true) :
    exec (.hifIrqWrite p none w) s = .next (writeIrq none w s) := by
  rw [← writeWord_irqCtrl, ← pathWrite_of_opens w h (by decide)]
  rfl

/-- A plain write acts on the register whose word its offset lies in. -/
theorem exec_plainRegisterWrite_of_opens {off : BitVec 24} (w : Word) (h : s.Opens p (off.toNat / 4 * 4) true)
    (hoff : off.toNat / 4 * 4 ≠ 0xCA0000) : exec (.plainRegisterWrite p off w) s = .next (writeWord (off.toNat / 4 * 4) w s) := by
  rw [← pathWrite_of_opens w h hoff]
  rfl

theorem exec_scaleDataRead_of_opens {be : BitVec 4} (h : s.Opens (.bar0 be) 0x400024 false) :
    exec (.scaleDataRead (.bar0 be)) s = .next (emit (.data (le 4 (readAs s 0 0x400024).toNat)) (readEffect 0 0x400024 s)) := by
  rw [← access_read_of_opens h]
  rfl

theorem exec_latchedLowRead_of_opens {be : BitVec 4} {off : BitVec 24} (h : s.Opens (.bar0 be) (off.toNat / 4 * 4) false) :
    exec (.latchedLowRead (.bar0 be) off) s
      = .next (emit (.data (le 4 (readAs s 0 (off.toNat / 4 * 4)).toNat)) (readEffect 0 (off.toNat / 4 * 4) s)) := by
  rw [← access_read_of_opens h]
  rfl

theorem exec_mscCtrlWrite_of_opens (w : Word) (h : s.Opens p 0xF00004 true) :
    exec (.plainRegisterWrite p 0xF00004 w) s = .next (writeMscCtrl w s) :=
  exec_plainRegisterWrite_of_opens (off := 0xF00004) w h (by decide)

end Sys2Proof.Machine

namespace Sys2Proof.Proofs

open Sys2Proof.Machine

/-- Settles O26: each row over an open path is its function of the register map, and a latch stands in front of what its source reads. -/
theorem hostRegisters : Obligations.HostRegisters := by
  unfold Obligations.HostRegisters
  intro p s
  refine ⟨?w1c, ?irqEn, ?irqCtrl, ?ledListed, ?ledUnlisted, ?scaleSel, ?scaleData, ?read, ?latched⟩
  case w1c => exact fun _ w hw h => exec_w1cClear_of_opens w hw h
  case irqEn => exact fun _ w h => exec_hifIrqWrite_source_of_opens w h
  case irqCtrl => exact fun w h => exec_hifIrqWrite_control_of_opens w h
  case ledListed =>
    intro w h hlisted
    rw [exec_mscCtrlWrite_of_opens w h, writeMscCtrl_of_listed hlisted]
  case ledUnlisted =>
    intro w h hunlisted
    rw [exec_mscCtrlWrite_of_opens w h, writeMscCtrl_of_unlisted hunlisted]
  case scaleSel =>
    intro w h
    rw [← writeWord_scaleSel]
    exact exec_plainRegisterWrite_of_opens (off := 0x400020) w h (by decide)
  case scaleData => exact fun be h => ⟨exec_scaleDataRead_of_opens h, readEffect_capture 0 s⟩
  case read => exact fun be off h => exec_latchedLowRead_of_opens h
  case latched => exact fun _ _ _ _ hlow hkept => readAs_of_latched hlow hkept

end Sys2Proof.Proofs
end

section
/-! SUPPORT. What a byte of memory reads as hangs on: the parts of the state that decide its place, and the cells. What leaves these parts
leaves every byte; a store to memory that serves changes the cells at its own addresses only. -/

namespace Sys2Proof.Machine

/-! ### What decides the place of a byte and its value (R216, R227 to R232, R346, R384) -/

/-- The parts of the state that memory rests on: both memories, all that decides what an access meets, the resident graphs and the weight
regions. The rest stands at reset. -/
def State.stored (s : State) : State :=
  { mem := s.mem, hostMem := s.hostMem, regions := s.regions, hms := s.hms, lms := s.lms, seq := { graphs := s.seq.graphs }
    hif := { wins := s.hif.wins }, tps := { groups := s.tps.groups }, msc := { mode := s.msc.mode } }

theorem place_stored (s : State) (a : Nat) (write : Bool) : place s.stored a write = place s a write := rfl
theorem readByte_stored (s : State) (a : Nat) : readByte s.stored a = readByte s a := rfl

variable {s t : State} {a n : Nat} {write : Bool}

theorem place_of_stored (h : t.stored = s.stored) (a : Nat) (write : Bool) : place t a write = place s a write := by
  rw [← place_stored t, h, place_stored]

theorem readByte_of_stored (h : t.stored = s.stored) (a : Nat) : readByte t a = readByte s a := by
  rw [← readByte_stored t, h, readByte_stored]

theorem readBytes_of_stored (h : t.stored = s.stored) (a n : Nat) : readBytes t a n = readBytes s a n := by
  induction n generalizing a with
  | zero => rfl
  | succ n ih => simp only [readBytes, readByte_of_stored h, ih]

theorem placesOf_of_stored (h : t.stored = s.stored) (a : Nat) (write : Bool) (n : Nat) :
    placesOf t a write n = placesOf s a write n := by
  induction n generalizing a with
  | zero => rfl
  | succ n ih => simp only [placesOf, place_of_stored h, ih]

theorem touches_of_stored (h : t.stored = s.stored) (a n : Nat) (write : Bool) (p : Place → Bool) :
    touches t a n write p = touches s a n write p := by
  simp only [touches, placesOf_of_stored h]

theorem memRefusal_of_stored (h : t.stored = s.stored) (a n limit : Nat) (write : Bool) :
    memRefusal t a n limit write = memRefusal s a n limit write := by
  simp only [memRefusal, touches_of_stored h]

/-! ### HBM3E that serves (R218, R227) -/

/-- Without a spill map a byte of HBM3E is served at its own address, or not at all. -/
theorem place_hbm_of_serves (hhbm : a < hbmEnd) (hspill : s.hms.spill = none) (hserves : placeServes (place s a write) = true) :
    place s a write = .device a := by
  unfold place at hserves ⊢
  rw [if_pos hhbm] at hserves ⊢
  split at hserves
  · cases hserves
  next hup =>
    rw [if_neg hup]
    split at hserves
    · rfl
    · cases hserves
    · simp [hspill, placeServes] at hserves

/-- Reads and writes of HBM3E meet the same place. -/
theorem place_hbm_read_eq_write (hhbm : a < hbmEnd) : place s a false = place s a true := by
  simp only [place, if_pos hhbm]

/-- Each of the `n` bytes from `a` is served at its own address. -/
def ServedInPlace (s : State) (a n : Nat) (write : Bool) : Prop := ∀ b, a ≤ b → b < a + n → place s b write = .device b

theorem ServedInPlace.first (h : ServedInPlace s a (n + 1) write) : place s a write = .device a := h a (by omega) (by omega)
theorem ServedInPlace.rest (h : ServedInPlace s a (n + 1) write) : ServedInPlace s (a + 1) n write := fun b ha hb =>
  h b (by omega) (by omega)

/-- A range of HBM3E no byte of which is refused is served in place. -/
theorem servedInPlace_hbm (hhbm : a + n ≤ hbmEnd) (hspill : s.hms.spill = none)
    (h : touches s a n write (fun q => !placeServes q) = false) : ServedInPlace s a n write := by
  induction n generalizing a with
  | zero => exact fun b ha hb => by omega
  | succ n ih =>
    simp only [touches, placesOf, List.any_cons, Bool.or_eq_false_iff, Bool.not_eq_false'] at h
    obtain ⟨hfirst, hrest⟩ := h
    intro b ha hb
    rcases Nat.eq_or_lt_of_le ha with rfl | ha
    · exact place_hbm_of_serves (by omega) hspill hfirst
    · exact ih (by omega) hrest b ha (by omega)

/-- A range of HBM3E that a write is served in, a read is served in. -/
theorem ServedInPlace.read (hhbm : a + n ≤ hbmEnd) (h : ServedInPlace s a n true) : ServedInPlace s a n false := fun b ha hb => by
  rw [place_hbm_read_eq_write (by omega), h b ha hb]

/-! ### Bytes stored in cells -/

/-- The cells with bytes `bs` at the keys from `a` up. -/
def Memory.setBytes (a : Nat) : List Byte → List Host.Cell → List Host.Cell
  | [], m => m
  | b :: r, m => Memory.setBytes (a + 1) r (Memory.set a b m)

/-- A key outside those stored keeps its byte. -/
theorem Memory.get_setBytes_outside {b : Nat} (bs : List Byte) {m : List Host.Cell} (hm : Memory.wf m = true)
    (hb : b < a ∨ a + bs.length ≤ b) : Memory.get b (Memory.setBytes a bs m) = Memory.get b m := by
  induction bs generalizing a m with
  | nil => rfl
  | cons v r ih =>
    simp only [List.length_cons] at hb
    rw [Memory.setBytes, ih (Memory.wf_set _ _ _ hm) (by omega), Memory.get_set _ _ _ _ hm, if_neg (by omega)]

/-- Other cells change the place of no byte. -/
theorem place_setMem (m : List Host.Cell) (s : State) (a : Nat) (write : Bool) : place { s with mem := m } a write = place s a write := rfl

/-- A byte that is served in place reads the cell there. -/
theorem readByte_of_device (h : place s a false = .device a) : readByte s a = Memory.get a s.mem := by rw [readByte, h]

/-- Bytes stored where they are served in place are stored in the cells of their own addresses. -/
theorem writeBytes_of_servedInPlace {bs : List Byte} (h : ServedInPlace s a bs.length true) :
    writeBytes a bs s = { s with mem := Memory.setBytes a bs s.mem } := by
  induction bs generalizing a s with
  | nil => rfl
  | cons v r ih =>
    have hwrite : writeByte a v s = { s with mem := Memory.set a v s.mem } := by rw [writeByte, h.first]
    have hrest : ServedInPlace { s with mem := Memory.set a v s.mem } (a + 1) r.length true := h.rest
    rw [writeBytes, hwrite, ih hrest]
    rfl

/-- Bytes in the cells of addresses that are served in place read back. -/
theorem readBytes_setBytes {bs : List Byte} {m : List Host.Cell} (hm : Memory.wf m = true) (h : ServedInPlace s a bs.length false) :
    readBytes { s with mem := Memory.setBytes a bs m } a bs.length = bs := by
  induction bs generalizing a m with
  | nil => rfl
  | cons v r ih =>
    have hset : Memory.wf (Memory.set a v m) = true := Memory.wf_set _ _ _ hm
    have hplace : place { s with mem := Memory.setBytes (a + 1) r (Memory.set a v m) } a false = .device a := h.first
    have hfirst : readByte { s with mem := Memory.setBytes (a + 1) r (Memory.set a v m) } a = v := by
      rw [readByte_of_device hplace, Memory.get_setBytes_outside r hset (by omega), Memory.get_set _ _ _ _ hm, if_pos rfl]
    rw [Memory.setBytes, List.length_cons, readBytes, hfirst, ih hset h.rest]

/-- A byte that does not serve reads 0. -/
theorem readByte_of_not_serves (h : placeServes (place s a false) = false) : readByte s a = 0 := by
  unfold readByte
  split
  next hplace => simp [hplace, placeServes] at h
  next hplace => simp [hplace, placeServes] at h
  · rfl

/-- A byte of HBM3E whose cell stays reads as before. -/
theorem readByte_setMem_of_get {m : List Host.Cell} (hhbm : a < hbmEnd) (hspill : s.hms.spill = none)
    (hget : Memory.get a m = Memory.get a s.mem) : readByte { s with mem := m } a = readByte s a := by
  have hplace := place_setMem m s a false
  cases hserves : placeServes (place s a false) with
  | true =>
    have hdevice : place s a false = .device a := place_hbm_of_serves hhbm hspill hserves
    rw [readByte_of_device hdevice, readByte_of_device (hplace.trans hdevice), hget]
  | false => rw [readByte_of_not_serves hserves, readByte_of_not_serves (hplace ▸ hserves)]

end Sys2Proof.Machine

namespace Sys2Proof.Proofs

open Sys2Proof.Machine

/-- Settles O33: the store lists each byte in the cell of its own address, and no other part of the state changes. -/
theorem storedBytesReadBack : Obligations.StoredBytesReadBack := by
  unfold Obligations.StoredBytesReadBack
  intro a data s ⟨hmem, _⟩ hhbm hspill hserves
  have hwrite : ServedInPlace s a data.length true := servedInPlace_hbm hhbm hspill hserves
  rw [writeBytes_of_servedInPlace hwrite]
  refine ⟨readBytes_setBytes hmem (hwrite.read hhbm), fun b hb houtside => ?_, rfl, rfl, rfl⟩
  exact readByte_setMem_of_get hb hspill (Memory.get_setBytes_outside data hmem houtside)

end Sys2Proof.Proofs
end

section
/-! SUPPORT. The operations that leave what memory rests on: settings, replays, the end of sessions, and an event that has no ring to be
recorded in. -/

namespace Sys2Proof.Machine

/-! ### Operations that store nothing -/

/-- `f` applied to each element stores nothing if it stores nothing once. -/
theorem each_stored {α : Type} (l : List α) (f : α → State → State) (h : ∀ a s, (f a s).stored = s.stored) (s : State) :
    (each l f s).stored = s.stored := by
  induction l generalizing s with
  | nil => rfl
  | cons a r ih => rw [each, ih, h]

@[simp] theorem emit_stored (o : Output) (s : State) : (emit o s).stored = s.stored := rfl
@[simp] theorem advanceTo_stored (t : Nat) (s : State) : (advanceTo t s).stored = s.stored := rfl
@[simp] theorem endSession_stored (n : Nat) (s : State) : (endSession n s).stored = s.stored := rfl

@[simp] theorem refreshHold_stored (g : Nat) (shadow : Bool) (s : State) : (refreshHold g shadow s).stored = s.stored := rfl

@[simp] theorem queueReplay_stored (f : Flight) (s : State) : (queueReplay f s).stored = s.stored := by
  unfold queueReplay
  refine each_stored _ _ (fun q u => ?_) s
  unfold queueOne
  split <;> rfl

@[simp] theorem sendVector_stored (v : Nat) (s : State) : (sendVector v s).stored = s.stored := by
  unfold sendVector
  split
  · rfl
  · split <;> rfl

/-- With no byte held back for the host, link-up sends it none. -/
theorem sendEgress_stored {s : State} (h : s.hif.egress = []) : (sendEgress s).stored = s.stored := by
  unfold sendEgress
  rw [h]
  rfl

/-! ### An event without an event ring (R341, R427) -/

theorem setBit_stored (c : Src) (b : Nat) (s : State) : (setBit c b s).stored = s.stored := by
  unfold setBit irqIfPending
  dsimp only
  split
  · rfl
  · split
    · rw [sendVector_stored]
      rfl
    · rfl

/-- Of the MSC's state memory rests on the mode alone. -/
theorem setMsc_stored {m : Msc} {s : State} (h : m.mode = s.msc.mode) : ({ s with msc := m } : State).stored = s.stored := by
  simp only [State.stored, h]

theorem journalOne_stored (head tail : List Byte) (s : State) : (journalOne head tail s).stored = s.stored :=
  (setMsc_stored rfl).trans (setMsc_stored rfl)

theorem journalEvent_stored (number : Nat) (head tail : List Byte) (s : State) : (journalEvent number head tail s).stored = s.stored := by
  unfold journalEvent
  extract_lets second _ u
  have hsecond : u.stored = s.stored := by
    show (if _ then s else _ : State).stored = _
    split
    · rfl
    · exact setMsc_stored rfl
  split
  · exact (setMsc_stored rfl).trans ((journalOne_stored head tail u).trans hsecond)
  · exact (setMsc_stored rfl).trans hsecond

theorem journalRecord_stored (c : Src) (b number : Nat) (e : List Byte) (i : EvInfo) (s : State) :
    (journalRecord c b number e i s).stored = s.stored := by
  unfold journalRecord
  split
  · exact journalEvent_stored _ _ _ s
  · rfl

theorem eventCopies_stored (c : Src) (e : List Byte) (s : State) : (eventCopies c e s).stored = s.stored := by
  refine each_stored _ _ (fun n u => ?_) s
  dsimp only
  split <;> rfl

/-- With no graph's ring named and the module's event ring not in use, no ring takes the record. -/
theorem eventRings_none {s : State} (hring : s.hif.evRingEn = false) (put : Nat → State → State) : eventRings none put s = s := by
  simp [eventRings, hring]

/-- The record of an event that names no graph is stored nowhere while the module's event ring is not in use. -/
theorem raise_stored {s : State} (hring : s.hif.evRingEn = false) {i : EvInfo} (hgraph : i.graph = none) (c : Src) (b : Nat) :
    (raise c b i s).stored = s.stored := by
  unfold raise raiseFuel raiseWith
  split
  · have hnone : graphRingOf (setBit c b s) i = none := by simp [graphRingOf, hgraph]
    rw [writeRecord, journalRecord_stored, eventCopies_stored, hnone, eventRings_none]
    · exact setBit_stored c b s
    · exact (setBit_hif_evRingEn c b s).trans hring
  · exact setBit_stored c b s

theorem unsupported_stored {s : State} (hring : s.hif.evRingEn = false) : (unsupported s).stored = s.stored :=
  raise_stored (s := emit .ur s) hring rfl .hif 0

/-! ### Rows that store nothing -/

/-- The next state, if there is one, has what memory rests on as it was. -/
def StoresNothing (s : State) (o : Out) : Prop := ∀ t, o = .next t → t.stored = s.stored

variable {s t : State}

theorem StoresNothing.next (h : t.stored = s.stored) : StoresNothing s (.next t) := by
  rintro _ ⟨⟩
  exact h

theorem StoresNothing.ite {c : Prop} [Decidable c] {a b : Out} (ha : c → StoresNothing s a) (hb : ¬ c → StoresNothing s b) :
    StoresNothing s (if c then a else b) := by
  split
  next h => exact ha h
  next h => exact hb h

/-- A row that leaves the state as it was stores nothing. -/
theorem StoresNothing.same : StoresNothing s (.next s) := .next rfl

theorem execApertureRead_storesNothing (hring : s.hif.evRingEn = false) (off : BitVec 34) (len : Nat) :
    StoresNothing s (execApertureRead off len s) := by
  unfold execApertureRead
  refine .ite (fun _ => .same) fun _ => ?_
  cases apertureAddr s off.toNat with
  | none => exact .next (unsupported_stored hring)
  | some a =>
    have habort : (emit .ca (raise .hms 6 {} s)).stored = s.stored := (emit_stored _ _).trans (raise_stored hring rfl .hms 6)
    exact .ite (fun _ => .next (unsupported_stored hring)) fun _ => .ite (fun _ => .next habort) fun _ => .next (emit_stored _ s)

theorem execTelemetryReturn_storesNothing (s : State) : StoresNothing s (execTelemetryReturn s) :=
  .ite (fun _ => .same) fun _ => .next rfl

theorem execPcieLinkUp_storesNothing (hegress : s.hif.egress = []) (speed : BitVec 3) (width mps : BitVec 4) :
    StoresNothing s (execPcieLinkUp speed width mps s) :=
  .ite (fun _ => .same) fun _ => .next (sendEgress_stored hegress)

theorem execControlLinkUp_storesNothing (sqi : BitVec 3) (s : State) : StoresNothing s (execControlLinkUp sqi s) :=
  .ite (fun _ => .same) fun _ => .next rfl

theorem execMsixUnmask_storesNothing (v : BitVec 6) (s : State) : StoresNothing s (execMsixUnmask v s) :=
  .ite (fun _ => .next (sendVector_stored _ _)) fun _ => .next rfl

theorem execRampFill_storesNothing (l : Nat) (s : State) : StoresNothing s (execRampFill l s) :=
  .ite (fun _ => .same) fun _ => .next rfl

theorem execShadowLoad_storesNothing (l : Nat) (tile : Tile) (m : MSet) (s : State) : StoresNothing s (execShadowLoad l tile m false s) := by
  unfold execShadowLoad
  refine .ite (fun _ => .same) fun _ => ?_
  cases servedBy s l with
  | none => exact .next rfl
  | some g => exact .next rfl

theorem execShadowLoadComplete_storesNothing (l : Nat) (s : State) : StoresNothing s (execShadowLoadComplete l s) := by
  unfold execShadowLoadComplete
  cases servedBy s l with
  | none => exact .same
  | some g => exact .ite (fun _ => .next rfl) fun _ => .same

theorem execHoldRefresh_storesNothing (l : Nat) (shadow : Bool) (s : State) : StoresNothing s (execHoldRefresh l shadow s) := by
  unfold execHoldRefresh
  cases servedBy s l with
  | none => exact .same
  | some g => exact .ite (fun _ => .next (refreshHold_stored g shadow s)) fun _ => .same

theorem execOpticalReplay_storesNothing (dev : List SlicerDev) (s : State) : StoresNothing s (execOpticalReplay dev s) := by
  unfold execOpticalReplay
  refine .ite (fun _ => .same) fun _ => ?_
  cases s.psr.optWait with
  | nil => exact .same
  | cons f rest =>
    dsimp only
    split
    · exact .next rfl
    · exact .ite (fun _ => .next rfl) fun _ => .next (queueReplay_stored f _)

theorem execReplayHoldEnd_storesNothing (s : State) : StoresNothing s (execReplayHoldEnd s) := by
  unfold execReplayHoldEnd
  split
  · exact .same
  · exact .ite (fun _ => .same) fun _ => .next rfl

theorem execSubstitutionHoldEnd_storesNothing (s : State) : StoresNothing s (execSubstitutionHoldEnd s) := by
  unfold execSubstitutionHoldEnd
  split
  · exact .same
  · exact .next rfl

theorem execPdelayRequestTimer_storesNothing (s : State) : StoresNothing s (execPdelayRequestTimer s) :=
  .ite (fun _ => .same) fun _ => .next rfl

theorem execSessionConfirmTimeout_storesNothing (n : Nat) (s : State) : StoresNothing s (execSessionConfirmTimeout n s) :=
  .ite (fun _ => .same) fun _ => .next ((endSession_stored n _).trans (advanceTo_stored _ s))

theorem execSessionIdleTimeout_storesNothing (n : Nat) (s : State) : StoresNothing s (execSessionIdleTimeout n s) :=
  .ite (fun _ => .same) fun _ => .next ((endSession_stored n _).trans (advanceTo_stored _ s))

theorem execEventCopyDrop_storesNothing (n : Nat) (s : State) : StoresNothing s (execEventCopyDrop n s) := by
  unfold execEventCopyDrop
  split
  · exact .same
  · exact .next rfl

/-- Hall time goes on and the update lock is released. -/
theorem releaseLockAt_stored (at_ : Nat) (s : State) :
    ({ advanceTo at_ s with msc := { (advanceTo at_ s).msc with update := none } } : State).stored = s.stored := rfl

theorem execUpdateLockTimeout_storesNothing (s : State) : StoresNothing s (execUpdateLockTimeout s) := by
  unfold execUpdateLockTimeout
  split
  · exact .same
  · exact .next (releaseLockAt_stored _ s)

/-- Hall time goes on and the skip count becomes `k`. -/
theorem stepDownAt_stored (at_ k : Nat) (s : State) :
    ({ advanceTo at_ s with tps := { (advanceTo at_ s).tps with k := k, stepAt := now (advanceTo at_ s) } } : State).stored = s.stored := rfl

theorem execThrottleStepDown_storesNothing (s : State) : StoresNothing s (execThrottleStepDown s) :=
  .ite (fun _ => .same) fun _ => .next (stepDownAt_stored _ _ s)

theorem execZoneLoopExit_storesNothing (zone : Nat) (s : State) : StoresNothing s (execZoneLoopExit zone s) :=
  .ite (fun _ => .next rfl) fun _ => .same

end Sys2Proof.Machine

namespace Sys2Proof.Proofs

open Sys2Proof.Machine

/-- Settles O60: every row in the list leaves what memory rests on, row by row. -/
theorem rowsThatStoreNothing : Obligations.RowsThatStoreNothing := by
  unfold Obligations.RowsThatStoreNothing
  intro i s t hexec hrow
  have hstored : t.stored = s.stored := by
    suffices h : StoresNothing s (exec i s) from h t hexec
    cases i with
    | apertureRead off len =>
      obtain ⟨hring, -⟩ : s.hif.evRingEn = false ∧ apertureOpen s = true := hrow
      exact execApertureRead_storesNothing hring off len
    | pwrEnAssert => exact .next rfl
    | reverseCurrent => exact .next rfl
    | resetNRelease => exact .next rfl
    | telemetryReturn => exact execTelemetryReturn_storesNothing s
    | pcieLinkUp speed width mps => exact execPcieLinkUp_storesNothing hrow speed width mps
    | pcieLinkDown => exact .next rfl
    | controlLinkUp sqi => exact execControlLinkUp_storesNothing sqi s
    | msixUnmask v => exact execMsixUnmask_storesNothing v s
    | hbmRefresh => exact .same
    | lpddrRefresh => exact .same
    | rampFill l => exact execRampFill_storesNothing l s
    | shadowLoad l tile m abort =>
      cases abort with
      | false => exact execShadowLoad_storesNothing l tile m s
      | true => exact False.elim hrow
    | shadowLoadComplete l => exact execShadowLoadComplete_storesNothing l s
    | holdRefresh l shadow => exact execHoldRefresh_storesNothing l shadow s
    | opticalReplay dev => exact execOpticalReplay_storesNothing dev s
    | replayHoldEnd => exact execReplayHoldEnd_storesNothing s
    | substitutionHoldEnd => exact execSubstitutionHoldEnd_storesNothing s
    | pdelayRequestTimer => exact execPdelayRequestTimer_storesNothing s
    | sessionConfirmTimeout n => exact execSessionConfirmTimeout_storesNothing n s
    | sessionIdleTimeout n => exact execSessionIdleTimeout_storesNothing n s
    | eventCopyDrop n => exact execEventCopyDrop_storesNothing n s
    | updateLockTimeout => exact execUpdateLockTimeout_storesNothing s
    | throttleStepDown => exact execThrottleStepDown_storesNothing s
    | zoneLoopExit zone => exact execZoneLoopExit_storesNothing zone s
    | _ => exact False.elim hrow
  exact ⟨congrArg (·.mem) hstored, congrArg (·.hostMem) hstored, congrArg (·.seq.graphs) hstored, congrArg (·.regions) hstored,
    readByte_of_stored hstored⟩

end Sys2Proof.Proofs
end

section
/-! SUPPORT. The commands of the control port that access registers, memory and stream lanes, once accepted. -/

namespace Sys2Proof.Machine

variable {r : Req} {j : Job} {s t : State}

/-! ### Accepted commands that complete at once (R311, R319) -/

/-- An accepted command that is carried out with an answer completes with it. -/
theorem command_of_runJob {a : Answer} (h : s.Accepts r j)
    (hrun : runJob (originOf r j) (withRole s (sessionNo r) j) (taken r j s) = (some a, t)) :
    command r j s = complete (originOf r j) a t := by
  rw [accept_executes r j s h, execJob, hrun]

/-- What has left, the port's own state and the hall times journaled are none of what memory rests on. -/
theorem PortOnly.stored (h : PortOnly s t) : t.stored = s.stored := by
  obtain ⟨_, _, _, rfl⟩ := h
  rfl

theorem taken_stored (r : Req) (j : Job) (s : State) : (taken r j s).stored = s.stored := (portOnly_taken r j s).stored

theorem laneAt_taken (r : Req) (j : Job) (s : State) (n : Nat) : laneAt (taken r j s) n = laneAt s n := by
  rw [laneAt, taken_tsl, laneAt]

/-! ### Registers (R316, R323, R434, R435) -/

theorem regRead_of_words (who : Origin) {a count : Nat} (hmin : 1 ≤ count) (hmax : count ≤ 126) (hblock : wordsInBlock a count = true)
    (s : State) : regRead who a count s
      = (some (Status.ok, 0, (readWords (sessionOf who) (a - regBase) count s).1), (readWords (sessionOf who) (a - regBase) count s).2) := by
  have hcount : ¬ (count = 0 ∨ 126 < count) := by omega
  simp [regRead, hcount, hblock]

theorem regWrite_of_words {a : Nat} {ws : List Word} (hmin : 1 ≤ ws.length) (hmax : ws.length ≤ 349)
    (hblock : wordsInBlock a ws.length = true) (maintain : Bool) (s : State) : regWrite a ws maintain s
      = if inBlock15 a && !maintain then done Status.roleDenied s else done Status.ok (writeWords (a - regBase) ws s) := by
  have hcount : ¬ (ws.isEmpty = true ∨ 349 < ws.length) := by
    rw [List.isEmpty_iff_length_eq_zero]
    omega
  rw [regWrite, if_neg hcount, hblock]
  rfl

/-! ### Memory (R26, R217, R323) -/

theorem memRead_of_serves {a n : Nat} (hmin : 1 ≤ n) (h : memRefusal s a n 504 false = none) :
    memRead a n s = (some (Status.ok, 0, readBytes s a n), s) := by
  rw [memRead, if_neg (by omega), h]

theorem memWrite_of_serves {a : Nat} {data : List Byte} (hdata : data ≠ []) (h : memRefusal s a data.length 1396 true = none) :
    memWrite a data s = done Status.ok (writeBytes a data s) := by
  rw [memWrite, if_neg (by simpa using hdata), h]

/-! ### Stream lanes (R184, R323) -/

theorem laneUnit_of_input {lane : Nat} {data : List Byte} (hlane : lane < 48) (hen : (laneAt s lane).en = true)
    (hdir : (laneAt s lane).dir = false) (hlength : data.length = (laneAt s lane).unitBytes.toNat) (capture : Nat) :
    laneUnit lane capture data s = done Status.ok (fileUnit lane capture data s) := by
  have hinput : ¬ (48 ≤ lane ∨ (laneAt s lane).en = false ∨ (laneAt s lane).dir = true) := by
    rw [hen, hdir]
    simp [hlane]
  rw [laneUnit, if_neg hinput, if_neg (not_not_intro hlength)]

/-- A unit of the length that its lane takes fits (R325). -/
theorem length_of_lengthFits_laneUnit {plen : Nat} {lane : Byte} {capture : DWord} {data : List Byte} (hlane : lane.toNat < 48)
    (h : lengthFits s plen (.laneUnit lane capture data) = true) : data.length = (laneAt s lane.toNat).unitBytes.toNat := by
  simp only [lengthFits, Bool.and_eq_true, Bool.or_eq_true, decide_eq_true_eq, beq_iff_eq] at h
  omega

/-! ### The rows, over an accepted request -/

theorem exec_regRead_of_accepts {addr : DWord} {count : BitVec 16} (h : s.Accepts r (.regRead addr count)) (hmin : 1 ≤ count.toNat)
    (hmax : count.toNat ≤ 126) (hblock : wordsInBlock addr.toNat count.toNat = true) :
    let u := readWords (sessionNo r) (addr.toNat - regBase) count.toNat (taken r (.regRead addr count) s)
    exec (.regRead r addr count) s = .next (complete (originOf r (.regRead addr count)) (Status.ok, 0, u.1) u.2) :=
  congrArg Host.Outcome.next (command_of_runJob h (regRead_of_words _ hmin hmax hblock _))

theorem exec_regWrite_of_accepts {addr : DWord} {ws : List Word} (h : s.Accepts r (.regWrite addr ws false)) (hmin : 1 ≤ ws.length)
    (hmax : ws.length ≤ 349) (hblock : wordsInBlock addr.toNat ws.length = true) :
    exec (.regWrite r addr ws) s = .next (
      if inBlock15 addr.toNat = true ∧ (sessionAt s (sessionNo r)).role.toNat < 3
      then finished r (.regWrite addr ws false) (Status.roleDenied, 0, []) id s
      else finished r (.regWrite addr ws false) (Status.ok, 0, []) (writeWords (addr.toNat - regBase) ws) s) := by
  have hwrite := regWrite_of_words hmin hmax hblock (decide (3 ≤ (sessionAt s (sessionNo r)).role.toNat))
    (taken r (.regWrite addr ws false) s)
  have hcond : (inBlock15 addr.toNat && !decide (3 ≤ (sessionAt s (sessionNo r)).role.toNat)) = true
      ↔ inBlock15 addr.toNat = true ∧ (sessionAt s (sessionNo r)).role.toNat < 3 := by simp
  refine congrArg Host.Outcome.next ?_
  split
  next hdenied =>
    rw [if_pos (hcond.2 hdenied)] at hwrite
    exact command_of_runJob h hwrite
  next hpermitted =>
    rw [if_neg (hcond.not.2 hpermitted)] at hwrite
    exact command_of_runJob h hwrite

theorem exec_memRead_of_accepts {addr : DWord} {len : Word} (h : s.Accepts r (.memRead addr len)) (hmin : 1 ≤ len.toNat)
    (hserves : memRefusal s addr.toNat len.toNat 504 false = none) : exec (.memRead r addr len) s
      = .next (finished r (.memRead addr len) (Status.ok, 0, readBytes s addr.toNat len.toNat) id s) := by
  have hstored := taken_stored r (.memRead addr len) s
  rw [← memRefusal_of_stored hstored] at hserves
  rw [← readBytes_of_stored hstored]
  exact congrArg Host.Outcome.next (command_of_runJob h (memRead_of_serves hmin hserves))

theorem exec_memWrite_of_accepts {addr : DWord} {data : List Byte} (h : s.Accepts r (.memWrite addr data)) (hdata : data ≠ [])
    (hserves : memRefusal s addr.toNat data.length 1396 true = none) : exec (.memWrite r addr data) s
      = .next (finished r (.memWrite addr data) (Status.ok, 0, []) (writeBytes addr.toNat data) s) := by
  rw [← memRefusal_of_stored (taken_stored r (.memWrite addr data) s)] at hserves
  exact congrArg Host.Outcome.next (command_of_runJob h (memWrite_of_serves hdata hserves))

theorem exec_laneUnit_of_accepts {lane : Byte} {capture : DWord} {data : List Byte} (h : s.Accepts r (.laneUnit lane capture data))
    (hlane : lane.toNat < 48) (hen : (laneAt s lane.toNat).en = true) (hdir : (laneAt s lane.toNat).dir = false) :
    exec (.laneUnit r lane capture data) s
      = .next (finished r (.laneUnit lane capture data) (Status.ok, 0, []) (fileUnit lane.toNat capture.toNat data) s) := by
  have hlength := length_of_lengthFits_laneUnit hlane h.length
  rw [← laneAt_taken r (.laneUnit lane capture data)] at hen hdir hlength
  exact congrArg Host.Outcome.next (command_of_runJob h (laneUnit_of_input hlane hen hdir hlength _))

end Sys2Proof.Machine

namespace Sys2Proof.Proofs

open Sys2Proof.Machine

/-- Settles O14: an accepted command executes in the state after its acceptance, whose lanes and memory are those of the state before. -/
theorem accessCommands : Obligations.AccessCommands := by
  unfold Obligations.AccessCommands
  intro r s
  refine ⟨?regRead, ?regWrite, ?memRead, ?memWrite, ?laneUnit⟩
  case regRead => exact fun _ _ h hmin hmax hblock => exec_regRead_of_accepts h hmin hmax hblock
  case regWrite => exact fun _ _ h hmin hmax hblock => exec_regWrite_of_accepts h hmin hmax hblock
  case memRead => exact fun _ _ h hmin hserves => exec_memRead_of_accepts h hmin hserves
  case memWrite => exact fun _ _ h hdata hserves => exec_memWrite_of_accepts h hdata hserves
  case laneUnit => exact fun _ _ _ h hlane hen hdir => exec_laneUnit_of_accepts h hlane hen hdir

end Sys2Proof.Proofs
end

section
/-! SUPPORT. Fields of a word with bits set by a row, and the rows that clear the statistics of the optical and electronic engines. -/

namespace Sys2Proof.Machine

/-! ### Fields of a word -/

theorem bit_or (w m : Word) (i : Nat) : bit (w ||| m) i = (bit w i || bit m i) := by
  rw [bit, BitVec.toNat_or, Nat.testBit_or, bit, bit]

theorem bits_or (w m : Word) (hi lo : Nat) : bits (w ||| m) hi lo = bits w hi lo ||| bits m hi lo := by
  rw [bits, BitVec.toNat_or, Nat.or_div_two_pow, Nat.or_mod_two_pow, bits, bits]

variable {w m : Word} {i hi lo : Nat}

/-- A bit of the mask is set. -/
theorem bit_or_of_set (h : bit m i = true) : bit (w ||| m) i = true := by rw [bit_or, h, Bool.or_true]

/-- A bit outside the mask stays. -/
theorem bit_or_of_clear (h : bit m i = false) : bit (w ||| m) i = bit w i := by rw [bit_or, h, Bool.or_false]

/-- A field that the mask does not touch stays. -/
theorem bits_or_of_clear (h : bits m hi lo = 0) : bits (w ||| m) hi lo = bits w hi lo := by rw [bits_or, h, Nat.or_zero]

/-! ### Control registers written with their CLR bit (R77, R135, R160, R161, R192, R304) -/

/-- A register whose CLR bit is bit 0, written with that bit set. -/
theorem ite_clrBit {α : Type} (w : Word) (a b : α) : (if bit (w ||| 1) 0 = true then a else b) = a :=
  if_pos (bit_or_of_set (by decide))

theorem writeTdwCtrl_clrStats (w : Word) (s : State) : writeTdwCtrl (w ||| 1) s
    = { s with tdw := { s.tdw with deglitchNext := bit w 8, refreshMax := 0, errCount := 0 } } := by
  have hdeglitch : bit (w ||| 1) 8 = bit w 8 := bit_or_of_clear (by decide)
  rw [writeTdwCtrl, ite_clrBit, hdeglitch]

theorem writeSeqCtrl_clrStats (hdump : bit w 31 = false) (s : State) : writeSeqCtrl (w ||| 1) s
    = { s with seq := { s.seq with dumpRing := BitVec.ofNat 14 (bits w 29 16), overruns := 0, lapses := 0 } } := by
  have hring : bits (w ||| 1) 29 16 = bits w 29 16 := bits_or_of_clear (by decide)
  have hgo : ¬ bit (w ||| 1) 31 = true := by rw [bit_or_of_clear (by decide), hdump]; decide
  simp only [writeSeqCtrl, ite_clrBit, hring, if_neg hgo]

theorem writeClsCtrl_clrStats (hsource : bits w 5 0 ≤ 55) (hgo : bit w 31 = false) (s : State) :
    writeClsCtrl (w ||| 0x40000000) s = { s with cls := { s.cls with hold := 0, last := {} } } := by
  have hindex : bits (w ||| 0x40000000) 5 0 = bits w 5 0 := bits_or_of_clear (by decide)
  have hclear : bit (w ||| 0x40000000) 30 = true := bit_or_of_set (by decide)
  have htakeover : ¬ bit (w ||| 0x40000000) 31 = true := by rw [bit_or_of_clear (by decide), hgo]; decide
  simp only [writeClsCtrl, hindex, if_neg (Nat.not_lt.mpr hsource), if_pos hclear, if_neg htakeover]

/-! ### The rows, over an open path -/

variable {p : Path} {s : State}

theorem exec_tdwClrStats_of_opens (w : Word) (h : s.Opens p 0x200000 true) : exec (.tdwClrStats p w) s = .next (writeTdwCtrl (w ||| 1) s) :=
  congrArg Host.Outcome.next (pathWrite_of_opens _ h (by decide))

theorem exec_squClrStats_of_opens (w : Word) (h : s.Opens p 0x400004 true) : exec (.squClrStats p w) s = .next (writeSquCtrl (w ||| 1) s) :=
  congrArg Host.Outcome.next (pathWrite_of_opens _ h (by decide))

theorem exec_lgeClrStats_of_opens (w : Word) (h : s.Opens p 0x500004 true) : exec (.lgeClrStats p w) s = .next (writeLgeCtrl (w ||| 1) s) :=
  congrArg Host.Outcome.next (pathWrite_of_opens _ h (by decide))

theorem exec_xlClrStats_of_opens (w : Word) (h : s.Opens p 0x600004 true) : exec (.xlClrStats p w) s = .next (writeXlCtrl (w ||| 1) s) :=
  congrArg Host.Outcome.next (pathWrite_of_opens _ h (by decide))

theorem exec_seqClrStats_of_opens (w : Word) (h : s.Opens p 0x700004 true) : exec (.seqClrStats p w) s = .next (writeSeqCtrl (w ||| 1) s) :=
  congrArg Host.Outcome.next (pathWrite_of_opens _ h (by decide))

theorem exec_clsClrStats_of_opens (w : Word) (h : s.Opens p 0x100004 true) :
    exec (.clsClrStats p w) s = .next (writeClsCtrl (w ||| 0x40000000) s) :=
  congrArg Host.Outcome.next (pathWrite_of_opens _ h (by decide))

end Sys2Proof.Machine

namespace Sys2Proof.Proofs

open Sys2Proof.Machine

/-- Settles O22: over an open path each row is the write of its control register with the CLR bit set and the word's other fields. -/
theorem engineStatisticsCleared : Obligations.EngineStatisticsCleared := by
  unfold Obligations.EngineStatisticsCleared
  intro p w s
  refine ⟨?tdw, ?squ, ?lge, ?xl, ?seq, ?cls⟩
  case tdw =>
    intro h
    rw [exec_tdwClrStats_of_opens w h, writeTdwCtrl_clrStats]
  case squ =>
    intro h
    rw [exec_squClrStats_of_opens w h, writeSquCtrl, ite_clrBit]
  case lge =>
    intro h
    rw [exec_lgeClrStats_of_opens w h, writeLgeCtrl, ite_clrBit]
  case xl =>
    intro h
    rw [exec_xlClrStats_of_opens w h, writeXlCtrl, ite_clrBit]
  case seq =>
    intro h hdump
    rw [exec_seqClrStats_of_opens w h, writeSeqCtrl_clrStats hdump]
  case cls =>
    intro h hsource hgo
    rw [exec_clsClrStats_of_opens w h, writeClsCtrl_clrStats hsource hgo]

end Sys2Proof.Proofs
end

section
/-! SUPPORT. A stall after one of its operations: its entry to SUSPECT, an aborted load, and which stall is served. -/

namespace Sys2Proof.Machine

variable {s : State} {g l : Nat}

/-! ### One stall changed -/

/-- A stall that serves is one of those the state lists (R33). -/
theorem lt_of_servedBy (h : servedBy s l = some g) : g < s.stalls.length :=
  (List.findIdx?_eq_some_iff_getElem.1 h).1

theorem stallAt_modStall (hg : g < s.stalls.length) (f : Stall → Stall) : stallAt (modStall g f s) g = f (stallAt s g) :=
  update_getD _ _ _ _ (.inr hg)

theorem modStall_length (g : Nat) (f : Stall → Stall) (s : State) : (modStall g f s).stalls.length = s.stalls.length := by
  rw [modStall_stalls]
  induction s.stalls generalizing g with
  | nil => rfl
  | cons a r ih =>
    cases g with
    | zero => rfl
    | succ g => exact congrArg (· + 1) (ih g)

/-! ### Events of blocks 0 and 2 (R75, R77) -/

/-- What is read of a stall is read of the list of stalls. -/
theorem stallAt_of_stalls {t : State} (h : t.stalls = s.stalls) (g : Nat) : stallAt t g = stallAt s g := by rw [stallAt, h, stallAt]

@[simp] theorem pmaEvent_stalls (b g : Nat) (detail : List Byte) (s : State) : (pmaEvent b g detail s).stalls = s.stalls := raise_stalls _ _ _ s

@[simp] theorem tdwError_stalls (b g : Nat) (s : State) : (tdwError b g s).stalls = s.stalls := raise_stalls _ _ _ _

/-! ### SUSPECT and aborted loads (R46, R64) -/

/-- A LOADED stall that the state lists enters SUSPECT. -/
theorem enterSuspect_state (hg : g < s.stalls.length) (h : (stallAt s g).state = .loaded) :
    stallAt (enterSuspect g s) g
      = { stallAt s g with state := .suspect, suspects := s.seq.epoch :: (stallAt s g).suspects, suspectAt := now s } := by
  have hserves : (stallAt s g).state = .loaded ∨ (stallAt s g).state = .unloaded := .inl h
  rw [enterSuspect, if_pos hserves, stallAt_of_stalls (pmaEvent_stalls _ _ _ _), stallAt_modStall hg]

/-- A stall with its load aborted. -/
def Stall.aborted (st : Stall) : Stall := { st with shadow := { st.shadow with valid := false }, loading := false, aborts := st.aborts + 1 }

/-- The state of the stalls after an aborted load, before it can make its stall SUSPECT. -/
def abortedOnce (g : Nat) (s : State) : State := tdwError 0 g (modStall g Stall.aborted s)

theorem loadAbort_eq (g : Nat) (s : State) : loadAbort g s
    = if 2 ≤ (stallAt (abortedOnce g s) g).aborts then enterSuspect g (abortedOnce g s) else abortedOnce g s := rfl

theorem abortedOnce_length (g : Nat) (s : State) : (abortedOnce g s).stalls.length = s.stalls.length := by
  rw [abortedOnce, tdwError_stalls, modStall_length]

theorem stallAt_abortedOnce (hg : g < s.stalls.length) : stallAt (abortedOnce g s) g = (stallAt s g).aborted := by
  rw [abortedOnce, stallAt_of_stalls (tdwError_stalls _ _ _), stallAt_modStall hg]

/-- The first abort of an epoch leaves the stall its state. -/
theorem stallAt_loadAbort_first (hg : g < s.stalls.length) (h : (stallAt s g).aborts = 0) :
    stallAt (loadAbort g s) g = (stallAt s g).aborted := by
  have hone : ¬ 2 ≤ (stallAt s g).aborted.aborts := by
    show ¬ 2 ≤ (stallAt s g).aborts + 1
    omega
  rw [loadAbort_eq, stallAt_abortedOnce hg, if_neg hone, stallAt_abortedOnce hg]

/-- A later abort of an epoch makes a LOADED stall SUSPECT. -/
theorem stallAt_loadAbort_again (hg : g < s.stalls.length) (hstate : (stallAt s g).state = .loaded) (h : 1 ≤ (stallAt s g).aborts) :
    ∃ epochs at_, stallAt (loadAbort g s) g = { (stallAt s g).aborted with state := .suspect, suspects := epochs, suspectAt := at_ } := by
  have htwo : 2 ≤ (stallAt s g).aborted.aborts := Nat.succ_le_succ h
  have hlength : g < (abortedOnce g s).stalls.length := by rwa [abortedOnce_length]
  have hloaded : (stallAt (abortedOnce g s) g).state = .loaded := by rwa [stallAt_abortedOnce hg]
  have hsuspect := enterSuspect_state hlength hloaded
  rw [loadAbort_eq, if_pos (by rwa [stallAt_abortedOnce hg])]
  rw [stallAt_abortedOnce hg] at hsuspect
  exact ⟨_, _, hsuspect⟩

/-! ### SHADOW_LOAD of a stall that serves (R44 to R46, R53) -/

/-- With the engine running and not held, an almanac entry is not passed over. -/
theorem not_stopped_of_running (hrun : running s = true) (hheld : held s = false) : ¬ ((!running s) = true ∨ held s = true) := by
  simp [hrun, hheld]

theorem exec_shadowLoad_aborted (hrun : running s = true) (hheld : held s = false) (hserved : servedBy s l = some g) (t : Tile) (m : MSet) :
    exec (.shadowLoad l t m true) s = .next (loadAbort g s) := by
  show execShadowLoad l t m true s = _
  rw [execShadowLoad, if_neg (not_stopped_of_running hrun hheld), hserved]
  rfl

theorem exec_shadowLoad_started (hrun : running s = true) (hheld : held s = false) (hserved : servedBy s l = some g) (t : Tile) (m : MSet) :
    exec (.shadowLoad l t m false) s = .next (modStall g (fun st => { st with shadow := loadedHold s g m t, loading := true }) s) := by
  show execShadowLoad l t m false s = _
  rw [execShadowLoad, if_neg (not_stopped_of_running hrun hheld), hserved]
  rfl

end Sys2Proof.Machine

namespace Sys2Proof.Proofs

open Sys2Proof.Machine

/-- Settles O37: the count of aborts, zero or more before this one, decides whether the stall enters SUSPECT. -/
theorem loadAborts : Obligations.LoadAborts := by
  unfold Obligations.LoadAborts
  intro l g t m s hrun hheld hserved hstate
  have hg := lt_of_servedBy hserved
  refine ⟨loadAbort g s, exec_shadowLoad_aborted hrun hheld hserved t m, ?_⟩
  rcases Nat.eq_zero_or_pos (stallAt s g).aborts with hfirst | hagain
  · have hnone : (stallAt s g).aborted.state ≠ .suspect := by
      show (stallAt s g).state ≠ .suspect
      rw [hstate]
      decide
    rw [stallAt_loadAbort_first hg hfirst]
    exact ⟨rfl, rfl, rfl, iff_of_false hnone (by omega)⟩
  · obtain ⟨_, _, hsuspect⟩ := stallAt_loadAbort_again hg hstate hagain
    rw [hsuspect]
    exact ⟨rfl, rfl, rfl, iff_of_true rfl hagain⟩

end Sys2Proof.Proofs
end

section
/-! SUPPORT. The rows of a stall's holds: the end of a load, the swap and the refreshes, for a stall that serves and for one substituted. -/

namespace Sys2Proof.Machine

variable {s : State} {g l : Nat}

/-! ### The swap (R49 to R51, R53; log 74) -/

theorem swapStall_of_valid (hvalid : (stallAt s g).shadow.valid = true) (hdone : (stallAt s g).loading = false) :
    swapStall g s = modStall g (fun st => { st with
      front := st.shadow
      shadow := { st.front with valid := false }
      driveOff := false
      swaps := st.swaps + 1
      state := if st.state = .unloaded then .loaded else st.state }) s :=
  if_pos ⟨hvalid, by simp [hdone]⟩

theorem swapStall_of_invalid (h : (stallAt s g).shadow.valid = false) :
    swapStall g s = tdwError 1 g (modStall g (fun st => { st with driveOff := true }) s) :=
  if_neg (by simp [h])

/-- The shadow hold waits for the first symbol of an epoch: it is valid, and of another set than the valid front hold. -/
def SwapWaits (st : Stall) : Prop := st.shadow.valid = true ∧ st.front.valid = true ∧ st.shadow.mset ≠ st.front.mset

theorem exec_swap_of_waits (hrun : running s = true) (hheld : held s = false) (hserved : servedBy s l = some g)
    (h : SwapWaits (stallAt s g)) : exec (.swap l) s = .next s := by
  show execSwap l s = _
  rw [execSwap, if_neg (not_stopped_of_running hrun hheld), hserved]
  exact if_pos h

theorem exec_swap_of_not_waits (hrun : running s = true) (hheld : held s = false) (hserved : servedBy s l = some g)
    (h : ¬ SwapWaits (stallAt s g)) : exec (.swap l) s = .next (settleReplays (swapStall g s)) := by
  show execSwap l s = _
  rw [execSwap, if_neg (not_stopped_of_running hrun hheld), hserved]
  exact if_neg h

/-! ### The end of a load, and refreshes (R52, R54, R55) -/

theorem exec_shadowLoadComplete_of_loading (hserved : servedBy s l = some g) (h : (stallAt s g).loading = true) :
    exec (.shadowLoadComplete l) s
      = .next (modStall g (fun st => { st with shadow := { st.shadow with valid := true, refreshed := now s }, loading := false }) s) := by
  show execShadowLoadComplete l s = _
  rw [execShadowLoadComplete, hserved]
  exact if_pos h

/-- A valid front hold takes a refresh, whatever the shadow hold does. -/
theorem refreshable_front (h : (stallAt s g).front.valid = true) : refreshable (stallAt s g) false = true := by
  simp [refreshable, holdOf, h]

theorem exec_holdRefresh_of_refreshable (hrun : running s = true) (hheld : held s = false) (hserved : servedBy s l = some g) {shadow : Bool}
    (h : refreshable (stallAt s g) shadow = true) : exec (.holdRefresh l shadow) s = .next (refreshHold g shadow s) := by
  show execHoldRefresh l shadow s = _
  rw [execHoldRefresh, hserved]
  exact if_pos ⟨hrun, by simp [hheld], h⟩

theorem exec_refreshLate_of_refreshable {shadow : Bool} (h : refreshable (stallAt s g) shadow = true) : exec (.refreshLate g shadow) s
    = .next (tdwError 2 g (refreshHold g shadow (advanceTo ((holdOf (stallAt s g) shadow).refreshed + 50000) s))) :=
  if_pos h

/-! ### A logical stall that no stall serves (R148) -/

theorem exec_shadowLoad_of_unserved (hrun : running s = true) (hheld : held s = false) (hserved : servedBy s l = none) (t : Tile) (m : MSet)
    (abort : Bool) : exec (.shadowLoad l t m abort) s
      = .next (modSubst l (fun x => if x.onLge then { x with shadow := some (buildTables s m t) } else x) s) := by
  show execShadowLoad l t m abort s = _
  rw [execShadowLoad, if_neg (not_stopped_of_running hrun hheld), hserved]

theorem exec_swap_of_unserved (hrun : running s = true) (hheld : held s = false) (hserved : servedBy s l = none) :
    exec (.swap l) s = .next (modSubst l (fun x => if x.shadow.isSome then { x with front := x.shadow, shadow := none } else x) s) := by
  show execSwap l s = _
  rw [execSwap, if_neg (not_stopped_of_running hrun hheld), hserved]

end Sys2Proof.Machine

namespace Sys2Proof.Proofs

open Sys2Proof.Machine

/-- Settles O36: the swap splits on whether the shadow hold is valid and whether it waits; each other row has one outcome under its
conditions. -/
theorem stallOperations : Obligations.StallOperations := by
  unfold Obligations.StallOperations
  intro l s
  refine ⟨fun g hserved => ⟨?load, ?complete, ?swap, ?wait, ?noShadow, ?refresh, ?late⟩, ?substituted⟩
  case load => exact fun t m hrun hheld => exec_shadowLoad_started hrun hheld hserved t m
  case complete => exact exec_shadowLoadComplete_of_loading hserved
  case swap =>
    intro hrun hheld hvalid hdone hset
    have hgo : ¬ SwapWaits (stallAt s g) := fun ⟨_, hfront, hother⟩ => hset.elim (by simp [hfront]) hother
    rw [exec_swap_of_not_waits hrun hheld hserved hgo, swapStall_of_valid hvalid hdone]
  case wait => exact fun hrun hheld hvalid hfront hset => exec_swap_of_waits hrun hheld hserved ⟨hvalid, hfront, hset⟩
  case noShadow =>
    intro hrun hheld hinvalid
    have hgo : ¬ SwapWaits (stallAt s g) := fun ⟨hvalid, _⟩ => by simp [hinvalid] at hvalid
    rw [exec_swap_of_not_waits hrun hheld hserved hgo, swapStall_of_invalid hinvalid]
  case refresh => exact fun hrun hheld hfront => exec_holdRefresh_of_refreshable hrun hheld hserved (refreshable_front hfront)
  case late => exact fun hfront => exec_refreshLate_of_refreshable (refreshable_front hfront)
  case substituted =>
    exact fun hserved hrun hheld => ⟨fun t m abort => exec_shadowLoad_of_unserved hrun hheld hserved t m abort,
      exec_swap_of_unserved hrun hheld hserved⟩

end Sys2Proof.Proofs
end

section
/-! SUPPORT. The rows of passes, reconstructions, replays and the holds that wait for them. -/

namespace Sys2Proof.Machine

variable {s : State} {f : Flight} {rest : List Flight}

/-! ### Passes and ramp fill (R58, R90, R137, R186) -/

theorem exec_pass_of_ready {p : PassEntry} {l : Nat} {t : Tile} {more : List (Nat × Tile)} {g : Graph} (hstalls : p.stalls = (l, t) :: more)
    (hgraph : graphAt s t.slot = some g) (hready : taskReady s t.slot t.task = true) (hkind : (taskAt g t.task).kind = kPassGroup) :
    exec (.pass p) s = .next (drivePass g t.slot p (noteInputs t.slot t.task s)) := by
  show execPass p s = _
  simp only [execPass, hstalls, hgraph]
  exact if_pos (by simp [hready, hkind])

theorem exec_rampFill_of_entry {l : Nat} {e : AlmanacEntry} (hrun : running s = true) (hheld : held s = false)
    (hserved : (servedBy s l).isSome = true)
    (hentry : s.seq.page.entries.find? (fun e => decide (e.op = 4) && decide (e.unit = l) && decide (e.start ≤ epochWork s)
      && decide (epochWork s < e.start + e.len)) = some e) :
    exec (.rampFill l) s = .next { s with seq := { s.seq with fill := update s.seq.fill (l / 32) (fun k => k + 16 * e.len) } } := by
  have hgo : ¬ ((!running s) = true ∨ held s = true ∨ (servedBy s l).isNone = true) := by
    simp [hrun, hheld, Option.isSome_iff_ne_none.mp hserved]
  show execRampFill l s = _
  rw [execRampFill, if_neg hgo, hentry]
  rfl

/-! ### Reconstruction (R84 to R88) -/

/-- Where every reconstruction is accepted, none is bad. -/
theorem filter_not_reconOk {rs : List (Nat × Nat × Option Recon)} (h : rs.all (fun r => reconOk r.2.2) = true) :
    rs.filter (fun r => !reconOk r.2.2) = [] := by
  rw [List.all_eq_true] at h
  rw [List.filter_eq_nil_iff]
  intro r hr
  rw [h r hr]
  decide

theorem exec_chunkReconstruction_of_ok (reserve : Bool) (hflights : s.psr.flights = f :: rest)
    (hok : (flightRecon f).all (fun r => reconOk r.2.2) = true) : exec (.chunkReconstruction reserve) s
      = .next (acceptAll f ((flightRecon f).filter (fun r => f.want.contains r.1)) { s with psr := { s.psr with flights := rest } }) := by
  show execChunkReconstruction reserve s = _
  simp only [execChunkReconstruction, hflights, filter_not_reconOk hok]
  rfl

/-! ### Replays (R91, R92) -/

section
variable {g : Graph} (hrun : running s = true) (hheld : held s = false) (hfallow : s.seq.fallow = false) (hwait : s.psr.optWait = f :: rest)
  (hgraph : graphAt s f.slot = some g)
include hrun hheld hfallow hwait hgraph

/-- The first replay that waits is taken from the list, and runs optically if its tile is in front. -/
theorem exec_opticalReplay_eq (dev : List SlicerDev) : exec (.opticalReplay dev) s = if flightInFront s f = true then
      .next { s with psr := { s.psr with
        optWait := rest
        flights := driveWords { s with psr := { s.psr with optWait := rest } } g dev { f with withheld := false } :: s.psr.flights
        cur := { s.psr.cur with opt := s.psr.cur.opt + f.stalls.length } } }
    else .next (queueReplay f { s with psr := { s.psr with optWait := rest } }) := by
  have hgo : ¬ ((!running s) = true ∨ held s = true ∨ s.seq.fallow = true) := by simp [hrun, hheld, hfallow]
  have hresident (q : Psr) : graphAt { s with psr := q } f.slot = some g := hgraph
  show execOpticalReplay dev s = _
  simp only [execOpticalReplay, if_neg hgo, hwait, hresident]
  rfl

theorem exec_opticalReplay_inFront (dev : List SlicerDev) (h : flightInFront s f = true) :
    ∃ f', exec (.opticalReplay dev) s = .next { s with psr := { s.psr with
        optWait := rest, flights := f' :: s.psr.flights, cur := { s.psr.cur with opt := s.psr.cur.opt + f.stalls.length } } }
      ∧ f'.slot = f.slot ∧ f'.task = f.task ∧ f'.vec = f.vec ∧ f'.stalls = f.stalls ∧ f'.replay = f.replay ∧ f'.want = f.want :=
  ⟨_, (exec_opticalReplay_eq hrun hheld hfallow hwait hgraph dev).trans (if_pos h), rfl, rfl, rfl, rfl, rfl, rfl⟩

theorem exec_opticalReplay_away (dev : List SlicerDev) (h : flightInFront s f = false) :
    exec (.opticalReplay dev) s = .next (queueReplay f { s with psr := { s.psr with optWait := rest } }) :=
  (exec_opticalReplay_eq hrun hheld hfallow hwait hgraph dev).trans (if_neg (Bool.not_eq_true _ ▸ h))

end

theorem exec_electronicReplay_of_replay (hqueue : s.psr.queue0 = f :: rest) (hreplay : f.replay = true) :
    let t := elapse 4 { s with psr := { s.psr with queue0 := rest } }
    let u : State := { t with psr := { t.psr with cur := { t.psr.cur with elec := t.psr.cur.elec + f.stalls.length } } }
    exec (.electronicReplay false) s
      = .next (each (unitSums u f) (fun e v => accept .psr 7 false f.slot f.task f.vec e.1 e.2 1 v) u) := by
  show execElectronicReplay false s = _
  simp only [execElectronicReplay, Bool.false_eq_true, if_false, hqueue, hreplay, if_true]

/-! ### Holds (R95, R148) -/

/-- A single pending replay is the one with the earliest deadline. -/
theorem exec_replayDeadline_of_single (hrun : running s = true) (hheld : held s = false) (hpending : replaysPending s = [f]) :
    let t := advanceTo (timeOfWork f.deadline s) s
    let l := (f.stalls.map (fun q => q.1)).headD 0
    exec .replayDeadline s = .next (raise .psr 4 { graph := some f.slot, task := f.task, unit := servedBy t l, logical := l }
      { t with seq := { t.seq with replayHold := some (now t) } }) := by
  show execReplayDeadline s = _
  rw [execReplayDeadline, hpending]
  exact if_neg (not_stopped_of_running hrun hheld)

theorem exec_replayHoldEnd_of_done {t : Nat} (hhold : s.seq.replayHold = some t)
    (hdone : (replaysPending s).any (fun f => decide (f.deadline ≤ s.seq.work)) = false) : exec .replayHoldEnd s
      = .next { s with seq := { s.seq with replayHold := none }
                       psr := { s.psr with cur := { s.psr.cur with hold := s.psr.cur.hold + 2 * (now s - t) } } } := by
  show execReplayHoldEnd s = _
  rw [execReplayHoldEnd, hhold]
  exact if_neg (by simp [hdone])

theorem exec_substitutionHoldEnd_of_hold {t : Nat} (hhold : s.seq.substHold = some t) : exec .substitutionHoldEnd s
    = .next { s with seq := { s.seq with substHold := none }
                     lge := { s.lge with cur := { s.lge.cur with cycles := s.lge.cur.cycles + 2 * (now s - t) } } } := by
  show execSubstitutionHoldEnd s = _
  rw [execSubstitutionHoldEnd, hhold]

end Sys2Proof.Machine

namespace Sys2Proof.Proofs

open Sys2Proof.Machine

/-- Settles O40: each row has one outcome under its conditions; an optical replay splits on whether its tile is in front, and the flight
driven again keeps all but its slicer words. -/
theorem passesAndReplays : Obligations.PassesAndReplays := by
  unfold Obligations.PassesAndReplays
  intro s
  refine ⟨?pass, ?reconstruction, ?optical, ?electronic, ?deadline, ?holdEnd, ?rampFill, ?substitutionHoldEnd⟩
  case pass => exact fun _ _ _ _ _ hstalls hgraph hready hkind => exec_pass_of_ready hstalls hgraph hready hkind
  case reconstruction => exact fun reserve _ _ hflights hok => exec_chunkReconstruction_of_ok reserve hflights hok
  case optical =>
    intro dev f rest hrun hheld hfallow hwait hresident
    obtain ⟨g, hgraph⟩ := Option.isSome_iff_exists.mp hresident
    exact ⟨exec_opticalReplay_inFront hrun hheld hfallow hwait hgraph dev, exec_opticalReplay_away hrun hheld hfallow hwait hgraph dev⟩
  case electronic => exact fun _ _ hqueue hreplay => exec_electronicReplay_of_replay hqueue hreplay
  case deadline => exact fun _ hrun hheld hpending => exec_replayDeadline_of_single hrun hheld hpending
  case holdEnd => exact fun _ hhold hdone => exec_replayHoldEnd_of_done hhold hdone
  case rampFill => exact fun _ _ hrun hheld hserved hentry => exec_rampFill_of_entry hrun hheld hserved hentry
  case substitutionHoldEnd => exact fun _ hhold => exec_substitutionHoldEnd_of_hold hhold

end Sys2Proof.Proofs
end

section
/-! SUPPORT. A probe asked for through PMA_MAP_REQ: the word that asks for it, and what it does to a LOADED stall past the last of R32. -/

namespace Sys2Proof.Machine

variable {p : Path} {s : State}

/-! ### The word of a request (R75) -/

/-- The word of a probe request: PMA_MAP_GO set, action 0, and the stall. -/
def probeWord (phys : BitVec 10) : Word := pack [(31, 1), (0, phys.toNat)]

theorem probeWord_toNat (phys : BitVec 10) : (probeWord phys).toNat = 2 ^ 31 + phys.toNat := by
  have hphys := phys.isLt
  simp only [probeWord, pack, List.foldl_cons, List.foldl_nil, BitVec.toNat_ofNat]
  omega

theorem probeWord_fields (phys : BitVec 10) : bits (probeWord phys) 12 10 = 0 ∧ bit (probeWord phys) 31 = true
    ∧ bits (probeWord phys) 9 0 = phys.toNat := by
  have hphys := phys.isLt
  simp only [bits, bit, probeWord_toNat, Nat.testBit_eq_decide_div_mod_eq, decide_eq_true_eq]
  omega

theorem writeMapReq_probeWord (phys : BitVec 10) (s : State) : writeMapReq (probeWord phys) s = mapRequest false phys.toNat s := by
  obtain ⟨haction, hgo, hstall⟩ := probeWord_fields phys
  simp [writeMapReq, haction, hgo, hstall]

theorem exec_pmaMapReqProbe_of_opens (phys : BitVec 10) (h : s.Opens p 0xC true) :
    exec (.pmaMapReqProbe p phys) s = .next (mapRequest false phys.toNat s) := by
  rw [← writeMapReq_probeWord]
  exact congrArg Host.Outcome.next (pathWrite_of_opens (probeWord phys) h (by decide))

/-! ### A request for a stall past the last (R76) -/

/-- The refusal of a probe of a stall past the last comes after the mark that a LOADED one gets for the host's request. -/
theorem mapRequest_past_of_loaded {g : Nat} (hpast : 815 < g) (hloaded : (stallAt s g).state = .loaded) : mapRequest false g s
    = raise .pma 6 { unit := some g, logical := 0xFFFF, detail := some [] } (modStall g (fun st => { st with asked := true }) s) := by
  simp [mapRequest, probeRequest, hpast, hloaded]

/-- IDLE with one stall more than the 816 of R32 listed, each of them LOADED. -/
def overlisted : State := { stalls := List.replicate 817 { state := .loaded }, msc := { mode := .idle } }

theorem overlisted_opens : overlisted.Opens (.bar0 0xF) 0xC true := rfl

theorem stallAt_overlisted : stallAt overlisted 816 = { state := .loaded } :=
  List.getD_replicate _ (by decide : 816 < 817)

/-- The request leaves the mark on the stall that it refuses. -/
theorem asked_of_overlisted_probe : (stallAt (mapRequest false 816 overlisted) 816).asked = true := by
  have hlisted : 816 < overlisted.stalls.length := by
    rw [show overlisted.stalls.length = 817 from List.length_replicate]
    decide
  rw [mapRequest_past_of_loaded (by decide) (by rw [stallAt_overlisted]), stallAt_of_stalls (raise_stalls _ _ _ _), stallAt_modStall hlisted]

end Sys2Proof.Machine

namespace Sys2Proof.Proofs

open Sys2Proof.Machine

/-- Refutes O25: of a refused probe request the statement says that the event is all it leaves, for every stall past 815. In a state that lists
a 817th stall, LOADED, the request for it also marks that stall as asked for by the host. The clause needs the premise that no stall past 815
is LOADED, as in every state that lists the 816 of R32. -/
theorem not_requestWrites : ¬ Obligations.RequestWrites := by
  unfold Obligations.RequestWrites
  intro h
  obtain ⟨-, -, hpast, -⟩ := h (.bar0 0xF) 0 overlisted
  have hrefused := hpast 816 overlisted_opens (by decide)
  rw [exec_pmaMapReqProbe_of_opens 816 overlisted_opens] at hrefused
  injection hrefused with hstate
  have hmarked := asked_of_overlisted_probe
  have hunmarked : (stallAt (mapRequest false 816 overlisted) 816).asked = false := by
    rw [show mapRequest false 816 overlisted = _ from hstate, stallAt_of_stalls (raise_stalls _ _ _ _), stallAt_overlisted]
  simp [hmarked] at hunmarked

end Sys2Proof.Proofs
end

section
/-! SUPPORT. The reconstruction of a chunk sum from its residues, the planes of a channel, and the accumulators that chunk sums enter. -/

namespace Sys2Proof.Machine

/-! ### The steps of R84's pseudocode -/

/-- The residues of `x` on the channels of a set, the tally's last (R78). -/
def residuesOf (m : MSet) (x : Int) : List Nat := (setModuli m).map (fun k : Nat => (x % (k : Int)).toNat)

/-- The running sum of R84 over the data channels, modulo the data product. -/
def dataSum (m : MSet) (rs : List Nat) : Nat := (rs.zip (setCoeffs m)).foldl (fun v q => (v + q.1 * q.2) % setProduct m) 0

/-- A sum modulo `M` taken to the centred range, as the pseudocode of R84 does. -/
def centred (M v : Nat) : Int := if (M + 1) / 2 ≤ v then (v : Int) - M else v

theorem reconstruct_eq (m : MSet) (rs : List Nat) (qa : Nat) (n p : Int) :
    reconstruct m rs qa n p =
      { value := centred (setProduct m) (dataSum m rs)
        tally := decide (centred (setProduct m) (dataSum m rs) % ((setModuli m).getLastD 1 : Int) ≠ (rs.getLastD 0 : Int))
        range := decide (centred (setProduct m) (dataSum m rs) < qa * n ∨ qa * p < centred (setProduct m) (dataSum m rs)) } := rfl

/-! ### The tables of moduli and constants (R78, R84) -/

/-- Each constant is 0 modulo every data modulus but its own: its product with its own modulus is a multiple of the data product. -/
theorem setProduct_dvd_modulus_mul_coeff (m : MSet) :
    ∀ q ∈ (setModuli m).zip (setCoeffs m), setProduct m ∣ q.1 * q.2 := by
  cases m <;> decide

/-- Each constant is 1 modulo its own modulus: together they are 1 modulo the data product. -/
theorem sum_setCoeffs_modEq_one (m : MSet) :
    ((((setModuli m).zip (setCoeffs m)).map (fun q => (q.2 : Int))).sum) ≡ 1 [ZMOD setProduct m] := by
  cases m <;> decide

theorem setProduct_pos (m : MSet) : 0 < setProduct m := by
  cases m <;> decide

theorem dataModulus_pos (m : MSet) : ∀ q ∈ (setModuli m).zip (setCoeffs m), 0 < q.1 := by
  cases m <;> decide

/-! ### The sum over the data channels (R84) -/

theorem foldl_addMul_mod_lt {M : Nat} (hM : 0 < M) (qs : List (Nat × Nat)) :
    ∀ v < M, qs.foldl (fun v q => (v + q.1 * q.2) % M) v < M := by
  induction qs with
  | nil => exact fun _ hv => hv
  | cons q qs ih => exact fun v _ => ih _ (Nat.mod_lt _ hM)

theorem dataSum_lt (m : MSet) (rs : List Nat) : dataSum m rs < setProduct m :=
  foldl_addMul_mod_lt (setProduct_pos m) _ 0 (setProduct_pos m)

/-- Over channels whose constants vanish modulo `M` with their moduli, a residue counts for the value itself. -/
theorem foldl_residues_modEq {M : Nat} (x : Int) (cs : List (Nat × Nat)) (hcs : ∀ q ∈ cs, M ∣ q.1 * q.2) (hpos : ∀ q ∈ cs, 0 < q.1) :
    ∀ v : Nat, (((cs.map (fun q => ((x % (q.1 : Int)).toNat, q.2))).foldl (fun v q => (v + q.1 * q.2) % M) v : Nat) : Int)
      ≡ v + x * (cs.map (fun q => (q.2 : Int))).sum [ZMOD M] := by
  induction cs with
  | nil => simp
  | cons q cs ih =>
    intro v
    rw [List.forall_mem_cons] at hcs hpos
    have hresidue : ((x % (q.1 : Int)).toNat : Int) = x - q.1 * (x / q.1) := by
      rw [Int.toNat_of_nonneg (Int.emod_nonneg x (by have := hpos.1; omega)), Int.emod_def]
    have hchannel : ((x % (q.1 : Int)).toNat : Int) * q.2 ≡ x * q.2 [ZMOD M] := by
      obtain ⟨k, hk⟩ := hcs.1
      have hk' : (q.1 : Int) * q.2 = M * k := by exact_mod_cast hk
      rw [hresidue, Int.modEq_iff_dvd]
      exact ⟨k * (x / q.1), by linear_combination (x / q.1) * hk'⟩
    simp only [List.map_cons, List.foldl_cons, List.sum_cons]
    calc _ ≡ (((v + (x % (q.1 : Int)).toNat * q.2) % M : Nat) : Int) + x * (cs.map (fun q => (q.2 : Int))).sum [ZMOD M] :=
          ih hcs.2 hpos.2 _
      _ ≡ (v + (x % (q.1 : Int)).toNat * q.2) + x * (cs.map (fun q => (q.2 : Int))).sum [ZMOD M] := by
          push_cast
          exact (Int.mod_modEq _ _).add_right _
      _ ≡ (v + x * q.2) + x * (cs.map (fun q => (q.2 : Int))).sum [ZMOD M] := (hchannel.add_left _).add_right _
      _ = _ := by ring

/-- The constants of R84 bring the residues of a value back to it, modulo the data product. -/
theorem dataSum_residuesOf_modEq (m : MSet) (x : Int) : (dataSum m (residuesOf m x) : Int) ≡ x [ZMOD setProduct m] := by
  have hsum := foldl_residues_modEq x _ (setProduct_dvd_modulus_mul_coeff m) (dataModulus_pos m) 0
  unfold dataSum residuesOf
  rw [List.zip_map_left]
  calc _ ≡ ((0 : Nat) : Int) + x * (((setModuli m).zip (setCoeffs m)).map (fun q => (q.2 : Int))).sum [ZMOD setProduct m] := hsum
    _ ≡ (0 : Nat) + x * 1 [ZMOD setProduct m] := ((sum_setCoeffs_modEq_one m).mul_left x).add_left _
    _ = x := by simp

/-! ### The value in the centred range (R78, R84) -/

theorem centred_bounds {M v : Nat} (hv : v < M) : -(M : Int) ≤ 2 * centred M v ∧ 2 * centred M v < M := by
  unfold centred
  split <;> omega

theorem centred_modEq (M v : Nat) : centred M v ≡ v [ZMOD M] := by
  unfold centred
  split
  · exact Int.modEq_iff_dvd.mpr (by simp)
  · rfl

/-- The centred range holds one value of each class modulo `M`. -/
theorem centred_of_modEq {M v : Nat} {x : Int} (hv : v < M) (hmod : (v : Int) ≡ x [ZMOD M]) (hlo : -(M : Int) ≤ 2 * x) (hhi : 2 * x < M) :
    centred M v = x := by
  obtain ⟨hclo, hchi⟩ := centred_bounds hv
  have hdvd : (M : Int) ∣ x - centred M v := ((centred_modEq M v).trans hmod).dvd
  have hzero : x - centred M v = 0 := Int.eq_zero_of_abs_lt_dvd hdvd (abs_lt.mpr (by omega))
  omega

/-! ### Reconstruction from the residues of a value (R84, R85) -/

/-- The data channels decide the value; the tally's residue, the last, decides the mismatch alone. -/
theorem reconstruct_of_zip_eq {m : MSet} {x : Int} {rs : List Nat} (qa : Nat) (n p : Int) (hlo : -(setProduct m : Int) ≤ 2 * x)
    (hhi : 2 * x < setProduct m) (hdata : rs.zip (setCoeffs m) = (residuesOf m x).zip (setCoeffs m)) :
    reconstruct m rs qa n p =
      { value := x, tally := decide (x % ((setModuli m).getLastD 1 : Int) ≠ (rs.getLastD 0 : Int))
        range := decide (x < qa * n ∨ qa * p < x) } := by
  have hsum : dataSum m rs = dataSum m (residuesOf m x) := congrArg (List.foldl _ 0) hdata
  have hvalue : centred (setProduct m) (dataSum m rs) = x :=
    hsum ▸ centred_of_modEq (dataSum_lt m _) (dataSum_residuesOf_modEq m x) hlo hhi
  rw [reconstruct_eq, hvalue]

theorem getLastD_residuesOf (m : MSet) (x : Int) :
    ((residuesOf m x).getLastD 0 : Int) = x % ((setModuli m).getLastD 1 : Int) := by
  cases m <;> exact Int.toNat_of_nonneg (Int.emod_nonneg x (by decide))

theorem zip_replace_tally (m : MSet) (x : Int) (r : Nat) :
    ((residuesOf m x).dropLast ++ [r]).zip (setCoeffs m) = (residuesOf m x).zip (setCoeffs m) := by
  cases m <;> rfl

theorem reconstruct_residuesOf {m : MSet} {x : Int} (qa : Nat) (n p : Int) (hlo : -(setProduct m : Int) ≤ 2 * x) (hhi : 2 * x < setProduct m) :
    reconstruct m (residuesOf m x) qa n p = { value := x, tally := false, range := decide (x < qa * n ∨ qa * p < x) } := by
  rw [reconstruct_of_zip_eq qa n p hlo hhi rfl, getLastD_residuesOf]
  simp

theorem reconstruct_tally_of_ne {m : MSet} {x : Int} {r : Nat} (qa : Nat) (n p : Int) (hlo : -(setProduct m : Int) ≤ 2 * x)
    (hhi : 2 * x < setProduct m) (hne : r ≠ (residuesOf m x).getLastD 0) :
    (reconstruct m ((residuesOf m x).dropLast ++ [r]) qa n p).tally = true := by
  rw [reconstruct_of_zip_eq qa n p hlo hhi (zip_replace_tally m x r), ← getLastD_residuesOf, List.getLastD_concat]
  exact decide_eq_true (by omega)

/-- The residues as the statement of O38 writes them, over the list of moduli taken to the integers. -/
theorem map_intModuli_eq_residuesOf (m : MSet) (x : Int) : (setModuli m).map (fun k => (x % (k : Int)).toNat) = residuesOf m x := by
  cases m <;> rfl

/-! ### Planes (R83) -/

/-- The levels of a channel's planes, plane 0 first, weighted by the powers of two. -/
def planeSum (ls : List Nat) : Nat := (((List.range ls.length).zip ls).map (fun q => 2 ^ q.1 * q.2)).sum

theorem planeSum_cons (l : Nat) (ls : List Nat) : planeSum (l :: ls) = 2 * planeSum ls + l := by
  have hshift : ((List.range ls.length).zip ls).map (fun q => 2 ^ (q.1 + 1) * q.2)
      = ((List.range ls.length).zip ls).map (fun q => 2 * (2 ^ q.1 * q.2)) :=
    List.map_congr_left (fun q _ => by ring)
  simp [planeSum, List.range_succ_eq_map, List.zip_map_left, Function.comp_def, hshift, List.sum_map_mul_left, Nat.add_comm]

/-- Horner's rule modulo `m` at every step is the weighted sum modulo `m`. -/
theorem combine_eq_planeSum_mod (m : Nat) (ls : List Nat) : combine m ls = planeSum ls % m := by
  induction ls with
  | nil => simp [combine, planeSum]
  | cons l ls ih => simp [combine, ih, planeSum_cons, Nat.add_mod, Nat.mul_mod]

/-! ### Accumulators (R87, R88) -/

section
variable {slot task vec out : Nat} {v : Int} {chunks : Nat} {a : Acc} {rest : List Acc}

/-- The accumulator of the output in front is the one a value enters. -/
theorem accAdd_cons_of_key (hslot : a.slot = slot) (htask : a.task = task) (hvec : a.vec = vec) (hout : a.out = out) :
    accAdd slot task vec out v chunks (a :: rest) =
      if inRange32 (a.value + v) then some ({ a with value := a.value + v, chunks := a.chunks + chunks } :: rest) else none := by
  simp [accAdd, hslot, htask, hvec, hout]

/-- A value of an output that has none yet opens an accumulator behind the others. -/
theorem accAdd_of_absent (hv : inRange32 v = true) (accs : List Acc)
    (habsent : accs.any (fun a => a.slot = slot ∧ a.task = task ∧ a.vec = vec ∧ a.out = out) = false) :
    accAdd slot task vec out v chunks accs
      = some (accs ++ [{ slot := slot, task := task, vec := vec, out := out, value := v, chunks := chunks }]) := by
  induction accs with
  | nil => simp [accAdd, hv]
  | cons a rest ih =>
    rw [List.any_cons, Bool.or_eq_false_iff, decide_eq_false_iff_not] at habsent
    obtain ⟨hother, hrest⟩ := habsent
    simp [accAdd, hother, ih hrest]

end

end Sys2Proof.Machine

namespace Sys2Proof.Proofs

open Sys2Proof.Machine

/-- Settles O38: the constants of R84 bring the residues back to the value modulo the data product, and the centred range holds it once. -/
theorem reconstructionInverts : Obligations.ReconstructionInverts := by
  unfold Obligations.ReconstructionInverts
  intro m x qa n p hlo hhi
  rw [map_intModuli_eq_residuesOf]
  exact ⟨reconstruct_residuesOf qa n p hlo hhi, fun _ _ hne => reconstruct_tally_of_ne qa n p hlo hhi hne⟩

/-- Settles O39: Horner's rule by induction on the planes, and the accumulator of an output in front or not there yet. -/
theorem planesAndAccumulators : Obligations.PlanesAndAccumulators := by
  unfold Obligations.PlanesAndAccumulators
  refine ⟨combine_eq_planeSum_mod, fun slot task vec out v accs => ⟨?enters, ?leaves, ?opens⟩⟩
  case enters =>
    rintro a rest rfl hslot htask hvec hout hrange
    rw [accAdd_cons_of_key hslot htask hvec hout, if_pos hrange]
  case leaves =>
    rintro a rest rfl hslot htask hvec hout hrange
    rw [accAdd_cons_of_key hslot htask hvec hout, hrange, if_neg Bool.false_ne_true]
  case opens => exact fun habsent hv => accAdd_of_absent hv accs habsent

end Sys2Proof.Proofs
end

section
/-! SUPPORT. The entries of the engines beside the stalls, for a task that may act: the table engine, the SQU, the XL, transfers, stream lanes
and the links. -/

namespace Sys2Proof.Machine

variable {slot task : Nat} {g : Graph} {s : State}

/-! ### The table engine (R140, R141, R143) -/

theorem exec_lgeEntry_of_acts (h : s.Acts slot task g) (hkind : (taskAt g task).kind = kLutGemv)
    (hserves : operandStatus s g (taskAt g task) = Status.ok) :
    let n := sliceColumns (max 1 (taskAt g task).d2.toNat)
    exec (.lgeEntry slot task) s
      = .next (each (List.range (((taskAt g task).d0.toNat + n - 1) / n)) (fun i u => lgeSlice slot task g (taskAt g task) (i * n) u)
          (noteInputs slot task s)) := by
  obtain ⟨hgraph, hready⟩ := h
  show execLgeEntry slot task s = _
  simp [execLgeEntry, hgraph, hready, hkind, hserves]

/-- Columns that fit in one slice make one slice. -/
theorem sliceCount_of_le {k n : Nat} (hk : k ≠ 0) (hfits : k ≤ n) : (k + n - 1) / n = 1 :=
  Nat.div_eq_of_lt_le (by omega) (by omega)

theorem exec_lgeEntry_oneSlice (h : s.Acts slot task g) (hkind : (taskAt g task).kind = kLutGemv)
    (hserves : operandStatus s g (taskAt g task) = Status.ok) (hcolumns : (taskAt g task).d0 ≠ 0)
    (hfits : (taskAt g task).d0.toNat ≤ sliceColumns (max 1 (taskAt g task).d2.toNat)) :
    exec (.lgeEntry slot task) s = .next (lgeSlice slot task g (taskAt g task) 0 (noteInputs slot task s)) := by
  have hone := sliceCount_of_le (fun hzero => hcolumns (BitVec.eq_of_toNat_eq hzero)) hfits
  rw [exec_lgeEntry_of_acts h hkind hserves, hone, List.range_one, each, each, Nat.zero_mul]

/-- A slice that holds every column of the task looks up the whole of each output. -/
theorem lgeSlice_whole {t : Task} (hfits : t.d0.toNat ≤ sliceColumns (max 1 t.d2.toNat)) :
    let k := t.d0.toNat
    let tables := (List.range t.d2.toNat).map (fun v => (List.range k).map (fun i => productTable (tdWfmt t) (int8At s g t v i)))
    let b : LgeBank := { slot := slot, task := task, first := 0, tables := tables.flatten }
    let u := serveBank 1 b (serveBank 0 b s)
    lgeSlice slot task g t 0 s = each ((List.range t.d2.toNat).zip tables) (fun p u =>
      each (List.range t.d1.toNat) (fun o u =>
        if taskReady u slot task then
          accept .lge 2 (decide (t.d1.toNat ≤ 2 * o)) slot task p.1 o (lookupSum u g t p.2 0 o) ((k + 63) / 64) u
        else u) u)
      { u with lge := { u.lge with cur := { u.lge.cur with lookups := u.lge.cur.lookups + k * t.d1.toNat * t.d2.toNat } } } := by
  simp only [lgeSlice, Nat.sub_zero, Nat.min_eq_right hfits, Nat.zero_add]

/-! ### Rescale, harvest and the exact lane (R118, R132, R133, R154) -/

theorem exec_squEntry_of_sums (h : s.Acts slot task g) (hkind : (taskAt g task).kind = kPassGroup ∨ (taskAt g task).kind = kLutGemv)
    (hserves : operandStatus s g (taskAt g task) = Status.ok) (hsums : sumsReady s g slot task = true) :
    exec (.squEntry slot task) s = .next (let u := completeWith slot task g (rescaledRows s g slot task) (noteInputs slot task s)
      { u with psr := { u.psr with accs := u.psr.accs.filter (fun a => a.slot ≠ slot ∨ a.task ≠ task) }
               xl := { u.xl with outlier := u.xl.outlier.filter (fun o => o.1 ≠ slot ∨ o.2.1 ≠ task) } }) := by
  obtain ⟨hgraph, hready⟩ := h
  show execSquEntry slot task s = _
  simp [execSquEntry, hgraph, hready, hkind, hserves, hsums]

theorem exec_squEntry_of_harvest (h : s.Acts slot task g) (hkind : (taskAt g task).kind = kHarvest)
    (hserves : operandStatus s g (taskAt g task) = Status.ok) :
    exec (.squEntry slot task) s = .next (completeWith slot task g (harvestRows s g (taskAt g task)) (noteInputs slot task s)) := by
  obtain ⟨hgraph, hready⟩ := h
  have hmatrix : ¬ (kHarvest = kPassGroup ∨ kHarvest = kLutGemv) := by decide
  show execSquEntry slot task s = _
  simp [execSquEntry, hgraph, hready, hkind, hmatrix, hserves]

theorem exec_xlEntry_of_operator (h : s.Acts slot task g) (hkind : (taskAt g task).kind = kXlOp)
    (hserves : operandStatus s g (taskAt g task) = Status.ok) :
    exec (.xlEntry slot task) s = .next (xlOperator slot task g (noteInputs slot task s)) := by
  obtain ⟨hgraph, hready⟩ := h
  show execXlEntry slot task s = _
  simp [execXlEntry, hgraph, hready, hkind, hserves]

/-! ### Transfers (R165, R170, R347) -/

theorem exec_transferEntry_eq_moveOne (h : s.Acts slot task g) (hkind : (taskAt g task).kind = kTransfer) (hlist : tdList (taskAt g task) = false) :
    let m := moveOne g task (taskAt g task).a.toNat (taskAt g task).res.toNat (taskAt g task).d0.toNat s
    exec (.transferEntry slot task) s = .next (taskEnd slot task m.1 0 m.2.1 m.2.2) := by
  obtain ⟨hgraph, hready⟩ := h
  show execTransferEntry slot task s = _
  simp [execTransferEntry, hgraph, hready, hkind, hlist]

@[simp] theorem moveOne_zero (src dst : Nat) : moveOne g task src dst 0 s = (Status.ok, 0, s) := by
  simp [moveOne]

@[simp] theorem addInput_hif (bs : List Byte) : (addInput slot task bs s).hif = s.hif := rfl

/-- A move of bytes that serve, no weight load, writes them; what the egress buffer then says decides its status and its length. -/
theorem moveOne_of_serves {src dst len : Nat} (hload : tdWeightLoad (taskAt g task) = false) (hlen : len ≠ 0)
    (hread : rangeStatus s g src false len = Status.ok) (hwrite : rangeStatus s g dst true len = Status.ok) :
    let bs := taskBytes s g src len
    let u := taskWrite g dst bs (addInput g.slot task bs s)
    moveOne g task src dst len s
      = ((egressOutcome Status.ok u).1, if u.hif.egressFull then u.hif.egress.length - s.hif.egress.length else len,
          (egressOutcome Status.ok u).2) := by
  simp [moveOne, hload, hlen, hread, hwrite]

theorem egressOutcome_of_room {u : State} (status : BitVec 16) (hroom : u.hif.egressFull = false) : egressOutcome status u = (status, u) :=
  if_neg (by simp [hroom])

theorem egressOutcome_of_full {u : State} (status : BitVec 16) (hfull : u.hif.egressFull = true) :
    egressOutcome status u = (Status.hwUnitFault, raise .hif 2 {} { u with hif := { u.hif with egressFull := false } }) :=
  if_pos hfull

/-! ### Stream lanes (R184, R185) -/

theorem exec_laneEntry_of_laneIn (h : s.Acts slot task g) (hkind : (taskAt g task).kind = kLaneIn)
    (hserves : rangeStatus s g (taskAt g task).res.toNat true (extentRes s (taskAt g task)) = Status.ok) :
    exec (.laneEntry slot task) s = .next (laneIn slot task g s) := by
  obtain ⟨hgraph, hready⟩ := h
  show execLaneEntry slot task s = _
  simp [execLaneEntry, hgraph, hready, hkind, hserves]

theorem exec_laneEntry_of_laneOut (h : s.Acts slot task g) (hkind : (taskAt g task).kind = kLaneOut)
    (hserves : rangeStatus s g (taskAt g task).a.toNat false (extentA s (taskAt g task)) = Status.ok) :
    exec (.laneEntry slot task) s = .next (laneOut slot task g (noteInputs slot task s)) := by
  obtain ⟨hgraph, hready⟩ := h
  have hout : kLaneOut ≠ kLaneIn := by decide
  show execLaneEntry slot task s = _
  simp [execLaneEntry, hgraph, hready, hkind, hout, hserves]

/-! ### Links (R170, R247, R249, R252) -/

theorem exec_linkEntry_of_empty (h : s.Acts slot task g) (hkind : (taskAt g task).kind = kCollective) (hfree : liveColl s = none)
    (hempty : (taskAt g task).d1 = 0) : exec (.linkEntry slot task) s = .next (taskEnd slot task Status.ok 0 0 s) := by
  obtain ⟨hgraph, hready⟩ := h
  show execLinkEntry slot task s = _
  simp [execLinkEntry, hgraph, hready, hkind, hfree, hempty]

theorem advanceTo_ole (t : Nat) : (advanceTo t s).ole = s.ole := rfl

/-- The group's size is all of the state that a collective's descriptor depends on. -/
theorem collOf_advanceTo (t : Nat) : collOf (advanceTo t s) g task = collOf s g task := rfl

/-- The engines are free: the contribution is copied to its slot at the entry's work cycle, and phase 0 begins. -/
theorem exec_linkEntry_of_free (h : s.Acts slot task g) (hkind : (taskAt g task).kind = kCollective) (hfree : liveColl s = none)
    (hvalues : (taskAt g task).d1 ≠ 0) :
    let v := advanceTo (timeOfWork (s.seq.workAt + linkStart s slot task) s) s
    let cd := collOf s g task
    let size := contribution (taskAt g task)
    let recv := commonAt (cdRecv cd)
    operandStatus v g (taskAt g task) = Status.ok → rangeStatus v g recv true (s.ole.size.toNat * size) = Status.ok →
    exec (.linkEntry slot task) s = .next (
      let w := noteInputs slot task v
      let u := taskWrite g (recv + w.ole.index.toNat * size) (taskBytes w g (taskAt g task).a.toNat size) w
      startPhase 0 { u with ole := { u.ole with
        coll := some { slot := slot, task := task, phase := 0, phases := cdPhases cd, recv := recv, size := size } } }) := by
  intro v cd size recv hserves hreceives
  obtain ⟨hgraph, hready⟩ := h
  show execLinkEntry slot task s = _
  have hgo : ¬ ((taskAt g task).kind ≠ kCollective ∨ (liveColl s).isSome = true) := by simp [hkind, hfree]
  have hstatus : (if operandStatus v g (taskAt g task) = Status.ok then
      rangeStatus v g (commonAt (cdRecv (collOf v g task))) true (v.ole.size.toNat * size)
    else operandStatus v g (taskAt g task)) = Status.ok := by
    rw [if_pos hserves, collOf_advanceTo, advanceTo_ole, hreceives]
  rw [execLinkEntry, if_neg (by simp [hready]), hgraph]
  exact (if_neg hgo).trans ((if_neg hvalues).trans (if_neg (not_not_intro hstatus)))

end Sys2Proof.Machine

namespace Sys2Proof.Proofs

open Sys2Proof.Machine

/-- Settles O41: each entry has one outcome under its conditions; a table of one slice is the slice from column 0, and a transfer splits on
whether its bytes filled the egress buffer. -/
theorem engineEntries : Obligations.EngineEntries := by
  unfold Obligations.EngineEntries
  intro slot task g s h
  refine ⟨?slices, ?oneSlice, ?rescale, ?harvest, ?operator, ?nothing, ?move, ?laneIn, ?laneOut, ?empty, ?collective⟩
  case slices => exact exec_lgeEntry_of_acts h
  case oneSlice =>
    intro hkind hserves hcolumns hfits
    exact (exec_lgeEntry_oneSlice h hkind hserves hcolumns hfits).trans (congrArg Host.Outcome.next (lgeSlice_whole hfits))
  case rescale => exact exec_squEntry_of_sums h
  case harvest => exact exec_squEntry_of_harvest h
  case operator => exact exec_xlEntry_of_operator h
  case nothing =>
    intro hkind hlist hlen
    rw [exec_transferEntry_eq_moveOne h hkind hlist, hlen]
    rfl
  case move =>
    intro hkind hlist hload hlen hread hwrite
    have hlen : (taskAt g task).d0.toNat ≠ 0 := fun hzero => hlen (BitVec.eq_of_toNat_eq hzero)
    rw [exec_transferEntry_eq_moveOne h hkind hlist, moveOne_of_serves hload hlen hread hwrite]
    exact ⟨fun hroom => by simp only [egressOutcome_of_room _ hroom, hroom, Bool.false_eq_true, if_false],
      fun hfull => by simp only [egressOutcome_of_full _ hfull, hfull, if_true]⟩
  case laneIn => exact exec_laneEntry_of_laneIn h
  case laneOut => exact exec_laneEntry_of_laneOut h
  case empty => exact exec_linkEntry_of_empty h
  case collective => exact fun hkind hfree hvalues => exec_linkEntry_of_free h hkind hfree hvalues

end Sys2Proof.Proofs
end

section
/-! SUPPORT. A step on an empty queue, and the almanac entries of a task that may not act. -/

namespace Sys2Proof.Machine

variable {s : State}

/-! ### Nothing waits (log 13; R254, R284, R319) -/

theorem step_of_empty (h : s.pending = []) : step s = .next (idle s) := by
  rw [step, h]

theorem sendRequests_of_none (h : s.ole.requests = []) : sendRequests s = s := by
  have hole : ({ s.ole with requests := [] } : Ole) = s.ole := by rw [← h]
  show each (sortBy _ s.ole.requests) _ { s with ole := { s.ole with requests := [] } } = s
  rw [h, hole]
  rfl

theorem runWaiting_of_none (h : s.msc.waiting = []) : runWaiting s = s := by
  have hmsc : ({ s.msc with waiting := [] } : Msc) = s.msc := by rw [← h]
  show each s.msc.waiting _ { s with msc := { s.msc with waiting := [] } } = s
  rw [h, hmsc]
  rfl

/-- Where no request, step of system calibration or accepted command waits, a nanosecond passes and that is all. -/
theorem idle_of_nothing_waits (hrequests : s.ole.requests = []) (hstep : s.cal.sysRun = none) (hwaiting : s.msc.waiting = []) :
    idle s = elapse 1 s := by
  have hsent : sendRequests (tick s) = elapse 1 s := sendRequests_of_none hrequests
  have hsettled : (elapse 1 s).cal.sysRun.any (fun r => decide (r.since + 500000000 ≤ now (elapse 1 s))) = false := by
    rw [elapse_cal, hstep]
    rfl
  simp only [idle, hsent, hsettled, Bool.false_eq_true, if_false]
  exact runWaiting_of_none hwaiting

end Sys2Proof.Machine

namespace Sys2Proof.Proofs

open Sys2Proof.Machine

/-- Settles O2: an empty queue steps to `idle`, and the nanosecond itself changes hall time, the calendar and the counts of work cycles and
skipped periods alone. -/
theorem idleStep : Obligations.IdleStep := by
  unfold Obligations.IdleStep
  intro s hempty
  exact ⟨step_of_empty hempty, idle_of_nothing_waits, rfl, rfl, rfl, rfl, rfl, rfl, rfl, rfl, rfl⟩

/-- Settles O42: each of the six rows asks first whether its task may act. -/
theorem entriesWait : Obligations.EntriesWait := by
  unfold Obligations.EntriesWait
  intro slot task s hready
  have hwaits : (!taskReady s slot task) = true := by rw [hready]; rfl
  refine ⟨?table, ?squ, ?exactLane, ?transfer, ?lane, ?link⟩
  case table => show execLgeEntry slot task s = _; exact if_pos hwaits
  case squ => show execSquEntry slot task s = _; exact if_pos hwaits
  case exactLane => show execXlEntry slot task s = _; exact if_pos hwaits
  case transfer => show execTransferEntry slot task s = _; exact if_pos hwaits
  case lane => show execLaneEntry slot task s = _; exact if_pos hwaits
  case link => show execLinkEntry slot task s = _; exact if_pos hwaits

end Sys2Proof.Proofs
end

section
/-! SUPPORT. The rows of 802.1AS, of the control link and of the gate cycle. -/

namespace Sys2Proof.Machine

variable {s : State}

/-! ### 802.1AS (R182, R306) -/

/-- With no graph resident an offset beyond 1 ms is stepped at once. -/
theorem takeSync_of_far {offset : Int} (hgraphs : s.seq.graphs = []) (hfar : 1000000 < offset.natAbs) :
    takeSync offset s
      = stepHallTime offset { s with tsl := { s.tsl with offset := within (-32768) 32767 offset, sync := .acquiring, slew := 0 } } :=
  if_pos ⟨List.isEmpty_iff.2 hgraphs, hfar⟩

theorem exec_ptpMessage_sync {li offset : Int} (hpower : s.msc.mode ≠ .off) (hlow : -3 ≤ li) (hhigh : li ≤ 0) :
    exec (.ptpMessage (.sync 0 li offset)) s = .next (takeSync offset s) := by
  show execPtpMessage (.sync 0 li offset) s = _
  rw [execPtpMessage, if_neg hpower]
  exact if_pos ⟨rfl, hlow, hhigh⟩

theorem exec_ptpMessage_pdelayReq (hpower : s.msc.mode ≠ .off) :
    exec (.ptpMessage (.pdelayReq 0)) s = .next (emit (.pdelay false (vlanOf s true)) s) := by
  show execPtpMessage (.pdelayReq 0) s = _
  rw [execPtpMessage, if_neg hpower]
  rfl

theorem exec_pdelayRequestTimer_of_power (hpower : s.msc.mode ≠ .off) : exec .pdelayRequestTimer s
    = .next (emit (.pdelay true (vlanOf s true)) { s with tsl := { s.tsl with pdelay := s.tsl.pdelay + 1 } }) := by
  show execPdelayRequestTimer s = _
  exact if_neg hpower

theorem syncLoss_of_not_holdover (h : s.tsl.sync ≠ .holdover) :
    syncLoss s = raise .tsl 1 {} { s with tsl := { s.tsl with sync := .holdover, slew := 0 } } :=
  if_neg h

theorem exec_grandmasterLoss_of_power (hpower : s.msc.mode ≠ .off) : exec .grandmasterLoss s = .next (syncLoss s) := by
  show execGrandmasterLoss s = _
  exact if_neg hpower

/-! ### The control link and the gate cycle (R305, R314, R327) -/

theorem exec_controlLinkUp_of_power (hpower : s.msc.mode ≠ .off) (sqi : BitVec 3) :
    exec (.controlLinkUp sqi) s = .next { s with cp := { s.cp with linkUp := true, sqi := sqi } } := by
  show execControlLinkUp sqi s = _
  exact if_neg hpower

theorem exec_controlLinkDown_of_up (hup : s.cp.linkUp = true) : exec .controlLinkDown s
    = .next (syncLoss (raise .cp 1 {} { s with cp := { s.cp with linkUp := false, linkDrops := sat 0xFF (s.cp.linkDrops + 1) } })) := by
  show execControlLinkDown s = _
  exact if_neg (by rw [hup]; decide)

theorem exec_qbvCycleStart_of_enabled (hserves : portServes s = true) (hen : s.cp.qbvEn = true) (hcycle : s.cp.qbvCycle ≠ 0) :
    exec .qbvCycleStart s = .next (let t := advanceTo (cycleStart s (now s)) s
      { t with cp := { t.cp with gateInForce := true } }) := by
  have hgoes : ¬ ((!portServes s) = true ∨ (!s.cp.qbvEn) = true ∨ s.cp.qbvCycle = 0) := by
    rw [hserves, hen]
    simpa using hcycle
  show execQbvCycleStart s = _
  exact if_neg hgoes

end Sys2Proof.Machine

namespace Sys2Proof.Proofs

open Sys2Proof.Machine

/-- Settles O21: with power every row acts, and a far offset, a lost grandmaster and an enabled list each take the branch named. -/
theorem timeAndLink : Obligations.TimeAndLink := by
  unfold Obligations.TimeAndLink
  intro s hpower
  refine ⟨?sync, exec_ptpMessage_pdelayReq hpower, exec_pdelayRequestTimer_of_power hpower, ?loss, exec_controlLinkUp_of_power hpower,
    exec_controlLinkDown_of_up, exec_qbvCycleStart_of_enabled⟩
  case sync =>
    intro li offset hlow hhigh hgraphs hfar
    rw [exec_ptpMessage_sync hpower hlow hhigh, takeSync_of_far hgraphs hfar]
  case loss =>
    intro hsync
    rw [exec_grandmasterLoss_of_power hpower, syncLoss_of_not_holdover hsync]

end Sys2Proof.Proofs
end

section
/-! SUPPORT. Units of output lanes at their time, tag records, and the batches of ledger rings. -/

namespace Sys2Proof.Machine

variable {s : State}

/-! ### Units of output lanes (R185) -/

theorem exec_laneUnitPresent_of_written {n : Nat} {u : OutUnit} {d : List Byte}
    (hdue : (laneAt s n).out.find? (fun u => !u.done && !u.late) = some u) (hdata : u.data = some d) :
    exec (.laneUnitPresent n) s = .next (presentLane n (advanceTo u.time s)) := by
  show execLaneUnitPresent n s = _
  rw [execLaneUnitPresent, hdue]
  dsimp only
  rw [hdata]

/-- A change of a lane that keeps whether it drops late units leaves that as it reads. -/
theorem laneAt_modLane_dropLate (n : Nat) (f : Lane → Lane) (h : ∀ l, (f l).dropLate = l.dropLate) (u : State) :
    (laneAt (modLane n f u) n).dropLate = (laneAt u n).dropLate :=
  update_getD_keeps u.tsl.lanes n f Lane.dropLate {} h

/-- Whether a lane drops late units is a setting, which the count of late units leaves. -/
theorem laneAt_laneLate_dropLate (n : Nat) (u : State) : (laneAt (laneLate n u) n).dropLate = (laneAt u n).dropLate := by
  rw [laneLate, laneAt, raise_tsl]
  exact laneAt_modLane_dropLate n (fun l => { l with late := sat 0xFFFF (l.late + 1) }) (fun _ => rfl) u

theorem exec_laneUnitPresent_of_late {n : Nat} {u : OutUnit}
    (hdue : (laneAt s n).out.find? (fun u => !u.done && !u.late) = some u) (hdata : u.data = none) (hwaits : (laneAt s n).dropLate = false) :
    exec (.laneUnitPresent n) s = .next (laneLate n (modLane n (fun l => { l with
      out := l.out.map (fun v => if v = u then { v with late := true } else v) }) (advanceTo u.time s))) := by
  show execLaneUnitPresent n s = _
  rw [execLaneUnitPresent, hdue]
  dsimp only
  rw [hdata]
  refine if_neg ?_
  rw [laneAt_laneLate_dropLate, laneAt_modLane_dropLate]
  · exact Bool.eq_false_iff.1 hwaits
  · exact fun _ => rfl

/-! ### Tag records and batches (R210 to R213) -/

theorem exec_tagRecordWrite_of_waiting {slot task : Nat} {g : Graph} {r : Run} {p : TagPrep} (hgraph : graphAt s slot = some g)
    (hrun : g.run = some r) (hwaits : r.tagWait.find? (fun p => p.task = task) = some p) :
    exec (.tagRecordWrite slot task) s = .next (
      let i := g.ledgerRing
      let record := tagRecord s g (ringOf s i).ledgerSeq p
      let u := modGraph slot (fun g => { g with run := g.run.map (fun r =>
        { r with tagWait := r.tagWait.filter (fun q => q.task ≠ task), tags := r.tags - 2 }) }) s
      let u := modRing i (fun q => { q with ledgerSeq := q.ledgerSeq + 1 }) u
      finishRun slot (passCopy i record (ringPushReserved i (record.drop 64) (ringPushReserved i (record.take 64) u)))) := by
  have hprep : g.run.bind (fun r => r.tagWait.find? (fun p => p.task = task)) = some p := by rw [hrun]; exact hwaits
  show execTagRecordWrite slot task s = _
  rw [execTagRecordWrite, hgraph]
  dsimp only
  rw [hprep]

/-- An open batch that holds a record closes: it waits to be signed, and the next one is empty. -/
theorem closeBatch_of_open {i : Nat} (hopen : (ringOf s i).batch ≠ []) : closeBatch i s
    = setRing i { ringOf s i with
        closed := (ringOf s i).closed ++ [((ringOf s i).batchFirst, (ringOf s i).batchGap, s.msc.ledgerSlot, (ringOf s i).batch)]
        batch := [], batchGap := false } s :=
  if_neg (mt List.isEmpty_iff.1 hopen)

/-- The batch that closes at a later time is the one open now. -/
theorem closeBatch_advanceTo_of_open {i : Nat} (t : Nat) (hopen : (ringOf s i).batch ≠ []) : closeBatch i (advanceTo t s)
    = setRing i { ringOf s i with
        closed := (ringOf s i).closed ++ [((ringOf s i).batchFirst, (ringOf s i).batchGap, s.msc.ledgerSlot, (ringOf s i).batch)]
        batch := [], batchGap := false } (advanceTo t s) :=
  closeBatch_of_open (s := advanceTo t s) hopen

theorem exec_ledgerBatchTimeout_of_open {ring : BitVec 14} (hcore : s.msc.running = true) (hopen : (ringOf s ring.toNat).batch ≠ []) :
    exec (.ledgerBatchTimeout ring) s
      = .next (closeBatch ring.toNat (advanceTo ((ringOf s ring.toNat).batchAt + 1000000000) s)) := by
  have hdue : ¬ ((ringOf s ring.toNat).batch.isEmpty = true ∨ s.msc.running = false) := by simp [hopen, hcore]
  show execLedgerBatchTimeout ring s = _
  exact if_neg hdue

theorem exec_signatureRecord_of_closed {ring : BitVec 14} {b : Nat × Bool × Nat × List (List Byte)}
    {rest : List (Nat × Bool × Nat × List (List Byte))} (hcore : s.msc.running = true) (hclosed : (ringOf s ring.toNat).closed = b :: rest)
    (hring : (ringOf s ring.toNat).state ≠ .disabled) :
    exec (.signatureRecord ring) s = .next (
      writeSignatures ring.toNat ((ringOf s ring.toNat).sigWait.length + 1)
        (setRing ring.toNat { ringOf s ring.toNat with
          closed := rest, sigWait := (ringOf s ring.toNat).sigWait ++ [signatureRecord s b] } s)) := by
  have hsigns : ¬ (s.msc.running = false ∨ (ringOf s ring.toNat).state = .disabled) := by simp [hcore, hring]
  show execSignatureRecord ring s = _
  rw [execSignatureRecord]
  dsimp only
  rw [hclosed]
  exact if_neg hsigns

end Sys2Proof.Machine

namespace Sys2Proof.Proofs

open Sys2Proof.Machine

/-- Settles O43: a unit due splits on whether it is written, and the ledger's rows act where they have a record, an open batch or a closed one. -/
theorem lanesTagsAndBatches : Obligations.LanesTagsAndBatches := by
  unfold Obligations.LanesTagsAndBatches
  intro s
  refine ⟨?written, ?late, ?tag, ?batches⟩
  case written => exact fun _ _ _ hdue hdata => exec_laneUnitPresent_of_written hdue hdata
  case late => exact fun _ _ hdue hdata hwaits => exec_laneUnitPresent_of_late hdue hdata hwaits
  case tag => exact fun _ _ _ _ _ hgraph hrun hwaits => exec_tagRecordWrite_of_waiting hgraph hrun hwaits
  case batches =>
    intro ring hcore
    refine ⟨fun hopen => ?_, fun _ _ hclosed hring => exec_signatureRecord_of_closed hcore hclosed hring⟩
    rw [exec_ledgerBatchTimeout_of_open hcore hopen]
    exact congrArg Host.Outcome.next (closeBatch_advanceTo_of_open _ hopen)

end Sys2Proof.Proofs
end

section
/-! SUPPORT. The rows of an epoch's course, and how the epoch that opens is numbered. -/

namespace Sys2Proof.Machine

variable {s : State}

/-! ### Boundaries and fallow slots (R181, R183, R188, R189) -/

theorem exec_epochBoundary_of_due (hrun : running s = true) (hdue : s.seq.boundary = 0 ∨ s.seq.fallow = true ∧ ¬ s.seq.short = true) :
    exec .epochBoundary s = .next (openEpoch (openingAt s (nextBoundary s)) (advanceTo (nextBoundary s) s)) := by
  show execEpochBoundary s = _
  exact if_pos ⟨hrun, hdue⟩

theorem exec_fallowSlotBegin_in_time (o : SlotObs) (hawaits : awaitsSlot s = true) (hkept : s.seq.overrun = false)
    (htime : slotTime s + 5000 ≤ nextBoundary s) : exec (.fallowSlotBegin o) s = .next (
      let t := advanceTo (slotTime s) s
      let urgent := urgentRound (rateTriggered t.psr.cur) t
      retestLanes o.lanePasses (takeovers o.noTime o.takeoverDark
        (calibrateSlot o urgent (slotSteps o (nextBoundary t) urgent (beginSlot false t))))) := by
  show execFallowSlotBegin o s = _
  exact if_pos ⟨hawaits, Bool.eq_false_iff.1 hkept, htime⟩

theorem exec_epochOverrun_of_work (hrun : running s = true) (hopen : s.seq.boundary ≠ 0) (hwork : s.seq.fallow = false)
    (hkept : s.seq.overrun = false) : exec .epochOverrun s = .next (let t := advanceTo (nextBoundary s - 5000) s
      raise .seq 0 {} { t with seq := { t.seq with overrun := true, overruns := sat 0xFFFFFFFF (t.seq.overruns + 1) } }) := by
  show execEpochOverrun s = _
  exact if_pos ⟨hrun, hopen, Bool.eq_false_iff.1 hwork, Bool.eq_false_iff.1 hkept⟩

theorem exec_shortFallowSlot_of_overrun (o : SlotObs) (hawaits : awaitsSlot s = true) (hover : s.seq.overrun = true) :
    exec (.shortFallowSlot o) s = .next (let t := advanceTo (slotTime s) s
      skipReadings (slotSteps o (now t + 5000) false (beginSlot true t))) := by
  show execShortFallowSlot o s = _
  exact if_pos ⟨hawaits, hover⟩

theorem exec_lateBoundary_of_short (hrun : running s = true) (hopen : s.seq.boundary ≠ 0) (hfallow : s.seq.fallow = true)
    (hshort : s.seq.short = true) : exec .lateBoundary s
      = .next (openEpoch (openingAt s (s.seq.slotStart + 5000)) (advanceTo (s.seq.slotStart + 5000) s)) := by
  show execLateBoundary s = _
  exact if_pos ⟨hrun, hopen, hfallow, hshort⟩

/-! ### The number of the epoch that opens (R181, R189, R190) -/

/-- While no new length waits, an opening within the epoch lags behind its boundary, and a later one leaves that epoch lapsed. -/
theorem openingAt_of_kept_length (hlen : s.tsl.lenNext = s.tsl.len) (t : Nat) :
    let h := nextBoundary s
    let l := s.tsl.len.toNat * 50000
    openingAt s t = if t < h + l then { epoch := h / l, lag := t - h, lapsed := false, len := s.tsl.len }
      else { epoch := h / l + 1, lag := t - h - l, lapsed := true, len := s.tsl.len } := by
  have hkept : ¬ (s.tsl.lenNext ≠ s.tsl.len ∧ s.tsl.lenAt ≤ nextBoundary s) := fun hnew => hnew.1 hlen
  simp only [openingAt, if_neg hkept]

end Sys2Proof.Machine

namespace Sys2Proof.Proofs

open Sys2Proof.Machine

/-- Settles O44: each row of the course acts under its own condition, and an opening is numbered by whether it lies within the epoch. -/
theorem epochCourse : Obligations.EpochCourse := by
  unfold Obligations.EpochCourse
  intro s hrun
  refine ⟨?first, ?next, ?slot, ?overrun, ?short, ?late, ?number⟩
  case first => exact fun hfirst => exec_epochBoundary_of_due hrun (.inl hfirst)
  case next => exact fun hfallow hfull => exec_epochBoundary_of_due hrun (.inr ⟨hfallow, Bool.eq_false_iff.1 hfull⟩)
  case slot => exact fun o hawaits hkept htime => exec_fallowSlotBegin_in_time o hawaits hkept htime
  case overrun => exact exec_epochOverrun_of_work hrun
  case short => exact fun o hawaits hover => exec_shortFallowSlot_of_overrun o hawaits hover
  case late => exact exec_lateBoundary_of_short hrun
  case number =>
    intro t hlen _ l
    rw [openingAt_of_kept_length hlen t]
    exact ⟨fun hwithin => if_pos hwithin, fun hlapsed => if_neg (Nat.not_lt.2 hlapsed)⟩

end Sys2Proof.Proofs
end

section
/-! SUPPORT. What the end of a step of system calibration leaves of the sequencer: everything but the work cycles counted meanwhile. -/

namespace Sys2Proof.Machine

/-! ### The sequencer through a reacquisition (R267 to R269, R284, R285) -/

/-- A part of the state that `f` leaves for each element, `each` leaves. -/
theorem each_keeps {α β : Type} (part : State → β) (l : List α) (f : α → State → State) (h : ∀ a s, part (f a s) = part s) (s : State) :
    part (each l f s) = part s := by
  induction l generalizing s with
  | nil => rfl
  | cons a r ih => rw [each, ih, h]

@[simp] theorem pmaEvent_seq (b g : Nat) (detail : List Byte) (s : State) : (pmaEvent b g detail s).seq = s.seq := raise_seq _ _ _ s

theorem settleLine_seq (a k : Nat) (s : State) : (settleLine a k s).seq = s.seq := by
  unfold settleLine
  split
  · rfl
  · rfl
  next h r _ _ => exact each_keeps State.seq r (fun x => modStall x (fun st => { st with drop := .full })) (fun _ _ => rfl) _

theorem leaveLine_seq (g : Nat) (s : State) : (leaveLine g s).seq = s.seq := settleLine_seq _ _ _

theorem substitute_seq (g l : Nat) (s : State) : (substitute g l s).seq = s.seq := by
  unfold substitute
  dsimp only
  split
  · rfl
  · exact raise_seq _ _ _ _

theorem retireStall_seq (needed : Bool) (g : Nat) (s : State) : (retireStall needed g s).seq = s.seq := by
  unfold retireStall
  cases (stallAt s g).logical <;> cases needed <;> simp [substitute_seq]

theorem failStall_seq (o : CalObs) (g : Nat) (s : State) : (failStall o g s).seq = s.seq := by
  unfold failStall
  dsimp only
  split
  · split
    · rfl
    · exact pmaEvent_seq _ _ _ _
  · split
    · rw [retireStall_seq, leaveLine_seq]
    · rw [pmaEvent_seq, settleLine_seq, modStall_seq, modStall_seq, leaveLine_seq]

theorem failRows_seq (o : CalObs) (s : State) : (failRows o s).seq = s.seq := by
  refine each_keeps State.seq _ _ (fun g u => ?_) s
  split
  · rfl
  · exact failStall_seq o g u

theorem enterLoop_seq (z : Nat) (s : State) : (enterLoop z s).seq = s.seq := by
  unfold enterLoop
  split
  · rfl
  · exact raise_seq _ _ _ _

theorem zonesSet_seq (s : State) : (zonesSet s).seq = s.seq := by
  unfold zonesSet
  refine each_keeps State.seq _ _ (fun z u => ?_) _
  dsimp only
  split
  · exact enterLoop_seq z _
  · rfl

theorem commissionFirst_seq (o : CalObs) (s : State) : (commissionFirst o s).seq = s.seq := by
  unfold commissionFirst
  split
  · rfl
  · exact each_keeps State.seq o.drops (fun q => modStallCal q.1 (fun c => { c with commissioned := q.2 })) (fun _ _ => rfl) s

theorem setArcPower_seq (read : Nat → Option Nat) (a : Nat) (s : State) : (setArcPower read a s).seq = s.seq := by
  unfold setArcPower
  split <;> rfl

theorem latchFigures_seq (s : State) : (latchFigures s).seq = s.seq := rfl

theorem editionBuilt_seq (o : CalObs) (e : Edition) (s : State) : (editionBuilt o e s).seq = s.seq := by
  unfold editionBuilt
  extract_lets u _ _ _ v w
  calc (raise .cal 0 {} (latchFigures w)).seq
      _ = w.seq := by rw [raise_seq, latchFigures_seq]
      _ = v.seq := each_keeps State.seq _ _ (fun a t => setArcPower_seq _ a t) v
      _ = u.seq := rfl
      _ = s.seq := commissionFirst_seq o s

theorem startupCalibration_seq (o : CalObs) (s : State) : (startupCalibration o s).seq = s.seq := by
  unfold startupCalibration
  rw [editionBuilt_seq, zonesSet_seq, failRows_seq]

theorem reacquire_seq (o : CalObs) (s : State) : (reacquire o s).seq = s.seq := by
  unfold reacquire
  split
  · exact startupCalibration_seq o s
  · rw [editionBuilt_seq, failRows_seq]

theorem sysEnd_seq (r : SysRun) (s : State) : (sysEnd r s).seq = s.seq := reacquire_seq _ _

/-! ### The end of a step of system calibration (R284, R319) -/

@[simp] theorem complete_seq (who : Origin) (a : Answer) (s : State) : (complete who a s).seq = s.seq := by
  unfold complete
  cases who with
  | cp n dst seq o quiet =>
    dsimp only
    split
    · rfl
    · obtain ⟨_, _, _, h⟩ := portOnly_sendFrame _ true s
      rw [h]
  | ring i cookie => exact ringPushReserved_seq _ _ s

/-- The end of a step takes the time up to it, and the sequencer counts the work cycles that pass. -/
theorem finishStep_seq (s : State) : ∃ w, (finishStep s).seq = { s.seq with work := w } := by
  unfold finishStep
  split
  · exact ⟨s.seq.work, rfl⟩
  next r _ =>
    have hend : (sysEnd r (advanceTo (r.since + 500000000) s)).seq = (advanceTo (r.since + 500000000) s).seq := sysEnd_seq _ _
    dsimp only
    split
    · exact ⟨_, (complete_seq _ _ _).trans hend⟩
    · exact ⟨_, hend⟩

end Sys2Proof.Machine
end

section
/-! SUPPORT. Admission of graphs: what its record and its residence leave and change, and the commands over graphs once accepted. -/

namespace Sys2Proof.Machine

variable {r : Req} {s t : State} {d : Desc} {slot : Nat}

/-! ### What passing admission says of the state (R168, R169) -/

theorem demand_eq_none_iff (ok : Bool) (st : BitVec 16) (n x : Nat) : demand ok st n x = none ↔ ok = true := by
  cases ok <;> simp [demand, refuse]

/-- Check 1 of R169: a graph that passes them all is admitted by a running module. -/
theorem running_of_admissionCheck (h : admissionCheck s d = none) : running s = true := by
  have hfirst : checksFirst s d = none := by
    unfold admissionCheck at h
    split at h
    · cases h
    · assumption
  have hshape : checksShape s d = none := by
    unfold checksFirst at hfirst
    split at hfirst
    · cases hfirst
    · assumption
  have hdemand := List.findSome?_eq_none_iff.1 hshape (demand (running s) Status.notReady 1 0) (List.mem_cons_self ..)
  exact (demand_eq_none_iff _ _ _ _).1 hdemand

theorem mode_of_running (h : running s = true) : s.msc.mode = .idle ∨ s.msc.mode = .active := by
  unfold running at h
  simpa using (Bool.and_eq_true_iff.1 h).1

/-! ### The record of an admission and the residence of a graph (R168, R192, R391) -/

@[simp] theorem recordAdmission_seq (st : BitVec 16) (x : Nat) (s : State) : (recordAdmission st x s).seq
    = { s.seq with admitStatus := st, admitDetail := BitVec.ofNat 32 x, admitBad := [] } := by
  unfold recordAdmission
  dsimp only
  split
  · rfl
  · exact raise_seq _ _ _ _

@[simp] theorem recordAdmission_mode (st : BitVec 16) (x : Nat) (s : State) : (recordAdmission st x s).msc.mode = s.msc.mode := by
  unfold recordAdmission
  dsimp only
  split
  · rfl
  · exact raise_msc_mode _ _ _ _

@[simp] theorem enterMode_seq (m : Mode) (s : State) : (enterMode m s).seq = s.seq := by rw [enterMode, raise_seq]
@[simp] theorem enterMode_mode (m : Mode) (s : State) : (enterMode m s).msc.mode = m := by rw [enterMode, raise_msc_mode]

/-- The graph as it stands once resident in `slot` with its image digest. -/
def Graph.resident (slot : Nat) (digest : List Byte) (epoch : Nat) (g : Graph) : Graph :=
  { g with slot := slot, digest := digest, admitted := epoch }

/-- The running-maximum registers of a graph that enters residence, each from its first value (R126, R127). -/
def initRegs (slot : Nat) (g : Graph) (s : State) : State :=
  each ((List.range g.tasks.length).zip g.tasks) (fun p s =>
    if targetScaled (spTarget p.2) && spRunning p.2 then
      { s with squ := { s.squ with regs := takeReg 0 slot p.1 (zeros 16) [spInit p.2] s.squ.regs } }
    else s) s

theorem initRegs_keeps {β : Type} (part : State → β) (hsqu : ∀ (u : State) (q : Squ), part { u with squ := q } = part u)
    (slot : Nat) (g : Graph) (s : State) : part (initRegs slot g s) = part s := by
  refine each_keeps part _ _ (fun p u => ?_) s
  split
  · exact hsqu u _
  · rfl

/-- A graph among the resident ones, its registers taken and uncommitted calibration discarded; the mode of the module follows. -/
def enroll (slot : Nat) (g : Graph) (s : State) : State :=
  initRegs slot g (dropSyscal { s with seq := { s.seq with graphs := s.seq.graphs ++ [g] } })

theorem enroll_seq (slot : Nat) (g : Graph) (s : State) : (enroll slot g s).seq = { s.seq with graphs := s.seq.graphs ++ [g] } :=
  initRegs_keeps State.seq (fun _ _ => rfl) _ _ _

theorem enroll_mode (slot : Nat) (g : Graph) (s : State) : (enroll slot g s).msc.mode = s.msc.mode :=
  initRegs_keeps (fun u => u.msc.mode) (fun _ _ => rfl) _ _ _

theorem becomeResident_eq (slot : Nat) (g : Graph) (digest : List Byte) (s : State) : becomeResident slot g digest s
    = if (enroll slot (g.resident slot digest s.seq.epoch) s).msc.mode = .idle
      then enterMode .active (enroll slot (g.resident slot digest s.seq.epoch) s)
      else enroll slot (g.resident slot digest s.seq.epoch) s := rfl

theorem becomeResident_seq (slot : Nat) (g : Graph) (digest : List Byte) (s : State) : (becomeResident slot g digest s).seq
    = { s.seq with graphs := s.seq.graphs ++ [g.resident slot digest s.seq.epoch] } := by
  rw [becomeResident_eq]
  split
  · rw [enterMode_seq, enroll_seq]
  · rw [enroll_seq]

/-- A graph that a running module admits makes it ACTIVE, or finds it so. -/
theorem becomeResident_mode (slot : Nat) (g : Graph) (digest : List Byte) (h : s.msc.mode = .idle ∨ s.msc.mode = .active) :
    (becomeResident slot g digest s).msc.mode = .active := by
  rw [becomeResident_eq, enroll_mode]
  split
  next => exact enterMode_mode _ _
  next hidle => exact (enroll_mode _ _ _).trans (h.resolve_left hidle)

/-! ### Admission refused and passed (R168, R229) -/

theorem admitGraph_of_refused {a : Nat} {q : BitVec 16 × Nat} (h : admissionCheck s (descAt s a) = some q) :
    admitGraph a s = (q.1, q.2, 0, recordAdmission q.1 q.2 s) := by
  simp only [admitGraph, h]

theorem admitGraph_of_passed {a : Nat} (h : admissionCheck s (descAt s a) = none) :
    admitGraph a s = (Status.ok, 0, freeSlot s,
      becomeResident (freeSlot s) (candidate s (descAt s a)) (imageDigest s (descAt s a)) (recordAdmission Status.ok 0 s)) := by
  simp only [admitGraph, h]

/-- The state without the graph of `slot`, in which admission checks it again (R229). -/
def State.without (slot : Nat) (s : State) : State := { s with seq := { s.seq with graphs := s.seq.graphs.filter (fun p => p.slot ≠ slot) } }

/-- The registers that the graph of `slot` held are free. -/
def freeRegs (slot : Nat) (s : State) : State :=
  { s with squ := { s.squ with regs := s.squ.regs.map (fun r => if r.slot = slot then { r with used := false, hist := [] } else r) } }

theorem freeRegs_without_seq (slot : Nat) (s : State) : (freeRegs slot (s.without slot)).seq
    = { s.seq with graphs := s.seq.graphs.filter (fun p => p.slot ≠ slot) } := rfl

theorem readmit_of_refused {g : Graph} {q : BitVec 16 × Nat}
    (h : admissionCheck (s.without slot) (descAt s g.addr.toNat) = some q) :
    readmit slot g s = (q.1, q.2, slot, recordAdmission q.1 q.2 s) := by
  unfold State.without at h
  simp only [readmit, h]

theorem readmit_of_passed {g : Graph} (h : admissionCheck (s.without slot) (descAt s g.addr.toNat) = none) :
    readmit slot g s = (Status.ok, 0, slot, becomeResident slot { candidate (s.without slot) (descAt s g.addr.toNat) with owed := g.owed }
      (imageDigest s (descAt s g.addr.toNat)) (recordAdmission Status.ok 0 (freeRegs slot (s.without slot)))) := by
  unfold State.without at h
  simp only [readmit, h, State.without, freeRegs]

/-! ### What the commands over graphs do (R162, R169, R229, R322, R323) -/

theorem graphSubmit_of_refused {addr : DWord} {q : BitVec 16 × Nat}
    (h : admissionCheck (finishStep s) (descAt (finishStep s) addr.toNat) = some q) : graphSubmit addr s
      = (some (q.1, q.2, if q.1 = Status.ok then [BitVec.ofNat 8 0] else []), recordAdmission q.1 q.2 (finishStep s)) := by
  rw [graphSubmit, admitGraph_of_refused h]

theorem graphSubmit_of_passed {addr : DWord} (h : admissionCheck (finishStep s) (descAt (finishStep s) addr.toNat) = none) :
    graphSubmit addr s = (some (Status.ok, 0, [BitVec.ofNat 8 (freeSlot (finishStep s))]),
      becomeResident (freeSlot (finishStep s)) (candidate (finishStep s) (descAt (finishStep s) addr.toNat))
        (imageDigest (finishStep s) (descAt (finishStep s) addr.toNat)) (recordAdmission Status.ok 0 (finishStep s))) := by
  simp only [graphSubmit, admitGraph_of_passed h, if_true]

theorem graphRun_of_request {id : Word} {g : Graph} (hgraph : graphById s id = some g) (hperiod : g.period = 0) (hheld : g.held = false) :
    graphRun id s
      = (some (Status.ok, 0, le 8 (nextEpoch s)), modGraph g.slot (fun g => { g with requests := g.requests + 1 }) s) := by
  simp [graphRun, hgraph, hperiod, hheld]

theorem graphRelease_of_resident {id : Word} {g : Graph} (hgraph : graphById s id = some g) : graphRelease id s
    = done Status.ok (if g.run.isSome then modGraph g.slot (fun g => { g with releasing := true }) s else leaveResidence g.slot s) := by
  simp only [graphRelease, hgraph]
  split <;> rfl

theorem graphReadmit_of_held {id : Word} {g : Graph} {q : BitVec 16 × Nat × Nat × State} (hgraph : graphById s id = some g)
    (hheld : g.held = true) (hreadmit : readmit g.slot g s = q) :
    graphReadmit id s = (some (q.1, q.2.1, if q.1 = Status.ok then [BitVec.ofNat 8 q.2.2.1] else []), q.2.2.2) := by
  simp [graphReadmit, hgraph, hheld, hreadmit]

/-- GRAPH_RESUME of one graph: it resumes at the next boundary if it is PAUSED. -/
theorem graphResume_of_resident {id : Word} {g : Graph} (hone : id ≠ 0xFFFFFFFF) (hgraph : graphById s id = some g) (hheld : g.held = false) :
    graphResume id s
      = done Status.ok (modGraph g.slot (fun g => if g.paused && !g.held then { g with resume := true } else g) s) := by
  simp only [graphResume, if_neg hone, hgraph, hheld, Bool.false_eq_true, if_false]

theorem unitTable_of_room {id : Word} {g : Graph} {ring : Nat} (hgraph : graphById s id = some g) (hring : ring < 16384)
    (htype : (ringOf s ring).type = .telemetry) (hroom : ringTakes s ring (unitEntries g).length = true) :
    unitTable id ring s = (some (Status.ok, 0, le 4 (unitEntries g).length), telemetryPush ring (unitEntries g) s) := by
  simp [unitTable, hgraph, Nat.not_le.2 hring, htype, hroom]

theorem pageDump_of_ring {ring : Nat} (hring : ring < 16384) : pageDump ring s
    = done Status.ok { s with seq := { s.seq with dumpRing := BitVec.ofNat 14 ring, dumpTo := some ring } } :=
  if_neg (Nat.not_le.2 hring)

/-! ### What acceptance leaves of graphs and rings (R311) -/

theorem graphById_taken (r : Req) (j : Job) (s : State) (id : Word) : graphById (taken r j s) id = graphById s id := by
  rw [graphById, taken_seq, graphById]

theorem ringOf_taken (r : Req) (j : Job) (s : State) (i : Nat) : ringOf (taken r j s) i = ringOf s i := by
  rw [ringOf, taken_hif, ringOf]

theorem ringTakes_taken (r : Req) (j : Job) (s : State) (i n : Nat) : ringTakes (taken r j s) i n = ringTakes s i n := by
  simp only [ringTakes, ringOf_taken]

theorem nextEpoch_taken (r : Req) (j : Job) (s : State) : nextEpoch (taken r j s) = nextEpoch s := by
  obtain ⟨_, _, _, h⟩ := portOnly_taken r j s
  rw [h]
  rfl

theorem freeSlot_of_graphs (h : t.seq.graphs = s.seq.graphs) : freeSlot t = freeSlot s := by rw [freeSlot, h, freeSlot]

/-- The resident graphs and the epoch stand as they did when an accepted submission comes to admission. -/
theorem finishStep_taken_graphs (r : Req) (j : Job) (s : State) :
    (finishStep (taken r j s)).seq.graphs = s.seq.graphs ∧ (finishStep (taken r j s)).seq.epoch = s.seq.epoch := by
  obtain ⟨w, h⟩ := finishStep_seq (taken r j s)
  rw [h, taken_seq]
  exact ⟨rfl, rfl⟩

/-! ### The rows, over an accepted request -/

/-- An accepted submission that passes every check: the graph is resident in the lowest free slot, and the module ACTIVE. -/
theorem exec_graphSubmit_of_passed {addr : DWord} (h : s.Accepts r (.graphSubmit addr)) :
    let u := finishStep (taken r (.graphSubmit addr) s)
    admissionCheck u (descAt u addr.toNat) = none → ∃ t,
      exec (.graphSubmit r addr) s = .next (complete (originOf r (.graphSubmit addr)) (Status.ok, 0, [BitVec.ofNat 8 (freeSlot s)]) t)
        ∧ t.seq.graphs = s.seq.graphs ++ [{ candidate u (descAt u addr.toNat) with
            slot := freeSlot s, digest := imageDigest u (descAt u addr.toNat), admitted := s.seq.epoch }]
        ∧ t.seq.admitStatus = Status.ok ∧ t.seq.admitDetail = 0 ∧ t.msc.mode = .active := by
  intro u hpassed
  obtain ⟨hgraphs, hepoch⟩ := finishStep_taken_graphs r (.graphSubmit addr) s
  have hmode := mode_of_running (running_of_admissionCheck hpassed)
  have hrun := graphSubmit_of_passed hpassed
  rw [freeSlot_of_graphs hgraphs] at hrun
  refine ⟨_, congrArg Host.Outcome.next (command_of_runJob h hrun), ?_⟩
  rw [becomeResident_seq, recordAdmission_seq]
  refine ⟨?graphs, rfl, rfl, ?mode⟩
  case graphs => simp only [hgraphs, hepoch, Graph.resident, u]
  case mode => exact becomeResident_mode _ _ _ (by rwa [recordAdmission_mode])

/-- An accepted submission that fails a check leaves the resident graphs. -/
theorem exec_graphSubmit_of_refused {addr : DWord} {q : BitVec 16 × Nat} (h : s.Accepts r (.graphSubmit addr)) :
    let u := finishStep (taken r (.graphSubmit addr) s)
    admissionCheck u (descAt u addr.toNat) = some q → ∃ a t,
      exec (.graphSubmit r addr) s = .next (complete (originOf r (.graphSubmit addr)) a t) ∧ t.seq.graphs = s.seq.graphs := by
  intro u hrefused
  refine ⟨_, _, congrArg Host.Outcome.next (command_of_runJob h (graphSubmit_of_refused hrefused)), ?_⟩
  rw [recordAdmission_seq]
  exact (finishStep_taken_graphs r (.graphSubmit addr) s).1

/-- An accepted readmission that passes every check: the graph is resident anew, in its slot. -/
theorem exec_graphReadmit_of_passed {id : Word} {g : Graph} (h : s.Accepts r (.graphReadmit id)) (hgraph : graphById s id = some g)
    (hheld : g.held = true) :
    let u := taken r (.graphReadmit id) s
    admissionCheck (u.without g.slot) (descAt u g.addr.toNat) = none → ∃ t,
      exec (.graphReadmit r id) s = .next (complete (originOf r (.graphReadmit id)) (Status.ok, 0, [BitVec.ofNat 8 g.slot]) t)
        ∧ t.seq.graphs = s.seq.graphs.filter (fun p => p.slot ≠ g.slot) ++ [{ candidate (u.without g.slot) (descAt u g.addr.toNat) with
            slot := g.slot, owed := g.owed, digest := imageDigest u (descAt u g.addr.toNat), admitted := s.seq.epoch }] := by
  intro u hpassed
  have hrun := graphReadmit_of_held ((graphById_taken _ _ _ _).trans hgraph) hheld (readmit_of_passed hpassed)
  refine ⟨_, congrArg Host.Outcome.next (command_of_runJob h hrun), ?_⟩
  simp only [becomeResident_seq, recordAdmission_seq, freeRegs_without_seq, taken_seq, Graph.resident, u]

theorem exec_graphReadmit_of_refused {id : Word} {g : Graph} {q : BitVec 16 × Nat} (h : s.Accepts r (.graphReadmit id))
    (hgraph : graphById s id = some g) (hheld : g.held = true) :
    let u := taken r (.graphReadmit id) s
    admissionCheck (u.without g.slot) (descAt u g.addr.toNat) = some q → ∃ a t,
      exec (.graphReadmit r id) s = .next (complete (originOf r (.graphReadmit id)) a t) ∧ t.seq.graphs = s.seq.graphs := by
  intro u hrefused
  have hrun := graphReadmit_of_held ((graphById_taken _ _ _ _).trans hgraph) hheld (readmit_of_refused hrefused)
  refine ⟨_, _, congrArg Host.Outcome.next (command_of_runJob h hrun), ?_⟩
  simp only [recordAdmission_seq, taken_seq]

end Sys2Proof.Machine

namespace Sys2Proof.Proofs

open Sys2Proof.Machine

/-- Settles O13: an accepted command executes in a state with the graphs of the one before it, and a graph submitted or readmitted splits on
whether a check refuses it. -/
theorem graphCommands : Obligations.GraphCommands := by
  unfold Obligations.GraphCommands
  intro r s
  refine ⟨?submit, ?submitPassed, ?run, ?release, ?readmit, ?readmitPassed, ?resumeAll, ?resume, ?unitTable, ?pageDump⟩
  case submit =>
    intro addr h
    cases hcheck : admissionCheck (finishStep (taken r (.graphSubmit addr) s))
      (descAt (finishStep (taken r (.graphSubmit addr) s)) addr.toNat) with
    | some q =>
      obtain ⟨a, t, hexec, hgraphs⟩ := exec_graphSubmit_of_refused h hcheck
      exact ⟨a, t, hexec, .inl hgraphs⟩
    | none =>
      obtain ⟨t, hexec, hgraphs, _⟩ := exec_graphSubmit_of_passed h hcheck
      exact ⟨_, t, hexec, .inr ⟨rfl, _, hgraphs, rfl⟩⟩
  case submitPassed => exact fun _ h => exec_graphSubmit_of_passed h
  case run =>
    intro id g h hgraph hperiod hheld
    rw [← nextEpoch_taken r (.graphRun id) s]
    exact congrArg Host.Outcome.next (command_of_runJob h (graphRun_of_request ((graphById_taken _ _ _ _).trans hgraph) hperiod hheld))
  case release =>
    intro id g h hgraph
    have hrun := graphRelease_of_resident ((graphById_taken r (.graphRelease id) s id).trans hgraph)
    refine (congrArg Host.Outcome.next (command_of_runJob h hrun)).trans ?_
    unfold finished
    split <;> rfl
  case readmit =>
    intro id g h hgraph hheld
    cases hcheck : admissionCheck ((taken r (.graphReadmit id) s).without g.slot) (descAt (taken r (.graphReadmit id) s) g.addr.toNat) with
    | some q =>
      obtain ⟨a, t, hexec, hgraphs⟩ := exec_graphReadmit_of_refused h hgraph hheld hcheck
      exact ⟨a, t, hexec, .inl hgraphs⟩
    | none =>
      obtain ⟨t, hexec, hgraphs⟩ := exec_graphReadmit_of_passed h hgraph hheld hcheck
      exact ⟨_, t, hexec, .inr ⟨rfl, _, hgraphs, rfl⟩⟩
  case readmitPassed => exact fun _ _ h hgraph hheld => exec_graphReadmit_of_passed h hgraph hheld
  case resumeAll => exact fun h => congrArg Host.Outcome.next (command_of_runJob h rfl)
  case resume =>
    intro id g hone h hgraph hheld
    exact congrArg Host.Outcome.next (command_of_runJob h (graphResume_of_resident hone ((graphById_taken _ _ _ _).trans hgraph) hheld))
  case unitTable =>
    intro id g ring h hgraph hring htype hroom
    have htype := (congrArg Ring.type (ringOf_taken r (.unitTable id ring) s ring.toNat)).trans htype
    have hroom := (ringTakes_taken r (.unitTable id ring) s ring.toNat _).trans hroom
    exact congrArg Host.Outcome.next (command_of_runJob h (unitTable_of_room ((graphById_taken _ _ _ _).trans hgraph) hring htype hroom))
  case pageDump => exact fun _ h hring => congrArg Host.Outcome.next (command_of_runJob h (pageDump_of_ring hring))

end Sys2Proof.Proofs
end

section
/-! SUPPORT. The commands over settings, once accepted: the link group, port training, the calendar, ledger batches and the journal's
reading. -/

namespace Sys2Proof.Machine

variable {r : Req} {s : State}

/-! ### What acceptance leaves of the group's graphs and of the journal (R242, R311, R428) -/

theorem groupBusy_taken (r : Req) (j : Job) (s : State) : groupBusy (taken r j s) = groupBusy s := by
  rw [groupBusy, taken_seq, groupBusy]

theorem taken_journal (r : Req) (j : Job) (s : State) : (taken r j s).msc.journal = s.msc.journal := by
  obtain ⟨_, h⟩ := taken_msc r j s
  rw [h]

/-! ### The link group and port training (R242, R243) -/

theorem linkGroup_of_valid {n i : Nat} (hmin : 1 ≤ n) (hmax : n ≤ 16) (hindex : i < n) (hfree : groupBusy s = false) (id : BitVec 16) :
    linkGroup id n i s = done Status.ok (trainPorts 0xF
      { s with ole := { s.ole with groupId := id, size := BitVec.ofNat 5 n, index := BitVec.ofNat 4 i } }) := by
  have hvalid : ¬ (n = 0 ∨ 16 < n ∨ n ≤ i) := by omega
  simp [linkGroup, writeGroup, hvalid, hfree]

theorem linkTrain_of_ports {ports : Byte} (hports : ports.toNat ≤ 15) (hfree : groupBusy s = false) :
    linkTrain ports s = done Status.ok (trainPorts (BitVec.ofNat 4 ports.toNat) s) := by
  simp [linkTrain, trainRequest, Nat.not_lt.2 hports, hfree]

/-! ### The calendar (R388) -/

theorem calendarSet_of_nanoseconds {ns : Nat} (hns : ns < 1000000000) (secs : Nat) (s : State) :
    calendarSet secs ns s = done Status.ok (setCalendar secs ns s) := if_neg (Nat.not_le.2 hns)

/-! ### Batches of an enabled ledger ring (R212) -/

/-- A size that the open batch has not reached takes effect and closes nothing. -/
theorem setBatchSize_of_shorter {i b : Nat} (hring : i < 16384) (hmin : 1 ≤ b) (hmax : b ≤ 4096) (htype : (ringOf s i).type = .ledger)
    (hstate : (ringOf s i).state ≠ .disabled) (hshorter : (ringOf s i).batch.length < b) :
    setBatchSize i b s = (Status.ok, modRing i (fun q => { q with batchB := b }) s) := by
  have htakes : ¬ (16384 ≤ i ∨ b = 0 ∨ 4096 < b ∨ (ringOf s i).type ≠ .ledger ∨ (ringOf s i).state = .disabled) := by
    simp [hring, Nat.ne_of_gt hmin, hmax, htype, hstate]
  simp only [setBatchSize, if_neg htakes, if_neg (Nat.not_le.2 hshorter), modRing]

theorem closeLedger_of_open {i : Nat} (hring : i < 16384) (htype : (ringOf s i).type = .ledger) (hstate : (ringOf s i).state ≠ .disabled)
    (hopen : (ringOf s i).batch ≠ []) : closeLedger i s
      = (Status.ok, modRing i (fun q =>
          { q with closed := q.closed ++ [(q.batchFirst, q.batchGap, s.msc.ledgerSlot, q.batch)], batch := [], batchGap := false }) s) := by
  have htakes : ¬ (16384 ≤ i ∨ (ringOf s i).type ≠ .ledger ∨ (ringOf s i).state = .disabled) := by
    simp [hring, htype, hstate]
  rw [closeLedger, if_neg htakes, closeBatch_of_open hopen, modRing]

/-! ### The journal (R428) -/

theorem journalRead_of_held {first count : Nat} {j : Nat × List Byte} (hmin : 1 ≤ count) (hmax : count ≤ 7)
    (hheld : s.msc.journal.find? (fun j => j.1 % 2 ^ 32 = first) = some j) :
    let rs := (List.range count).filterMap (fun k => assoc (j.1 + k) s.msc.journal)
    journalRead first count s = (Status.ok, rs.length, rs.flatten) := by
  rw [journalRead, if_neg (by omega), hheld]

/-! ### The rows, over an accepted request -/

theorem exec_linkGroup_of_accepts {id : BitVec 16} {size index : Byte} (h : s.Accepts r (.linkGroup id size index)) (hmin : 1 ≤ size.toNat)
    (hmax : size.toNat ≤ 16) (hindex : index.toNat < size.toNat) (hfree : groupBusy s = false) : exec (.linkGroup r id size index) s
      = .next (finished r (.linkGroup id size index) (Status.ok, 0, []) (fun u => trainPorts 0xF
          { u with ole := { u.ole with groupId := id, size := BitVec.ofNat 5 size.toNat, index := BitVec.ofNat 4 index.toNat } }) s) := by
  rw [← groupBusy_taken r (.linkGroup id size index)] at hfree
  exact congrArg Host.Outcome.next (command_of_runJob h (linkGroup_of_valid hmin hmax hindex hfree id))

theorem exec_linkTrain_of_accepts {ports : Byte} (h : s.Accepts r (.linkTrain ports)) (hports : ports.toNat ≤ 15)
    (hfree : groupBusy s = false) : exec (.linkTrain r ports) s
      = .next (finished r (.linkTrain ports) (Status.ok, 0, []) (trainPorts (BitVec.ofNat 4 ports.toNat)) s) := by
  rw [← groupBusy_taken r (.linkTrain ports)] at hfree
  exact congrArg Host.Outcome.next (command_of_runJob h (linkTrain_of_ports hports hfree))

theorem exec_calendarSet_of_accepts {secs : DWord} {ns : Word} (h : s.Accepts r (.calendarSet secs ns)) (hns : ns.toNat < 1000000000) :
    exec (.calendarSet r secs ns) s
      = .next (finished r (.calendarSet secs ns) (Status.ok, 0, []) (setCalendar secs.toNat ns.toNat) s) :=
  congrArg Host.Outcome.next (command_of_runJob h (calendarSet_of_nanoseconds hns _ _))

theorem exec_ledgerBatch_of_accepts {ring b : BitVec 16} (h : s.Accepts r (.ledgerBatch ring b)) (hring : ring.toNat < 16384)
    (hmin : 1 ≤ b.toNat) (hmax : b.toNat ≤ 4096) (htype : (ringOf s ring.toNat).type = .ledger)
    (hstate : (ringOf s ring.toNat).state ≠ .disabled) (hshorter : (ringOf s ring.toNat).batch.length < b.toNat) :
    exec (.ledgerBatch r ring b) s = .next (finished r (.ledgerBatch ring b) (Status.ok, 0, [])
      (modRing ring.toNat (fun q => { q with batchB := b.toNat })) s) := by
  rw [← ringOf_taken r (.ledgerBatch ring b)] at htype hstate hshorter
  have hset := setBatchSize_of_shorter hring hmin hmax htype hstate hshorter
  exact congrArg Host.Outcome.next (command_of_runJob h (congrArg (fun q : BitVec 16 × State => done q.1 q.2) hset))

theorem exec_ledgerClose_of_accepts {ring : BitVec 16} (h : s.Accepts r (.ledgerClose ring)) (hring : ring.toNat < 16384)
    (htype : (ringOf s ring.toNat).type = .ledger) (hstate : (ringOf s ring.toNat).state ≠ .disabled)
    (hopen : (ringOf s ring.toNat).batch ≠ []) : exec (.ledgerClose r ring) s
      = .next (finished r (.ledgerClose ring) (Status.ok, 0, []) (fun u => modRing ring.toNat (fun q =>
          { q with closed := q.closed ++ [(q.batchFirst, q.batchGap, u.msc.ledgerSlot, q.batch)], batch := [], batchGap := false }) u) s) := by
  rw [← ringOf_taken r (.ledgerClose ring)] at htype hstate hopen
  have hclose := closeLedger_of_open hring htype hstate hopen
  exact congrArg Host.Outcome.next (command_of_runJob h (congrArg (fun q : BitVec 16 × State => done q.1 q.2) hclose))

theorem exec_journalRead_of_accepts {first : Word} {count : Byte} {j : Nat × List Byte} (h : s.Accepts r (.journalRead first count))
    (hmin : 1 ≤ count.toNat) (hmax : count.toNat ≤ 7) (hheld : s.msc.journal.find? (fun j => j.1 % 2 ^ 32 = first.toNat) = some j) :
    let rs := (List.range count.toNat).filterMap (fun k => assoc (j.1 + k) s.msc.journal)
    exec (.journalRead r first count) s
      = .next (finished r (.journalRead first count) (Status.ok, rs.length, rs.flatten) id s) := by
  rw [← taken_journal r (.journalRead first count)] at hheld ⊢
  have hread := journalRead_of_held hmin hmax hheld
  exact congrArg Host.Outcome.next (command_of_runJob h (congrArg (fun a => (some a, taken r (.journalRead first count) s)) hread))

end Sys2Proof.Machine

namespace Sys2Proof.Proofs

open Sys2Proof.Machine

/-- Settles O15: an accepted command executes in the state after its acceptance, whose graphs, rings and journal are those of the state
before, and there each command's operands and the state pass its checks. -/
theorem settingCommands : Obligations.SettingCommands := by
  unfold Obligations.SettingCommands
  intro r s
  refine ⟨?linkGroup, ?linkTrain, ?calendarSet, ?ledgerBatch, ?ledgerClose, ?journalRead⟩
  case linkGroup => exact fun _ _ _ h hmin hmax hindex hfree => exec_linkGroup_of_accepts h hmin hmax hindex hfree
  case linkTrain => exact fun _ h hports hfree => exec_linkTrain_of_accepts h hports hfree
  case calendarSet => exact fun _ _ h hns => exec_calendarSet_of_accepts h hns
  case ledgerBatch =>
    exact fun _ _ h hring hmin hmax htype hstate hshorter => exec_ledgerBatch_of_accepts h hring hmin hmax htype hstate hshorter
  case ledgerClose => exact fun _ h hring htype hstate hopen => exec_ledgerClose_of_accepts h hring htype hstate hopen
  case journalRead => exact fun _ _ _ h hmin hmax hheld => exec_journalRead_of_accepts h hmin hmax hheld

end Sys2Proof.Proofs
end

section
/-! SUPPORT. Both memories stay in canonical form: every command, every step, and the reset state where it begins. -/

namespace Sys2Proof.Machine

/-- Every command keeps the canonical form: each has its own lemma. -/
theorem keeps_exec (i : Instr) (s : State) (hs : s.memoryWf) : KeepsOut (exec i s) :=
  match i with
  | .status r => keeps_execStatus r s hs
  | .time r => keeps_execTime r s hs
  | .temperature r => keeps_execTemperature r s hs
  | .stopBoundary r => keeps_execStopBoundary r s hs
  | .stopNow r => keeps_execStopNow r s hs
  | .result r seq => keeps_execResult r seq s hs
  | .sessionOpen r nonce key role kem => keeps_execSessionOpen r nonce key role kem s hs
  | .sessionConfirm r sig => keeps_execSessionConfirm r sig s hs
  | .sessionClose r => keeps_execSessionClose r s hs
  | .attest r nonce => keeps_execAttest r nonce s hs
  | .eventSubscribe r mask enable => keeps_execEventSubscribe r mask enable s hs
  | .graphSubmit r addr => keeps_execGraphSubmit r addr s hs
  | .graphRun r id => keeps_execGraphRun r id s hs
  | .graphRelease r id => keeps_execGraphRelease r id s hs
  | .graphReadmit r id => keeps_execGraphReadmit r id s hs
  | .graphResume r id => keeps_execGraphResume r id s hs
  | .unitTable r id ring => keeps_execUnitTable r id ring s hs
  | .regRead r addr count => keeps_execRegRead r addr count s hs
  | .regWrite r addr words => keeps_execRegWrite r addr words s hs
  | .memRead r addr len => keeps_execMemRead r addr len s hs
  | .memWrite r addr data => keeps_execMemWrite r addr data s hs
  | .laneUnit r lane capture data => keeps_execLaneUnit r lane capture data s hs
  | .syscalZero v o => keeps_execSyscalZero v o s hs
  | .syscalFull v o => keeps_execSyscalFull v o s hs
  | .syscalCommit v => keeps_execSyscalCommit v s hs
  | .syscalAbandon v => keeps_execSyscalAbandon v s hs
  | .linkGroup r id size index => keeps_execLinkGroup r id size index s hs
  | .linkTrain r ports => keeps_execLinkTrain r ports s hs
  | .frostEnter r => keeps_execFrostEnter r s hs
  | .thaw r => keeps_execThaw r s hs
  | .resetPowerOn r => keeps_execResetPowerOn r s hs
  | .resetCold r => keeps_execResetCold r s hs
  | .resetWarm r => keeps_execResetWarm r s hs
  | .resetFunction r => keeps_execResetFunction r s hs
  | .resetSubsystem r block => keeps_execResetSubsystem r block s hs
  | .powerOff r => keeps_execPowerOff r s hs
  | .calendarSet r secs ns => keeps_execCalendarSet r secs ns s hs
  | .updateBegin r manifest => keeps_execUpdateBegin r manifest s hs
  | .updateData r offset data => keeps_execUpdateData r offset data s hs
  | .updateFinish r => keeps_execUpdateFinish r s hs
  | .updateAbort r => keeps_execUpdateAbort r s hs
  | .recoveryEnter r => keeps_execRecoveryEnter r s hs
  | .ledgerBatch r ring b => keeps_execLedgerBatch r ring b s hs
  | .ledgerClose r ring => keeps_execLedgerClose r ring s hs
  | .journalRead r first count => keeps_execJournalRead r first count s hs
  | .pageDump r ring => keeps_execPageDump r ring s hs
  | .messageFragment r opcode index count length data => keeps_execMessageFragment r opcode index count length data s hs
  | .fragmentTimeout idx => keeps_execFragmentTimeout idx s hs
  | .sessionConfirmTimeout n => keeps_execSessionConfirmTimeout n s hs
  | .sessionIdleTimeout n => keeps_execSessionIdleTimeout n s hs
  | .ptpMessage m => keeps_execPtpMessage m s hs
  | .pdelayRequestTimer => keeps_execPdelayRequestTimer s hs
  | .grandmasterLoss => keeps_execGrandmasterLoss s hs
  | .controlLinkDown => keeps_execControlLinkDown s hs
  | .controlLinkUp sqi => keeps_execControlLinkUp sqi s hs
  | .eventCopyDrop n => keeps_execEventCopyDrop n s hs
  | .qbvCycleStart => keeps_execQbvCycleStart s hs
  | .pmaMapReqProbe p phys => keeps_execPmaMapReqProbe p phys s hs
  | .pmaMapReqMapOut p phys => keeps_execPmaMapReqMapOut p phys s hs
  | .tdwClrStats p w => keeps_execTdwClrStats p w s hs
  | .squClrStats p w => keeps_execSquClrStats p w s hs
  | .lgeClrStats p w => keeps_execLgeClrStats p w s hs
  | .xlClrStats p w => keeps_execXlClrStats p w s hs
  | .seqClrStats p w => keeps_execSeqClrStats p w s hs
  | .hmsClrStats p w => keeps_execHmsClrStats p w s hs
  | .lmsClrStats p w => keeps_execLmsClrStats p w s hs
  | .oleClrStats p w => keeps_execOleClrStats p w s hs
  | .calClrStats p w => keeps_execCalClrStats p w s hs
  | .clsClrStats p w => keeps_execClsClrStats p w s hs
  | .hifCpClrStats p w => keeps_execHifCpClrStats p w s hs
  | .hifClrStats p w => keeps_execHifClrStats p w s hs
  | .tpsClrStats p w => keeps_execTpsClrStats p w s hs
  | .tpsPwrClrStats p w => keeps_execTpsPwrClrStats p w s hs
  | .tslEpochLenWrite p w => keeps_execTslEpochLenWrite p w s hs
  | .tslLaneWrite p lane reg w => keeps_execTslLaneWrite p lane reg w s hs
  | .oleRestWrite p reg w => keeps_execOleRestWrite p reg w s hs
  | .clsTakeoverGo p w => keeps_execClsTakeoverGo p w s hs
  | .hifRingEnable p ring w => keeps_execHifRingEnable p ring w s hs
  | .hifRingDisable p ring w => keeps_execHifRingDisable p ring w s hs
  | .hifDoorbell p ring v => keeps_execHifDoorbell p ring v s hs
  | .hifWindowWrite p win reg w => keeps_execHifWindowWrite p win reg w s hs
  | .hifQbvWrite p reg w => keeps_execHifQbvWrite p reg w s hs
  | .hifIrqWrite p src w => keeps_execHifIrqWrite p src w s hs
  | .tpsFloorWrite p w => keeps_execTpsFloorWrite p w s hs
  | .mscDormantRequest p w => keeps_execMscDormantRequest p w s hs
  | .w1cClear p src w hw => keeps_execW1cClear p src w hw s hs
  | .scaleDataRead p => keeps_execScaleDataRead p s hs
  | .latchedLowRead p off => keeps_execLatchedLowRead p off s hs
  | .plainRegisterWrite p off w => keeps_execPlainRegisterWrite p off w s hs
  | .apertureRead off len => keeps_execApertureRead off len s hs
  | .apertureWrite off data => keeps_execApertureWrite off data s hs
  | .msixUnmask v => keeps_execMsixUnmask v s hs
  | .submissionEntry ring => keeps_execSubmissionEntry ring s hs
  | .bulkCopy ring h => keeps_execBulkCopy ring h s hs
  | .bulkFill ring h => keeps_execBulkFill ring h s hs
  | .bulkLaneUnit ring h => keeps_execBulkLaneUnit ring h s hs
  | .bulkWeightLoad ring h => keeps_execBulkWeightLoad ring h s hs
  | .bulkHostTimeout ring => keeps_execBulkHostTimeout ring s hs
  | .ringRoomReturn ring => keeps_execRingRoomReturn ring s hs
  | .msixModerationTimeout ring => keeps_execMsixModerationTimeout ring s hs
  | .shadowLoad l t set abort => keeps_execShadowLoad l t set abort s hs
  | .shadowLoadComplete l => keeps_execShadowLoadComplete l s hs
  | .swap l => keeps_execSwap l s hs
  | .pass p => keeps_execPass p s hs
  | .chunkReconstruction reserve => keeps_execChunkReconstruction reserve s hs
  | .opticalReplay dev => keeps_execOpticalReplay dev s hs
  | .electronicReplay die => keeps_execElectronicReplay die s hs
  | .replayDeadline => keeps_execReplayDeadline s hs
  | .replayHoldEnd => keeps_execReplayHoldEnd s hs
  | .rampFill l => keeps_execRampFill l s hs
  | .lgeEntry slot task => keeps_execLgeEntry slot task s hs
  | .substitutionHoldEnd => keeps_execSubstitutionHoldEnd s hs
  | .xlEntry slot task => keeps_execXlEntry slot task s hs
  | .squEntry slot task => keeps_execSquEntry slot task s hs
  | .transferEntry slot task => keeps_execTransferEntry slot task s hs
  | .linkEntry slot task => keeps_execLinkEntry slot task s hs
  | .laneEntry slot task => keeps_execLaneEntry slot task s hs
  | .hbmRefresh => keeps_execHbmRefresh s hs
  | .lpddrRefresh => keeps_execLpddrRefresh s hs
  | .holdRefresh g shadow => keeps_execHoldRefresh g shadow s hs
  | .refreshLate g shadow => keeps_execRefreshLate g shadow s hs
  | .epochBoundary => keeps_execEpochBoundary s hs
  | .fallowSlotBegin o => keeps_execFallowSlotBegin o s hs
  | .epochOverrun => keeps_execEpochOverrun s hs
  | .shortFallowSlot o => keeps_execShortFallowSlot o s hs
  | .lateBoundary => keeps_execLateBoundary s hs
  | .laneUnitPresent lane => keeps_execLaneUnitPresent lane s hs
  | .tagRecordWrite slot task => keeps_execTagRecordWrite slot task s hs
  | .ledgerBatchTimeout ring => keeps_execLedgerBatchTimeout ring s hs
  | .signatureRecord ring => keeps_execSignatureRecord ring s hs
  | .parityReread addr use tries => keeps_execParityReread addr use tries s hs
  | .persistentError addr use => keeps_execPersistentError addr use s hs
  | .stackFail n => keeps_execStackFail n s hs
  | .stackCaParityLoss n => keeps_execStackCaParityLoss n s hs
  | .lpddrPackageFail n => keeps_execLpddrPackageFail n s hs
  | .frameData f => keeps_execFrameData f s hs
  | .frameIdle f => keeps_execFrameIdle f s hs
  | .frameResendReq f => keeps_execFrameResendReq f s hs
  | .frameService f => keeps_execFrameService f s hs
  | .laneLockLoss lane => keeps_execLaneLockLoss lane s hs
  | .laneDiscardLimit lane => keeps_execLaneDiscardLimit lane s hs
  | .lanePauseEnd lane => keeps_execLanePauseEnd lane s hs
  | .portLightArrival port => keeps_execPortLightArrival port s hs
  | .portTrainingDone port o => keeps_execPortTrainingDone port o s hs
  | .lossOfSignal port => keeps_execLossOfSignal port s hs
  | .aprProbe port => keeps_execAprProbe port s hs
  | .portPowerMonitorTrip port => keeps_execPortPowerMonitorTrip port s hs
  | .reconfigurationDeadline => keeps_execReconfigurationDeadline s hs
  | .phaseWindowEnd => keeps_execPhaseWindowEnd s hs
  | .linkHoldEnd => keeps_execLinkHoldEnd s hs
  | .linkHoldTimeout => keeps_execLinkHoldTimeout s hs
  | .spareLocked src => keeps_execSpareLocked src s hs
  | .sourceLockTimeout src => keeps_execSourceLockTimeout src s hs
  | .lightTrip arcade => keeps_execLightTrip arcade s hs
  | .lightHoldEnd arcade => keeps_execLightHoldEnd arcade s hs
  | .spareLockFail arcade => keeps_execSpareLockFail arcade s hs
  | .sourceWorn src => keeps_execSourceWorn src s hs
  | .spareSourceFail src => keeps_execSpareSourceFail src s hs
  | .linkSourceFail src => keeps_execLinkSourceFail src s hs
  | .startupCalibration => keeps_execStartupCalibration s hs
  | .startupCalibrationDone o => keeps_execStartupCalibrationDone o s hs
  | .reacquisition => keeps_execReacquisition s hs
  | .reacquisitionDone o => keeps_execReacquisitionDone o s hs
  | .monitorAdcSample input raw => keeps_execMonitorAdcSample input raw s hs
  | .monitorInputFault input => keeps_execMonitorInputFault input s hs
  | .zoneLoopExit zone => keeps_execZoneLoopExit zone s hs
  | .weakRow g row => keeps_execWeakRow g row s hs
  | .sensorSample idx temp => keeps_execSensorSample idx temp s hs
  | .thermalLevelLeave d => keeps_execThermalLevelLeave d s hs
  | .throttleStepDown => keeps_execThrottleStepDown s hs
  | .fastSamplingEnd d => keeps_execFastSamplingEnd d s hs
  | .sensorInvalid idx => keeps_execSensorInvalid idx s hs
  | .hardwareTrip idx temp => keeps_execHardwareTrip idx temp s hs
  | .mscActionStart => keeps_execMscActionStart s hs
  | .pwrEnAssert => keeps_execPwrEnAssert s hs
  | .pwrEnDeassert => keeps_execPwrEnDeassert s hs
  | .inputQualified => keeps_execInputQualified s hs
  | .inputUndervoltage => keeps_execInputUndervoltage s hs
  | .inputOvervoltage => keeps_execInputOvervoltage s hs
  | .breakerTrip => keeps_execBreakerTrip s hs
  | .reverseCurrent => keeps_execReverseCurrent s hs
  | .railFault group => keeps_execRailFault group s hs
  | .railDroop group => keeps_execRailDroop group s hs
  | .telemetrySample v idx => keeps_execTelemetrySample v idx s hs
  | .p1sUpdate p => keeps_execP1sUpdate p s hs
  | .excursionStep => keeps_execExcursionStep s hs
  | .energyLimitShutdown => keeps_execEnergyLimitShutdown s hs
  | .telemetryLoss => keeps_execTelemetryLoss s hs
  | .telemetryReturn => keeps_execTelemetryReturn s hs
  | .backupDomainPowerOn => keeps_execBackupDomainPowerOn s hs
  | .supercapLow cap ext => keeps_execSupercapLow cap ext s hs
  | .resetNPulse => keeps_execResetNPulse s hs
  | .resetNRelease => keeps_execResetNRelease s hs
  | .perstAssert => keeps_execPerstAssert s hs
  | .pcieFlr => keeps_execPcieFlr s hs
  | .pcieHotReset => keeps_execPcieHotReset s hs
  | .standbyExit o => keeps_execStandbyExit o s hs
  | .unitWatchdogExpiry block half => keeps_execUnitWatchdogExpiry block half s hs
  | .mscWatchdogExpiry => keeps_execMscWatchdogExpiry s hs
  | .frontEndFallback => keeps_execFrontEndFallback s hs
  | .updateArbitrationEnd => keeps_execUpdateArbitrationEnd s hs
  | .updateLockTimeout => keeps_execUpdateLockTimeout s hs
  | .trialEnd component => keeps_execTrialEnd component s hs
  | .recoveryInstall => keeps_execRecoveryInstall s hs
  | .recoveryReset => keeps_execRecoveryReset s hs
  | .journalGapRecord => keeps_execJournalGapRecord s hs
  | .pcieLinkUp speed width mps => keeps_execPcieLinkUp speed width mps s hs
  | .pcieLinkDown => keeps_execPcieLinkDown s hs
  | .registerAccessTimeout p off write => keeps_execRegisterAccessTimeout p off write s hs
  | .mscCoreRestartDone => keeps_execMscCoreRestartDone s hs
  | .resetEnd o => keeps_execResetEnd o s hs
  | .unrecognisedControlFrame f => keeps_execUnrecognisedControlFrame f s hs
  | .inputQualificationLost => keeps_execInputQualificationLost s hs

/-- A step is a nanosecond or a command with the rest of the queue, on which no memory rests. -/
theorem keeps_step (s : State) (hs : s.memoryWf) : KeepsOut (step s) := by
  unfold step
  split
  · exact keeps_idle s hs
  · exact keeps_exec _ _ hs

end Sys2Proof.Machine

namespace Sys2Proof.Proofs

open Sys2Proof.Machine

/-- Settles O5: every command, and the nanosecond of an empty queue, keeps the form. -/
theorem memoryStaysCanonical : Obligations.MemoryStaysCanonical := by
  unfold Obligations.MemoryStaysCanonical
  intro s t hs hstep
  have hkeeps : KeepsOut (step s) := keeps_step s hs
  rw [hstep] at hkeeps
  exact hkeeps

/-- Settles O4: both memories of the reset state list no cell. -/
theorem resetMemoryCanonical : Obligations.ResetMemoryCanonical := by
  unfold Obligations.ResetMemoryCanonical
  exact ⟨⟨rfl, rfl⟩, rfl, rfl⟩

end Sys2Proof.Proofs
end

section
/-! SUPPORT. The rows that clear the statistics of the memories, the links, calibration, the control port, the host interface and power. -/

namespace Sys2Proof.Machine

/-! ### Control registers written with their CLR bit (R234, R235, R263, R288, R328, R353, R370, R390) -/

section
variable {w : Word}

/-- A register whose CLR bit is bit 31, written with that bit set. -/
theorem ite_topClrBit {α : Type} (w : Word) (a b : α) : (if bit (w ||| 0x80000000) 31 = true then a else b) = a :=
  if_pos (bit_or_of_set (by decide))

theorem writeOleCtrl_clrStats (hgo : bit w 31 = false) (s : State) : writeOleCtrl (w ||| 1) s
    = { s with ole := { s.ole with
        trainPorts := BitVec.ofNat 4 (bits w 27 24), shown := {}, lastHold := {}
        lanes := s.ole.lanes.map (fun l => { l with failsShown := 0 }) } } := by
  have hports : bits (w ||| 1) 27 24 = bits w 27 24 := bits_or_of_clear (by decide)
  have htrain : ¬ bit (w ||| 1) 31 = true := by rw [bit_or_of_clear (by decide), hgo]; decide
  simp only [writeOleCtrl, ite_clrBit, hports, if_neg htrain]

theorem writeCalCtrl_clrStats (hstep : bits w 30 28 ≤ 4) (hgo : bit w 31 = false) (o : SysObs) (s : State) : writeCalCtrl (w ||| 1) o s
    = { s with cal := { s.cal with
        step := BitVec.ofNat 3 (bits w 30 28), selfTrimNext := bit w 7, urgentEn := bit w 6, startFails := 0
        stalls := s.cal.stalls.map (fun x => { x with readings := 0 }) } } := by
  have hcode : bits (w ||| 1) 30 28 = bits w 30 28 := bits_or_of_clear (by decide)
  have htrim : bit (w ||| 1) 7 = bit w 7 := bit_or_of_clear (by decide)
  have hurgent : bit (w ||| 1) 6 = bit w 6 := bit_or_of_clear (by decide)
  have hstart : ¬ bit (w ||| 1) 31 = true := by rw [bit_or_of_clear (by decide), hgo]; decide
  have hlisted : ¬ (4 < bits w 30 28 ∨ bits w 30 28 = 0 ∧ bit (w ||| 1) 31 = true) := fun h =>
    h.elim (Nat.not_lt.mpr hstep) (fun hzero => hstart hzero.2)
  simp only [writeCalCtrl, ite_clrBit, hcode, htrim, hurgent, if_neg hlisted, if_neg hstart]

theorem writeCpCtrl_clrStats (w : Word) (s : State) : writeCpCtrl (w ||| 0x80000000) s
    = { s with cp := { s.cp with
        tagTx := bit w 30, pcpImm := BitVec.ofNat 3 (bits w 29 27), pcpOther := BitVec.ofNat 3 (bits w 26 24), vid := BitVec.ofNat 12 (bits w 11 0)
        dropped := 0, authFails := 0, evDropped := 0 } } := by
  have htag : bit (w ||| 0x80000000) 30 = bit w 30 := bit_or_of_clear (by decide)
  have himm : bits (w ||| 0x80000000) 29 27 = bits w 29 27 := bits_or_of_clear (by decide)
  have hother : bits (w ||| 0x80000000) 26 24 = bits w 26 24 := bits_or_of_clear (by decide)
  have hvid : bits (w ||| 0x80000000) 11 0 = bits w 11 0 := bits_or_of_clear (by decide)
  simp only [writeCpCtrl, ite_topClrBit, htag, himm, hother, hvid]

/-- No change of the level in force, neither a rise nor a fall (R363). -/
theorem levelChange_same (s : State) : levelChange (levelInForce s) s = s := by simp [levelChange]

theorem writeTpsCtrl_clrStats {s : State} (hfloor : BitVec.ofNat 2 (bits w 1 0) = s.tps.floor) : writeTpsCtrl (w ||| 0x80000000) s
    = { s with tps := { s.tps with skipped := 0, frosts := 0 } } := by
  have hbits : bits (w ||| 0x80000000) 1 0 = bits w 1 0 := bits_or_of_clear (by decide)
  simp only [writeTpsCtrl, ite_topClrBit, withLevel, hbits, hfloor]
  exact levelChange_same { s with tps := { s.tps with skipped := 0, frosts := 0 } }

end

/-! ### The rows, over an open path -/

section
variable {p : Path} {s : State}

theorem exec_hmsClrStats_of_opens (w : Word) (h : s.Opens p 0x900004 true) : exec (.hmsClrStats p w) s = .next (writeHmsCtrl (w ||| 1) s) :=
  congrArg Host.Outcome.next (pathWrite_of_opens _ h (by decide))

theorem exec_lmsClrStats_of_opens (w : Word) (h : s.Opens p 0xA00004 true) : exec (.lmsClrStats p w) s = .next (writeLmsCtrl (w ||| 1) s) :=
  congrArg Host.Outcome.next (pathWrite_of_opens _ h (by decide))

theorem exec_oleClrStats_of_opens (w : Word) (h : s.Opens p 0xB00004 true) : exec (.oleClrStats p w) s = .next (writeOleCtrl (w ||| 1) s) :=
  congrArg Host.Outcome.next (pathWrite_of_opens _ h (by decide))

theorem exec_calClrStats_of_opens (w : Word) (h : s.Opens p 0xD00004 true) : exec (.calClrStats p w) s = .next (writeCalCtrl (w ||| 1) {} s) :=
  congrArg Host.Outcome.next (pathWrite_of_opens _ h (by decide))

theorem exec_hifCpClrStats_of_opens (w : Word) (h : s.Opens p 0xC00100 true) :
    exec (.hifCpClrStats p w) s = .next (writeCpCtrl (w ||| 0x80000000) s) :=
  congrArg Host.Outcome.next (pathWrite_of_opens _ h (by decide))

theorem exec_hifClrStats_of_opens (w : Word) (h : s.Opens p 0xC00004 true) :
    exec (.hifClrStats p w) s = .next { s with hif := { s.hif with eventsLost := 0 } } :=
  congrArg Host.Outcome.next ((pathWrite_of_opens _ h (by decide)).trans (ite_clrBit w _ s))

theorem exec_tpsClrStats_of_opens (w : Word) (h : s.Opens p 0xE00004 true) :
    exec (.tpsClrStats p w) s = .next (writeTpsCtrl (w ||| 0x80000000) s) :=
  congrArg Host.Outcome.next (pathWrite_of_opens _ h (by decide))

theorem exec_tpsPwrClrStats_of_opens (w : Word) (h : s.Opens p 0xE00100 true) :
    exec (.tpsPwrClrStats p w) s = .next { s with tps := { s.tps with pkExc := 0, pkP100 := 0, excCount := 0 } } :=
  congrArg Host.Outcome.next ((pathWrite_of_opens _ h (by decide)).trans (ite_topClrBit w _ s))

end

end Sys2Proof.Machine

namespace Sys2Proof.Proofs

open Sys2Proof.Machine

/-- Settles O23: over an open path each row is the write of its control register with the CLR bit set and the word's other fields; a floor
written as it stands leaves the level in force. -/
theorem systemStatisticsCleared : Obligations.SystemStatisticsCleared := by
  unfold Obligations.SystemStatisticsCleared
  intro p w s
  refine ⟨?hms, ?lms, ?ole, ?cal, ?cp, ?hif, ?tps, ?power⟩
  case hms =>
    intro h
    rw [exec_hmsClrStats_of_opens w h, writeHmsCtrl, ite_clrBit]
  case lms =>
    intro h
    rw [exec_lmsClrStats_of_opens w h, writeLmsCtrl, ite_clrBit]
  case ole =>
    intro h hgo
    rw [exec_oleClrStats_of_opens w h, writeOleCtrl_clrStats hgo]
  case cal =>
    intro h hstep hgo
    rw [exec_calClrStats_of_opens w h, writeCalCtrl_clrStats hstep hgo]
  case cp =>
    intro h
    rw [exec_hifCpClrStats_of_opens w h, writeCpCtrl_clrStats]
  case hif => exact exec_hifClrStats_of_opens w
  case tps =>
    intro h hfloor
    rw [exec_tpsClrStats_of_opens w h, writeTpsCtrl_clrStats hfloor]
  case power => exact exec_tpsPwrClrStats_of_opens w

end Sys2Proof.Proofs
end

section
/-! SUPPORT. The bulk descriptor at the head of a ring: what taking it does where it passes its checks, and where another row's is met. -/

namespace Sys2Proof.Machine

/-! ### The descriptor at the head of a bulk ring (R337, R348, R350) -/

/-- The descriptor at the head of ring `i`. -/
def State.bulkHead (s : State) (i : Nat) : BulkDesc := bulkOf (readBytes s ((ringOf s i).entry (ringOf s i).cons) 64)

/-- The completion entries that the descriptor at the head of ring `i` reserves. -/
def State.bulkReserve (s : State) (i : Nat) : Nat := max 1 (bulkPosts (s.bulkHead i))

/-- The state with the descriptor at the head of ring `i` taken, and its completion entries reserved in the linked ring. -/
def State.bulkTaken (s : State) (i : Nat) : State :=
  modRing (ringOf s i).linked.toNat (fun q => { q with reserved := q.reserved + s.bulkReserve i })
    (modRing i (fun r => { r with cons := r.cons + 1 }) s)

/-- The record of the descriptor taken from ring `i`, before its first move. -/
def State.bulkRecord (s : State) (i : Nat) : BulkJob :=
  let d := s.bulkHead i
  { ring := i, cookie := d.cookie, flags := BitVec.ofNat 8 d.flags, entries := if bdList d then d.len else 1, reserved := s.bulkReserve i
    ranges := bulkRanges d (bulkMoves (s.bulkTaken i) d) }

/-- The list of the descriptor taken from ring `i` lies on a stack in FAILING. -/
def State.bulkListUnread (s : State) (i : Nat) : Bool :=
  bdList (s.bulkHead i) && touchesFailing (s.bulkTaken i) (s.bulkHead i).src (32 * (s.bulkHead i).len) false

/-- The state after the moves of the descriptor taken from ring `i`, one by one. -/
def State.bulkCarriedOut (s : State) (i : Nat) : State :=
  bulkRun (s.bulkHead i) false (s.bulkRecord i) none none (bulkMoves (s.bulkTaken i) (s.bulkHead i)) (s.bulkTaken i)

/-- The ring is a bulk ring ENABLED with a descriptor that its memory serves, none is in progress, and this one passes the checks of R350 with
room for its completion entries. -/
structure State.BulkReady (s : State) (i : Nat) : Prop where
  enabled : (ringOf s i).state = .enabled
  bulk : (ringOf s i).type = .bulk
  used : (ringOf s i).used ≠ 0
  free : s.hif.bulk = []
  served : serves s ((ringOf s i).entry (ringOf s i).cons) 64 false = true
  checked : bulkCheck s (s.bulkHead i) = none
  room : bulkRoom (ringOf s (ringOf s i).linked.toNat).capacity (s.bulkHead i) = none
  takes : ringTakes s (ringOf s i).linked.toNat (s.bulkReserve i) = true

variable {s : State} {i : Nat} {kind : BulkDesc → Bool}

/-- A descriptor of another kind stays for its own row. -/
theorem takeBulk_of_other_kind (h : s.BulkReady i) (hkind : kind (s.bulkHead i) = false) (ans : HostAns) (bad : Option Nat) :
    takeBulk kind i ans bad s = s := by
  unfold State.bulkHead at hkind
  simp [takeBulk, h.enabled, h.bulk, h.used, h.free, h.served, hkind]

/-- A descriptor of the kind named is taken, and with bytes to move it runs where its list can be read. -/
theorem takeBulk_of_ready (h : s.BulkReady i) (hkind : kind (s.bulkHead i) = true) (hlen : (s.bulkHead i).len ≠ 0) :
    takeBulk kind i .ok none s
      = if s.bulkListUnread i then finishBulk (s.bulkRecord i) Status.hwStackFailed (s.bulkTaken i) else s.bulkCarriedOut i := by
  obtain ⟨henabled, hbulk, hused, hfree, hserved, hchecked, hroom, htakes⟩ := h
  unfold State.bulkListUnread State.bulkCarriedOut State.bulkRecord State.bulkTaken
  unfold State.bulkReserve at *
  unfold State.bulkHead at *
  simp [takeBulk, henabled, hbulk, hused, hfree, hserved, hkind, hchecked, hroom, htakes, hlen, meets]

theorem takeBulk_of_read (h : s.BulkReady i) (hkind : kind (s.bulkHead i) = true) (hlen : (s.bulkHead i).len ≠ 0)
    (hread : s.bulkListUnread i = false) : takeBulk kind i .ok none s = s.bulkCarriedOut i := by
  rw [takeBulk_of_ready h hkind hlen, hread, if_neg Bool.false_ne_true]

theorem takeBulk_of_unread (h : s.BulkReady i) (hkind : kind (s.bulkHead i) = true) (hlen : (s.bulkHead i).len ≠ 0)
    (hunread : s.bulkListUnread i = true) :
    takeBulk kind i .ok none s = finishBulk (s.bulkRecord i) Status.hwStackFailed (s.bulkTaken i) := by
  rw [takeBulk_of_ready h hkind hlen, if_pos hunread]

/-! ### The rows (R349, R351) -/

section
variable {ring : BitVec 14}

theorem exec_bulkCopy_of_read (h : s.BulkReady ring.toNat) (hlen : (s.bulkHead ring.toNat).len ≠ 0)
    (hread : s.bulkListUnread ring.toNat = false) (hop : (s.bulkHead ring.toNat).op = 1) (hweights : bdWeights (s.bulkHead ring.toNat) = false) :
    exec (.bulkCopy ring .ok) s = .next (s.bulkCarriedOut ring.toNat) :=
  congrArg Host.Outcome.next (takeBulk_of_read h (by simp [hop, hweights]) hlen hread)

theorem exec_bulkFill_of_read (h : s.BulkReady ring.toNat) (hlen : (s.bulkHead ring.toNat).len ≠ 0)
    (hread : s.bulkListUnread ring.toNat = false) (hop : (s.bulkHead ring.toNat).op = 3) :
    exec (.bulkFill ring .ok) s = .next (s.bulkCarriedOut ring.toNat) :=
  congrArg Host.Outcome.next (takeBulk_of_read h (by simp [hop]) hlen hread)

theorem exec_bulkLaneUnit_of_read (h : s.BulkReady ring.toNat) (hlen : (s.bulkHead ring.toNat).len ≠ 0)
    (hread : s.bulkListUnread ring.toNat = false) (hop : (s.bulkHead ring.toNat).op = 2) :
    exec (.bulkLaneUnit ring .ok) s = .next (s.bulkCarriedOut ring.toNat) :=
  congrArg Host.Outcome.next (takeBulk_of_read h (by simp [hop]) hlen hread)

theorem exec_bulkWeightLoad_of_read (h : s.BulkReady ring.toNat) (hlen : (s.bulkHead ring.toNat).len ≠ 0)
    (hread : s.bulkListUnread ring.toNat = false) (hop : (s.bulkHead ring.toNat).op = 1) (hweights : bdWeights (s.bulkHead ring.toNat) = true) :
    exec (.bulkWeightLoad ring .ok) s = .next (s.bulkCarriedOut ring.toNat) :=
  congrArg Host.Outcome.next (takeBulk_of_read h (by simp [hop, hweights]) hlen hread)

/-- A fill stays where the row of copies meets it. -/
theorem exec_bulkCopy_of_fill (h : s.BulkReady ring.toNat) (hop : (s.bulkHead ring.toNat).op = 3) : exec (.bulkCopy ring .ok) s = .next s :=
  congrArg Host.Outcome.next (takeBulk_of_other_kind h (by simp [hop]) _ _)

theorem exec_bulkCopy_of_unread (h : s.BulkReady ring.toNat) (hlen : (s.bulkHead ring.toNat).len ≠ 0)
    (hunread : s.bulkListUnread ring.toNat = true) (hop : (s.bulkHead ring.toNat).op = 1) (hweights : bdWeights (s.bulkHead ring.toNat) = false) :
    exec (.bulkCopy ring .ok) s = .next (finishBulk (s.bulkRecord ring.toNat) Status.hwStackFailed (s.bulkTaken ring.toNat)) :=
  congrArg Host.Outcome.next (takeBulk_of_unread h (by simp [hop, hweights]) hlen hunread)

/-- A host completion that has not come ends its descriptor. -/
theorem exec_bulkHostTimeout_of_job {k : BulkJob} (h : s.hif.bulk.find? (fun j => j.ring = ring.toNat) = some k) :
    exec (.bulkHostTimeout ring) s = .next (finishBulk k Status.hwUnitFault (advanceTo (k.since + 50000000) s)) := by
  show execBulkHostTimeout ring s = _
  rw [execBulkHostTimeout, h]

end

end Sys2Proof.Machine

namespace Sys2Proof.Proofs

open Sys2Proof.Machine

/-- Settles O34: the head descriptor passes its checks, and then its kind says which row takes it and its list whether it runs. -/
theorem bulkWork : Obligations.BulkWork := by
  unfold Obligations.BulkWork
  intro ring s i r d l posts taken j unread
  refine ⟨?run, ?unread, fun k => exec_bulkHostTimeout_of_job⟩
  case run =>
    intro henabled hbulk hused hfree hserved hchecked hroom htakes hlen hread
    have hready : s.BulkReady i := ⟨henabled, hbulk, hused, hfree, hserved, hchecked, hroom, htakes⟩
    refine ⟨?copy, ?fill, ?lane, ?weights, ?other⟩
    case copy => exact fun hop hweights => exec_bulkCopy_of_read hready hlen hread hop hweights
    case fill => exact fun hop => exec_bulkFill_of_read hready hlen hread hop
    case lane => exact fun hop => exec_bulkLaneUnit_of_read hready hlen hread hop
    case weights => exact fun hop hweights => exec_bulkWeightLoad_of_read hready hlen hread hop hweights
    case other => exact fun hop => exec_bulkCopy_of_fill hready hop
  case unread =>
    intro henabled hbulk hused hfree hserved hchecked hroom htakes hlen hunread hop hweights
    have hready : s.BulkReady i := ⟨henabled, hbulk, hused, hfree, hserved, hchecked, hroom, htakes⟩
    exact exec_bulkCopy_of_unread hready hlen hunread hop hweights

end Sys2Proof.Proofs
end

section
/-! SUPPORT. A persistent error in the reads of an admission, with the module's event ring in use. -/

namespace Sys2Proof.Machine

/-- IDLE with the memories up, and ring 5 of HBM3E, an event ring ENABLED and empty, as the module's event ring. -/
def recordingIdle : State :=
  { msc := { mode := .idle }, tps := { groups := 63 }
    hif := { evRingEn := true, evRing := 5, rings := [(5, { type := .event, state := .enabled })] } }

/-- The first byte of the ring's memory becomes the type of an event record, that of the retry bit (R221, R341). -/
theorem mem_of_recorded_persistent : Memory.get 0 (recordPersistent 0 .admission recordingIdle).mem = 0x31 := by decide +kernel

/-- An admission keeps the address for its check 2 beside what recording the error does (R222). -/
theorem exec_persistentError_admission {a : Nat} (h : a < hbmEnd) (s : State) : exec (.persistentError a .admission) s
    = .next { recordPersistent a .admission s with
        seq := { (recordPersistent a .admission s).seq with admitBad := a :: (recordPersistent a .admission s).seq.admitBad } } := by
  have htier : tierOf a = 0 := if_pos h
  show execPersistentError a .admission s = _
  rw [execPersistentError, if_neg (by rw [htier]; decide)]

end Sys2Proof.Machine

namespace Sys2Proof.Proofs

open Sys2Proof.Machine

/-- Refutes O45: of a persistent error in the reads of an admission the statement says that device memory stays as it is, in every state. The
error sets event bits, and with the module's event ring in use their records are stored in that ring's memory (R222, R341). The clause
needs the premise that no event ring is in use, which the clause on a ring's own error has. -/
theorem not_memoryErrors : ¬ Obligations.MemoryErrors := by
  unfold Obligations.MemoryErrors
  intro h
  obtain ⟨-, -, -, -, hadmission, -⟩ := h recordingIdle
  obtain ⟨t, hexec, -, -, hmem, -⟩ := hadmission 0 (by decide)
  rw [exec_persistentError_admission (by decide)] at hexec
  injection hexec with ht
  have hkept : (recordPersistent 0 .admission recordingIdle).mem = recordingIdle.mem := by rw [← hmem, ← ht]
  have hbyte := mem_of_recorded_persistent
  rw [hkept] at hbyte
  exact absurd hbyte (by decide)

end Sys2Proof.Proofs
end

section
/-! SUPPORT. Event bits: setting one sets it, and recording an event clears none. -/

namespace Sys2Proof.Machine

/-! ### Event-status registers (R341, R444) -/

/-- Bit `b` of the event-status register of source `c` is set. -/
def State.hasBit (s : State) (c : Src) (b : Nat) : Prop := (s.ev.read c).toNat.testBit b = true

/-- `f` clears no event bit. -/
def ClearsNoBit (f : State → State) : Prop := ∀ s c b, s.hasBit c b → (f s).hasBit c b

theorem clearsNoBit_of_ev {f : State → State} (h : ∀ s, (f s).ev = s.ev) : ClearsNoBit f := fun s c b hset => by
  rw [State.hasBit, h]
  exact hset

theorem EventRegs.read_write (e : EventRegs) (c d : Src) (w : Word) : (e.write c w).read d = if d = c then w else e.read d := by
  cases c <;> cases d <;> rfl

theorem sendVector_ev (v : Nat) (s : State) : (sendVector v s).ev = s.ev := by
  unfold sendVector
  split
  · rfl
  · split <;> rfl

theorem irqIfPending_ev (c : Src) (s : State) : (irqIfPending c s).ev = s.ev := by
  unfold irqIfPending
  split
  · exact sendVector_ev _ s
  · rfl

theorem setBit_ev (c : Src) (b : Nat) (s : State) : (setBit c b s).ev = s.ev.write c (s.ev.read c ||| BitVec.ofNat 32 (2 ^ b)) := by
  unfold setBit
  dsimp only
  split
  · rfl
  · exact irqIfPending_ev c _

theorem setBit_sets {b : Nat} (hb : b < 32) (c : Src) (s : State) : (setBit c b s).hasBit c b := by
  rw [State.hasBit, setBit_ev, EventRegs.read_write, if_pos rfl, BitVec.toNat_or, Nat.testBit_or, BitVec.toNat_ofNat, Nat.testBit_mod_two_pow,
    Nat.testBit_two_pow_self]
  simp [hb]

theorem setBit_clearsNoBit (c : Src) (b : Nat) : ClearsNoBit (setBit c b) := fun s d k hset => by
  rw [State.hasBit, setBit_ev, EventRegs.read_write]
  split
  next hsame =>
    subst hsame
    rw [BitVec.toNat_or, Nat.testBit_or, Bool.or_eq_true]
    exact Or.inl hset
  next => exact hset

/-! ### Recording an event (R332, R341, R427) -/

theorem writeByte_ev (a : Nat) (v : Byte) (s : State) : (writeByte a v s).ev = s.ev := by
  unfold writeByte
  split <;> rfl

theorem writeBytes_ev (bs : List Byte) (a : Nat) (s : State) : (writeBytes a bs s).ev = s.ev := by
  induction bs generalizing a s with
  | nil => rfl
  | cons b r ih => rw [writeBytes, ih, writeByte_ev]

theorem ringSignal_ev (i : Nat) (s : State) : (ringSignal i s).ev = s.ev := by
  unfold ringSignal
  dsimp only
  split
  · split
    · exact sendVector_ev _ _
    · rfl
  · rfl

theorem ringStore_ev (i : Nat) (e : List Byte) (s : State) : (ringStore i e s).ev = s.ev := by
  unfold ringStore
  rw [ringSignal_ev, modRing_ev, storeTask, staleRegions_ev, writeBytes_ev]

theorem writeGap_ev (i : Nat) (s : State) : (writeGap i s).ev = s.ev := by
  unfold writeGap
  dsimp only
  split
  · rfl
  · split
    · exact ringStore_ev i _ _
    · rfl

theorem eventCopies_ev (c : Src) (e : List Byte) (s : State) : (eventCopies c e s).ev = s.ev := by
  refine each_keeps State.ev _ _ (fun n u => ?_) s
  dsimp only
  split <;> rfl

theorem journalEvent_ev (number : Nat) (head tail : List Byte) (s : State) : (journalEvent number head tail s).ev = s.ev := by
  unfold journalEvent
  dsimp only
  split_ifs <;> rfl

theorem journalRecord_ev (c : Src) (b number : Nat) (e : List Byte) (i : EvInfo) (s : State) : (journalRecord c b number e i s).ev = s.ev := by
  unfold journalRecord
  split
  · exact journalEvent_ev _ _ _ s
  · rfl

theorem eventLost_clearsNoBit (i number : Nat) : ClearsNoBit (eventLost i number) := fun _ c b hset =>
  setBit_clearsNoBit .hif 4 _ c b hset

theorem putEvent_clearsNoBit (ring number : Nat) (e : List Byte) {fault : State → State} (h : ClearsNoBit fault) :
    ClearsNoBit (putEvent ring number e fault) := fun s c b hset => by
  have hgap : (writeGap ring s).hasBit c b := clearsNoBit_of_ev (writeGap_ev ring) s c b hset
  unfold putEvent
  dsimp only
  split_ifs
  · exact hgap
  · exact hgap
  · exact clearsNoBit_of_ev (ringStore_ev ring e) _ c b hgap
  · exact h _ c b hgap
  · exact eventLost_clearsNoBit ring number _ c b hgap
  · exact hgap

theorem eventRings_clearsNoBit (graphRing : Option Nat) {put : Nat → State → State} (h : ∀ r, ClearsNoBit (put r)) :
    ClearsNoBit (eventRings graphRing put) := fun s c b hset => by
  unfold eventRings
  cases graphRing with
  | none =>
    dsimp only
    split
    · exact h _ s c b hset
    · exact hset
  | some r =>
    dsimp only
    split
    · exact h _ _ c b (h r s c b hset)
    · exact h r s c b hset

theorem writeRecord_clearsNoBit (d : Src) (k : Nat) (i : EvInfo) {fault : Nat → State → State} (h : ∀ r, ClearsNoBit (fault r)) :
    ClearsNoBit (writeRecord d k i fault) := fun s c b hset => by
  rw [writeRecord, State.hasBit, journalRecord_ev, eventCopies_ev]
  exact eventRings_clearsNoBit _ (fun r => putEvent_clearsNoBit r _ _ (h r)) _ c b hset

/-- The bit's own setting comes first, and the record after it clears nothing. -/
theorem raiseWith_keeps_of_setBit {fault : Nat → State → State} (h : ∀ r, ClearsNoBit (fault r)) (d : Src) (k : Nat) (i : EvInfo)
    {s : State} {c : Src} {b : Nat} (hset : (setBit d k s).hasBit c b) : (raiseWith fault d k i s).hasBit c b := by
  unfold raiseWith
  split
  · exact writeRecord_clearsNoBit d k i h _ c b hset
  · exact hset

theorem raiseFuel_clearsNoBit (fuel : Nat) (d : Src) (k : Nat) (i : EvInfo) : ClearsNoBit (raiseFuel fuel d k i) := by
  induction fuel generalizing d k i with
  | zero => exact fun s c b hset => raiseWith_keeps_of_setBit (fun _ => setBit_clearsNoBit _ _) d k i (setBit_clearsNoBit d k s c b hset)
  | succ n ih => exact fun s c b hset => raiseWith_keeps_of_setBit (fun _ => ih _ _ _) d k i (setBit_clearsNoBit d k s c b hset)

theorem raise_clearsNoBit (d : Src) (k : Nat) (i : EvInfo) : ClearsNoBit (raise d k i) := raiseFuel_clearsNoBit 2 d k i

/-- An event raised stands in its event-status register. -/
theorem raise_sets {b : Nat} (hb : b < 32) (c : Src) (i : EvInfo) (s : State) : (raise c b i s).hasBit c b :=
  raiseWith_keeps_of_setBit (fun _ => raiseFuel_clearsNoBit _ _ _ _) c b i (setBit_sets hb c s)

end Sys2Proof.Machine
end

section
/-! SUPPORT. Lanes, frames and ports of the links: what a change of one lane leaves of the others, what a frame on an active lane comes to,
and what a lane leaves when it is dropped. -/

namespace Sys2Proof.Machine

variable {s : State}

/-! ### One lane changed (R263) -/

theorem update_getD_other {α : Type} (l : List α) {i j : Nat} (f : α → α) (d : α) (h : j ≠ i) : (update l i f).getD j d = l.getD j d := by
  induction l generalizing i j with
  | nil => rfl
  | cons a r ih =>
    cases i with
    | zero =>
      obtain ⟨k, rfl⟩ := Nat.exists_eq_succ_of_ne_zero h
      rfl
    | succ n =>
      cases j with
      | zero => rfl
      | succ k => exact ih (fun hk => h (congrArg Nat.succ hk))

theorem linkLane_of_ole {t : State} (h : t.ole.lanes = s.ole.lanes) (l : Nat) : linkLane t l = linkLane s l := by
  rw [linkLane, h, linkLane]

theorem linkLane_modLinkLane_same {l : Nat} (f : LinkLane → LinkLane) (h : l < s.ole.lanes.length) :
    linkLane (modLinkLane l f s) l = f (linkLane s l) := update_getD s.ole.lanes l f {} (Or.inr h)

theorem linkLane_modLinkLane_other {k l : Nat} (f : LinkLane → LinkLane) (h : k ≠ l) : linkLane (modLinkLane l f s) k = linkLane s k :=
  update_getD_other s.ole.lanes f {} h

@[simp] theorem linkLane_raise (c : Src) (b : Nat) (i : EvInfo) (l : Nat) : linkLane (raise c b i s) l = linkLane s l :=
  linkLane_of_ole (by rw [raise_ole]) l

@[simp] theorem linkLane_modColl (f : Coll → Coll) (l : Nat) : linkLane (modColl f s) l = linkLane s l := rfl

/-! ### The collective in progress (R249) -/

theorem liveColl_of_none (h : s.ole.coll = none) : liveColl s = none := by
  rw [liveColl, h]

theorem coll_of_liveColl {c : Coll} {g : Graph} (h : liveColl s = some (c, g)) : s.ole.coll = some c := by
  unfold liveColl at h
  split at h
  · exact absurd h nofun
  next d hcoll =>
    rw [hcoll]
    split at h
    · exact absurd h nofun
    · split at h
      · injection h with hpair
        injection hpair with hd
        rw [hd]
      · exact absurd h nofun

theorem modColl_congr {c : Coll} {f h : Coll → Coll} (hcoll : s.ole.coll = some c) (hfh : f c = h c) : modColl f s = modColl h s := by
  rw [modColl, modColl, hcoll, Option.map_some, Option.map_some, hfh]

/-! ### A frame on an active lane is accepted, or discarded (R240) -/

section
variable {f : LinkFrame} {ty : Nat} (hactive : (linkLane s f.lane).state = .active)
include hactive

theorem judged_of_good (hgood : frameGood f ty = true) (off bad good : Out) :
    (if (linkLane s f.lane).state ≠ .active then off else if !frameGood f ty then bad else good) = good := by
  rw [if_neg (not_not_intro hactive), hgood]
  rfl

theorem judged_of_bad (hbad : frameGood f ty = false) (off bad good : Out) :
    (if (linkLane s f.lane).state ≠ .active then off else if !frameGood f ty then bad else good) = bad := by
  rw [if_neg (not_not_intro hactive), hbad]
  rfl

end

/-! ### DATA frames (R240, R252, R253, R256) -/

/-- The state once an accepted DATA frame is counted and the report it carries is noted. -/
def countFrame (f : LinkFrame) (s : State) : State :=
  takeReport f { s with ole := { s.ole with cur := { s.ole.cur with frames := s.ole.cur.frames + 1 } } }

theorem linkLane_takeReport (f : LinkFrame) (l : Nat) : linkLane (takeReport f s) l = linkLane s l := by
  unfold takeReport
  split <;> rfl

theorem coll_takeReport_of_none (f : LinkFrame) (h : s.ole.coll = none) : (takeReport f s).ole.coll = none := by
  unfold takeReport
  split
  · rw [modColl_ole, h]
    rfl
  · exact h

theorem linkLane_countFrame (f : LinkFrame) (l : Nat) : linkLane (countFrame f s) l = linkLane s l := linkLane_takeReport f l

theorem liveColl_countFrame_of_none (f : LinkFrame) (h : s.ole.coll = none) : liveColl (countFrame f s) = none :=
  liveColl_of_none (coll_takeReport_of_none f h)

section
variable {f : LinkFrame} (hactive : (linkLane s f.lane).state = .active)
include hactive

theorem exec_frameData_of_bad (hbad : frameGood f 1 = false) : exec (.frameData f) s = .next (discardFrame f.lane f s) :=
  judged_of_bad hactive hbad ..

theorem exec_frameData_of_idle (hgood : frameGood f 1 = true) (hcoll : s.ole.coll = none) :
    exec (.frameData f) s = .next (countFrame f s) := by
  refine (judged_of_good hactive hgood ..).trans ?_
  have hlive : liveColl (countFrame f s) = none := liveColl_countFrame_of_none f hcoll
  extract_lets _ _ u
  change liveColl u = none at hlive
  rw [hlive]
  rfl

/-- A frame of the phase that is still missing is stored in its place of the receive area, acknowledged, and held (R253). -/
theorem exec_frameData_of_missing (hgood : frameGood f 1 = true) {c : Coll} {g : Graph} {q v : Nat}
    (hlive : liveColl (countFrame f s) = some (c, g)) :
    let p := (linkLane s f.lane).port.toNat
    let n := frameNumber (lowestMissing c p) (frameSeq f.check)
    arriving (countFrame f s) c g p = some (q, v) → n < framesOf c.size → c.got.contains (p, n) = false → exec (.frameData f) s
      = .next (awaitPeer q (takeAck f.lane f (modColl (fun c => moveCursor f.lane n { c with got := (p, n) :: c.got })
          (taskWrite g (c.recv + v * c.size + 472 * n) (f.payload.take (c.size - 472 * n)) (countFrame f s))))) := by
  intro p n harrives hwithin hmissing
  refine (judged_of_good hactive hgood ..).trans ?_
  have hnew : ¬ (framesOf c.size ≤ n ∨ c.got.contains (p, n) = true) := by
    rw [hmissing]
    exact not_or.2 ⟨Nat.not_le.2 hwithin, Bool.false_ne_true⟩
  have hlane : linkLane (countFrame f s) f.lane = linkLane s f.lane := linkLane_countFrame f f.lane
  extract_lets _ _ u port
  have hport : port = p := congrArg (fun x => x.port.toNat) hlane
  change liveColl u = _ at hlive
  change arriving u c g p = _ at harrives
  rw [hlive]
  dsimp only
  rw [hport, harrives]
  exact if_neg hnew

/-! ### IDLE frames (R240, R247) -/

theorem exec_frameIdle_of_verified (hgood : frameGood f 2 = true) (hreconf : s.ole.reconf = []) :
    exec (.frameIdle f) s = .next (takeAck f.lane f (takeReport f s)) := by
  refine (judged_of_good hactive hgood ..).trans ?_
  have hole : ({ s.ole with reconf := [] } : Ole) = s.ole := by rw [← hreconf]
  simp only [hreconf, List.map_nil, List.filter_nil, hole]

/-! ### RESEND_REQ frames (R254) -/

theorem exec_frameResendReq_of_bad (hbad : frameGood f 3 = false) : exec (.frameResendReq f) s = .next (discardFrame f.lane f s) :=
  judged_of_bad hactive hbad ..

/-- The named frame was sent: its failures on the lane that carried it are counted, and with that lane in service it goes on it again, or at
the fourth drops it. -/
theorem exec_frameResendReq_of_sent (hgood : frameGood f 3 = true) {c : Coll} {g : Graph} {x : Nat × Nat × Nat}
    (hlive : liveColl s = some (c, g)) :
    let p := (linkLane s f.lane).port.toNat
    let n := frameNumber (acked c p) (frameAck f.check)
    let times := ((c.fails.find? (fun y => decide (y.1 = x.2.1) && decide (y.2.1 = n))).map (fun y => y.2.2)).getD 0 + 1
    let u := modColl (fun d => { d with
      fails := (x.2.1, n, times) :: d.fails.filter (fun y => !(decide (y.1 = x.2.1) && decide (y.2.1 = n))) }) s
    c.sent.find? (fun x => decide (x.1 = p) && decide (x.2.2 = n)) = some x → (linkLane s x.2.1).state = .active →
    exec (.frameResendReq f) s = .next (if times = 4 then dropLanes true [x.2.1] u else resendOn p n x.2.1 u) := by
  intro p n times u hsent hserves
  refine (judged_of_good hactive hgood ..).trans ?_
  rw [hlive]
  dsimp only
  rw [hsent]
  dsimp only
  rw [linkLane_modColl, hserves]
  by_cases hfourth : times = 4
  · rw [if_pos hfourth, if_pos ⟨hfourth, rfl⟩]
  · rw [if_neg hfourth, if_neg (fun h => hfourth h.1), if_pos rfl]

theorem exec_frameResendReq_first (hgood : frameGood f 3 = true) {c : Coll} {g : Graph} {x : Nat × Nat × Nat}
    (hlive : liveColl s = some (c, g)) :
    let p := (linkLane s f.lane).port.toNat
    let n := frameNumber (acked c p) (frameAck f.check)
    c.sent.find? (fun x => decide (x.1 = p) && decide (x.2.2 = n)) = some x → (linkLane s x.2.1).state = .active → c.fails = [] →
    exec (.frameResendReq f) s = .next (resendOn p n x.2.1 (modColl (fun c => { c with fails := [(x.2.1, n, 1)] }) s)) := by
  intro p n hsent hserves hfails
  refine (exec_frameResendReq_of_sent hactive hgood hlive hsent hserves).trans ?_
  simp only [hfails, List.find?_nil]
  refine congrArg (fun u => Host.Outcome.next (resendOn p n x.2.1 u)) (modColl_congr (coll_of_liveColl hlive) ?_)
  rw [hfails]
  rfl

theorem exec_frameResendReq_fourth (hgood : frameGood f 3 = true) {c : Coll} {g : Graph} {x : Nat × Nat × Nat}
    (hlive : liveColl s = some (c, g)) :
    let p := (linkLane s f.lane).port.toNat
    let n := frameNumber (acked c p) (frameAck f.check)
    c.sent.find? (fun x => decide (x.1 = p) && decide (x.2.2 = n)) = some x → (linkLane s x.2.1).state = .active →
    c.fails = [(x.2.1, n, 3)] →
    exec (.frameResendReq f) s = .next (dropLanes true [x.2.1] (modColl (fun c => { c with fails := [(x.2.1, n, 4)] }) s)) := by
  intro p n hsent hserves hfails
  have hfound : c.fails.find? (fun y => decide (y.1 = x.2.1) && decide (y.2.1 = n)) = some (x.2.1, n, 3) := by
    rw [hfails]
    exact List.find?_cons_of_pos (by simp)
  refine (exec_frameResendReq_of_sent hactive hgood hlive hsent hserves).trans ?_
  rw [hfound]
  refine congrArg (fun u => Host.Outcome.next (dropLanes true [x.2.1] u)) (modColl_congr (coll_of_liveColl hlive) ?_)
  have hkept : c.fails.filter (fun y => !(decide (y.1 = x.2.1) && decide (y.2.1 = n))) = [] := by
    rw [hfails]
    exact List.filter_cons_of_neg (by simp)
  rw [hkept]
  rfl

/-! ### SERVICE frames (R258, R301) -/

theorem exec_frameService_of_pausing (hgood : frameGood f 4 = true) (hpausing : f.pausing = true) : exec (.frameService f) s
    = .next (each f.names (fun l t => modLinkLane l (fun x => { x with pauseUntil := some (now t + 10000) }) t) s) :=
  (judged_of_good hactive hgood ..).trans (if_pos hpausing)

theorem exec_frameService_of_failing (hgood : frameGood f 4 = true) (hfailing : f.pausing = false) :
    exec (.frameService f) s = .next (dropLanes false f.names (takeReport f s)) :=
  (judged_of_good hactive hgood ..).trans (if_neg (by rw [hfailing]; exact Bool.false_ne_true))

end

/-! ### A frame discarded with no collective in progress (R240, R258, R263) -/

/-- The state once a frame discarded on lane `l` is counted, for the block and for the lane. -/
def countDiscard (l : Nat) (s : State) : State :=
  modLinkLane l (fun x => { x with fails := x.fails + 1, epochFails := x.epochFails + 1 })
    { s with ole := { s.ole with cur := { s.ole.cur with crc := s.ole.cur.crc + 1 } } }

theorem linkLane_countDiscard {l : Nat} (h : l < s.ole.lanes.length) : linkLane (countDiscard l s) l
    = { linkLane s l with fails := (linkLane s l).fails + 1, epochFails := (linkLane s l).epochFails + 1 } :=
  linkLane_modLinkLane_same _ h

theorem discardFrame_of_idle (l : Nat) (f : LinkFrame) (hcoll : s.ole.coll = none) :
    discardFrame l f s = raise .ole 0 { unit := some l } (countDiscard l s) := by
  have hlive : liveColl (raise .ole 0 { unit := some l } (countDiscard l s)) = none := liveColl_of_none (by rw [raise_ole]; exact hcoll)
  unfold countDiscard at hlive ⊢
  unfold discardFrame
  dsimp only
  rw [hlive]

/-! ### Lanes that leave service (R258, R301) -/

theorem dropLanes_of_inactive {detects : Bool} {l : Nat} (h : (linkLane s l).state ≠ .active) : dropLanes detects [l] s = s := by
  have hdown : [l].filter (fun k => decide ((linkLane s k).state = .active)) = [] := by simp [h]
  unfold dropLanes
  rw [hdown]
  rfl

/-- Announcing failed lanes sends frames and does no more. -/
theorem announce_keeps {β : Type} (part : State → β) (h : ∀ o s, part (emit o s) = part s) (names : List Nat) (pausing : Bool) (s : State) :
    part (announce names pausing s) = part s := by
  refine each_keeps part _ _ (fun p u => ?_) s
  dsimp only
  split
  · rfl
  · exact each_keeps part _ _ (fun k t => h _ t) u

/-- Lane `l` DROPPED, with its event. -/
def dropLane (l : Nat) (s : State) : State :=
  raise .ole 2 { unit := some l } (modLinkLane l (fun x => { x with state := .dropped, retested := false }) s)

/-- Lane `l` waits for no verification any more. -/
def forgetLane (l : Nat) (s : State) : State :=
  { s with ole := { s.ole with reconf := s.ole.reconf.filter (fun r => !([l].contains r.1)) } }

@[simp] theorem forgetLane_ev (l : Nat) (s : State) : (forgetLane l s).ev = s.ev := rfl
@[simp] theorem forgetLane_seq (l : Nat) (s : State) : (forgetLane l s).seq = s.seq := rfl
@[simp] theorem forgetLane_coll (l : Nat) (s : State) : (forgetLane l s).ole.coll = s.ole.coll := rfl
@[simp] theorem linkLane_forgetLane (l k : Nat) (s : State) : linkLane (forgetLane l s) k = linkLane s k := rfl

/-- With no collective in progress a lane that fails is dropped and announced. -/
theorem dropLanes_of_active {l : Nat} (hactive : (linkLane s l).state = .active) (hcoll : s.ole.coll = none) :
    dropLanes true [l] s = forgetLane l (announce [l] false (dropLane l s)) := by
  have hdown : [l].filter (fun k => decide ((linkLane s k).state = .active)) = [l] := by simp [hactive]
  have hnone : (announce [l] false (dropLane l s)).ole.coll = none := by
    rw [announce_keeps State.ole emit_ole, dropLane, raise_ole]
    exact hcoll
  have hlive : liveColl (forgetLane l (announce [l] false (dropLane l s))) = none :=
    liveColl_of_none (by rw [forgetLane_coll, hnone])
  unfold forgetLane dropLane at hlive ⊢
  unfold dropLanes
  rw [hdown]
  simp only [List.isEmpty_cons, Bool.false_eq_true, if_false, if_true, each]
  split
  · rfl
  next hsome => exact absurd (hlive.symm.trans hsome) nofun

/-- What the drop of a lane in service leaves: the lane DROPPED with its event, the almanac and every other lane as they were (R258). -/
theorem dropLanes_frame {l : Nat} (hactive : (linkLane s l).state = .active) (hcoll : s.ole.coll = none) (hlane : l < s.ole.lanes.length) :
    (linkLane (dropLanes true [l] s) l).state = .dropped ∧ (dropLanes true [l] s).hasBit .ole 2
      ∧ (dropLanes true [l] s).seq = s.seq ∧ ∀ k, k ≠ l → linkLane (dropLanes true [l] s) k = linkLane s k := by
  have hlanes (k : Nat) : linkLane (dropLanes true [l] s) k
      = linkLane (modLinkLane l (fun x => { x with state := .dropped, retested := false }) s) k := by
    rw [dropLanes_of_active hactive hcoll, linkLane_forgetLane, announce_keeps (linkLane · k) (fun _ _ => rfl), dropLane, linkLane_raise]
  refine ⟨?state, ?event, ?almanac, fun k hk => ?others⟩
  case state => rw [hlanes, linkLane_modLinkLane_same _ hlane]
  case event =>
    rw [State.hasBit, dropLanes_of_active hactive hcoll, forgetLane_ev, announce_keeps State.ev emit_ev]
    exact raise_sets (by decide) .ole _ _
  case almanac =>
    rw [dropLanes_of_active hactive hcoll, forgetLane_seq, announce_keeps State.seq emit_seq, dropLane, raise_seq, modLinkLane_seq]
  case others => rw [hlanes, linkLane_modLinkLane_other _ hk]

end Sys2Proof.Machine

namespace Sys2Proof.Proofs

open Sys2Proof.Machine

/-- Settles O46: a frame on an active lane is accepted or discarded, and each kind of accepted frame has its own effect. -/
theorem linkFrames : Obligations.LinkFrames := by
  unfold Obligations.LinkFrames
  intro f s hactive counted
  refine ⟨?idle, ?stored, ?bad, ?verified, ?badRequest, ?request, ?pausing, ?failing, ?discarded⟩
  case idle => exact exec_frameData_of_idle hactive
  case stored => exact fun c g q v hgood hlive => exec_frameData_of_missing hactive hgood hlive
  case bad => exact exec_frameData_of_bad hactive
  case verified => exact exec_frameIdle_of_verified hactive
  case badRequest => exact exec_frameResendReq_of_bad hactive
  case request =>
    intro c g x hgood hlive p n hsent hserves
    exact ⟨exec_frameResendReq_first hactive hgood hlive hsent hserves, exec_frameResendReq_fourth hactive hgood hlive hsent hserves⟩
  case pausing => exact exec_frameService_of_pausing hactive
  case failing => exact exec_frameService_of_failing hactive
  case discarded =>
    intro hbad hcoll hlane
    refine ⟨_, (exec_frameData_of_bad hactive hbad).trans (congrArg Host.Outcome.next (discardFrame_of_idle f.lane f hcoll)), ?_⟩
    rw [linkLane_raise, linkLane_countDiscard hlane, raise_ole, raise_seq, raise_stalls]
    exact ⟨rfl, rfl, hactive, raise_sets (by decide) .ole _ _, rfl, rfl⟩

end Sys2Proof.Proofs
end

section
/-! SUPPORT. The rows of lanes and ports. -/

namespace Sys2Proof.Machine

variable {s : State}

/-! ### Lanes (R258, R301) -/

section
variable {l : Nat}

theorem exec_laneLockLoss_of_tested (h : (linkLane s l).pauseUntil = none) : exec (.laneLockLoss l) s = .next (dropLanes true [l] s) :=
  if_neg (by simp [h])

theorem exec_laneLockLoss_of_pausing {t : Nat} (h : (linkLane s l).pauseUntil = some t) : exec (.laneLockLoss l) s = .next s :=
  if_pos (by simp [h])

theorem exec_laneLockLoss_of_inactive (htested : (linkLane s l).pauseUntil = none) (hstate : (linkLane s l).state ≠ .active) :
    exec (.laneLockLoss l) s = .next s := by
  rw [exec_laneLockLoss_of_tested htested, dropLanes_of_inactive hstate]

theorem exec_laneDiscardLimit_of_exceeded (h : 8 < (linkLane s l).epochFails) :
    exec (.laneDiscardLimit l) s = .next (dropLanes true [l] s) := if_pos h

theorem exec_lanePauseEnd_of_pausing {t : Nat} (h : (linkLane s l).pauseUntil = some t) :
    exec (.lanePauseEnd l) s = .next (modLinkLane l (fun x => { x with pauseUntil := none }) (advanceTo t s)) := by
  show execLanePauseEnd l s = _
  rw [execLanePauseEnd, h]

end

/-! ### Ports (R243, R260, R261) -/

section
variable {p : Nat} {o : TrainObs}

theorem exec_portLightArrival_of_dark (hrunning : running s = true) (hdark : (portOf s p).state = .dark) (hp : p < 4) :
    exec (.portLightArrival p) s = .next (trainPort p (modPort p (fun q => { q with blocked := false, probes := 0 }) s)) :=
  if_pos ⟨hrunning, hdark, hp⟩

theorem exec_aprProbe_of_dark (hrunning : running s = true) (hdark : (portOf s p).state = .dark) (hp : p < 4) :
    exec (.aprProbe p) s = .next (modPort p (fun q => { q with probes := q.probes + 1 }) (emit (.probe p) s)) :=
  if_pos ⟨hrunning, hdark, hp⟩

theorem exec_lossOfSignal_of_lit (hlit : (portOf s p).state ≠ .dark) (hp : p < 4) : exec (.lossOfSignal p) s = .next (
    raise .ole 4 { unit := some p } (raise .ole 5 { unit := some p } (groupState (modPort p (fun q => { q with state := .dark }) (parkPort p s))))) :=
  if_neg (not_or.2 ⟨hlit, Nat.not_le.2 hp⟩)

theorem exec_portPowerMonitorTrip_of_port (hp : p < 4) : exec (.portPowerMonitorTrip p) s = .next (parkPort p s) :=
  if_neg (Nat.not_le.2 hp)

/-- The lanes steered to port `p` that passed the test frames of its training (R243). -/
def passedLanes (s : State) (p : Nat) (o : TrainObs) : List Nat :=
  (List.range 32).filter (fun l =>
    decide (steeredBy s.ole.restLanes s l = p) && decide ((linkLane s l).state ≠ .dark) && !o.failed.contains l)

theorem exec_portTrainingDone_of_passed (htraining : (portOf s p).state = .training) (hreason : trainReason s (passedLanes s p o) o = none) :
    exec (.portTrainingDone p o) s = .next (groupState (barFailed p o
      (each (passedLanes s p o) (fun l t => modLinkLane l (fun x => { x with state := .active, port := BitVec.ofNat 2 p, barred := false }) t)
        (modPort p (fun q => { q with
          state := .up, reason := 0, peer := o.index, peerPort := o.port, rtt := BitVec.ofNat 12 o.rtt }) s)))) := by
  refine (if_neg (not_not_intro htraining)).trans ?_
  unfold passedLanes at hreason
  dsimp only
  rw [hreason]
  rfl

/-- Training that fails with another peer than before is no trial of the links' firmware (R424). -/
theorem exec_portTrainingDone_of_refused {r : BitVec 2} (htraining : (portOf s p).state = .training)
    (hreason : trainReason s (passedLanes s p o) o = some r) (hpeer : (portOf s p).peer ≠ o.index) :
    exec (.portTrainingDone p o) s = .next (raise .ole 4 { unit := some p } (groupState (barFailed p o (modPort p (fun q => { q with
      state := .down, reason := r, peer := o.index, peerPort := o.port, rtt := BitVec.ofNat 12 (min o.rtt 4095) }) s)))) := by
  have hchanged : (decide ((portOf s p).peer = o.index) && decide ((portOf s p).peerPort = o.port)) = false := by simp [hpeer]
  refine (if_neg (not_not_intro htraining)).trans ?_
  unfold passedLanes at hreason
  dsimp only
  rw [hreason]
  dsimp only
  rw [hchanged]
  exact congrArg Host.Outcome.next (if_neg Bool.false_ne_true)

end

end Sys2Proof.Machine

namespace Sys2Proof.Proofs

open Sys2Proof.Machine

/-- Settles O47: each row of lanes and ports has one outcome under its conditions, and a lane that leaves service is all that its drop
changes of the lanes. -/
theorem lanesAndPorts : Obligations.LanesAndPorts := by
  unfold Obligations.LanesAndPorts
  intro s
  refine ⟨?tested, ?pausing, ?limit, ?pauseEnd, ?dark, ?passed, ?refused, ?loss, ?trip, ?dropped, ?inactive⟩
  case tested => exact fun l => exec_laneLockLoss_of_tested
  case pausing => exact fun l t => exec_laneLockLoss_of_pausing
  case limit => exact fun l => exec_laneDiscardLimit_of_exceeded
  case pauseEnd => exact fun l t => exec_lanePauseEnd_of_pausing
  case dark =>
    intro p hp hrunning hdark
    exact ⟨exec_portLightArrival_of_dark hrunning hdark hp, exec_aprProbe_of_dark hrunning hdark hp⟩
  case passed => exact fun p o => exec_portTrainingDone_of_passed
  case refused => exact fun p o r => exec_portTrainingDone_of_refused
  case loss => exact fun p hp hlit => exec_lossOfSignal_of_lit hlit hp
  case trip => exact fun p => exec_portPowerMonitorTrip_of_port
  case dropped =>
    intro l htested hcoll hlane hactive
    exact ⟨_, exec_laneLockLoss_of_tested htested, dropLanes_frame hactive hcoll hlane⟩
  case inactive => exact fun l => exec_laneLockLoss_of_inactive

end Sys2Proof.Proofs
end

section
/-! SUPPORT. The rows of a collective's phases and of link holds. -/

namespace Sys2Proof.Machine

variable {s : State} {t : Nat} {c : Coll} {g : Graph}

/-! ### The deadline of a reconfiguration (R247) -/

/-- At 3 us the lanes not verified by then are dropped, each with its event, and the phase's frames may be sent. -/
theorem exec_reconfigurationDeadline_of_steering (h : s.ole.steering = some t) : exec .reconfigurationDeadline s = .next (
    let u := advanceTo (t + 3000) s
    let late := s.ole.reconf.map (fun r => r.1)
    sendPhase (modColl (fun c => { c with waiting := false }) (each late (fun l s => raise .ole 6 { unit := some l } s)
      (dropLanes true late { u with ole := { u.ole with steering := none, reconf := [] } })))) := by
  show execReconfigurationDeadline s = _
  rw [execReconfigurationDeadline, h]
  rfl

/-! ### The end of a window (R255, R256) -/

section
variable (hlive : liveColl s = some (c, g)) (hsent : c.waiting = false) (hfree : s.seq.linkHold = none)
include hlive hsent hfree

theorem exec_phaseWindowEnd_of_complete (hnone : missingFrames (advanceTo (windowEnd s c g) (sendRequests s)) c g = []) :
    exec .phaseWindowEnd s = .next (nextPhase (advanceTo (windowEnd s c g) (sendRequests s))) := by
  show execPhaseWindowEnd s = _
  simp [execPhaseWindowEnd, hlive, hsent, hfree, hnone]

theorem exec_phaseWindowEnd_of_missing {m : Nat × Nat} :
    let u := advanceTo (windowEnd s c g) (sendRequests s)
    (missingFrames u c g).getLast? = some m → exec .phaseWindowEnd s = .next (
      raise .ole 1 { graph := some c.slot, task := c.task, unit := some m.1 } { u with
        seq := { u.seq with linkHold := some (now u) }
        ole := { u.ole with lastHold := { cause := if c.lost then 2 else if c.peerLate then 3 else if c.retried then 1 else 3
                                          peer := ((arriving u c g m.1).map (fun q => q.1)).getD 0, graph := c.slot, task := c.task } } }) := by
  intro u hlast
  show execPhaseWindowEnd s = _
  have hgo : ¬ (c.waiting = true ∨ s.seq.linkHold.isSome = true) := by simp [hsent, hfree]
  rw [execPhaseWindowEnd, hlive]
  refine (if_neg hgo).trans ?_
  dsimp only
  rw [hlast]

end

/-! ### Link holds (R256, R257) -/

section
variable (hhold : s.seq.linkHold = some t)
include hhold

theorem exec_linkHoldEnd_of_complete (hlive : liveColl s = some (c, g)) (hcomplete : phaseComplete s c g = true) :
    exec .linkHoldEnd s = .next (nextPhase (endLinkHold t s)) := by
  show execLinkHoldEnd s = _
  rw [execLinkHoldEnd, hhold]
  dsimp only
  rw [hlive]
  exact if_pos hcomplete

theorem exec_linkHoldEnd_of_idle (hcoll : s.ole.coll = none) : exec .linkHoldEnd s = .next (endLinkHold t s) := by
  show execLinkHoldEnd s = _
  rw [execLinkHoldEnd, hhold]
  dsimp only
  rw [liveColl_of_none hcoll]

theorem exec_linkHoldTimeout_of_incomplete (hlive : liveColl (advanceTo (t + 1000000) s) = some (c, g))
    (hincomplete : phaseComplete (advanceTo (t + 1000000) s) c g = false) :
    let u := advanceTo (t + 1000000) s
    exec .linkHoldTimeout s = .next (taskEnd c.slot c.task Status.hwLinkFailed 0 0 (endColl (endLinkHold t
      { u with ole := { u.ole with lastHold := { u.ole.lastHold with cause := 4 } } }))) := by
  intro u
  show execLinkHoldTimeout s = _
  rw [execLinkHoldTimeout, hhold]
  dsimp only
  rw [hlive]
  exact if_neg (by rw [hincomplete]; exact Bool.false_ne_true)

end

end Sys2Proof.Machine

namespace Sys2Proof.Proofs

open Sys2Proof.Machine

/-- Settles O48: the lanes not verified are a list that the deadline goes through, none or one of them here; a window and a hold split on
whether a frame of the phase is missing. -/
theorem collectivePhases : Obligations.CollectivePhases := by
  unfold Obligations.CollectivePhases
  intro s
  refine ⟨?verified, ?late, ?window, ?complete, ?idle, ?timeout⟩
  case verified =>
    intro t hsteering hverified
    rw [exec_reconfigurationDeadline_of_steering hsteering, hverified]
    rfl
  case late =>
    intro t l k hsteering hlate
    rw [exec_reconfigurationDeadline_of_steering hsteering, hlate]
    simp only [List.map_cons, List.map_nil, each]
  case window =>
    intro c g hlive hsent hfree u
    exact ⟨exec_phaseWindowEnd_of_complete hlive hsent hfree, fun m => exec_phaseWindowEnd_of_missing hlive hsent hfree⟩
  case complete => exact fun t c g => exec_linkHoldEnd_of_complete
  case idle => exact fun t => exec_linkHoldEnd_of_idle
  case timeout =>
    intro t c g u hhold hlive hincomplete
    exact exec_linkHoldTimeout_of_incomplete hhold hlive hincomplete

end Sys2Proof.Proofs
end

section
/-! SUPPORT. What start-up calibration and reacquisition leave as it was, and what the edition that they build makes current. -/

namespace Sys2Proof.Machine

/-! ### What measuring leaves (R267, R268, R285) -/

/-- From `s` to `t` nothing has changed of the steps of system calibration, the count of measurements, the edition in force and HBM3E; and no
weight region, as long as the module's event ring takes no record. -/
structure CalFrame (s t : State) : Prop where
  stage : t.cal.stage = s.cal.stage
  sysRun : t.cal.sysRun = s.cal.sysRun
  measured : t.cal.measured = s.cal.measured
  edition : t.tdw.edition = s.tdw.edition
  hms : t.hms = s.hms
  eventRing : t.hif.evRingEn = s.hif.evRingEn
  regions : s.hif.evRingEn = false → t.regions = s.regions

section
variable {s t u : State}

theorem CalFrame.refl (s : State) : CalFrame s s := ⟨rfl, rfl, rfl, rfl, rfl, rfl, fun _ => rfl⟩

theorem CalFrame.trans (h : CalFrame s t) (k : CalFrame t u) : CalFrame s u where
  stage := k.stage.trans h.stage
  sysRun := k.sysRun.trans h.sysRun
  measured := k.measured.trans h.measured
  edition := k.edition.trans h.edition
  hms := k.hms.trans h.hms
  eventRing := k.eventRing.trans h.eventRing
  regions hring := (k.regions (h.eventRing.trans hring)).trans (h.regions hring)

theorem calFrame_each {α : Type} {f : α → State → State} (h : ∀ a s, CalFrame s (f a s)) (l : List α) (s : State) :
    CalFrame s (each l f s) := by
  induction l generalizing s with
  | nil => exact .refl s
  | cons a r ih => exact (h a s).trans (ih (f a s))

theorem calFrame_raise {i : EvInfo} (hgraph : i.graph = none) (c : Src) (b : Nat) (s : State) : CalFrame s (raise c b i s) where
  stage := by rw [raise_cal]
  sysRun := by rw [raise_cal]
  measured := by rw [raise_cal]
  edition := by rw [raise_tdw]
  hms := raise_hms c b i s
  eventRing := raise_hif_evRingEn c b i s
  regions hring := by
    have h := congrArg (fun x : State => x.regions) (raise_stored hring hgraph c b)
    exact h

theorem calFrame_pmaEvent (b g : Nat) (detail : List Byte) (s : State) : CalFrame s (pmaEvent b g detail s) := calFrame_raise rfl .pma b s

theorem calFrame_modStall (g : Nat) (f : Stall → Stall) (s : State) : CalFrame s (modStall g f s) :=
  ⟨rfl, rfl, rfl, rfl, rfl, rfl, fun _ => rfl⟩

/-! ### Rows and stalls that fail (R66, R75, R268) -/

theorem calFrame_settleLine (a k : Nat) (s : State) : CalFrame s (settleLine a k s) := by
  unfold settleLine
  split
  · exact .refl s
  · exact calFrame_modStall _ _ s
  · exact (calFrame_modStall _ _ s).trans (calFrame_each (fun x => calFrame_modStall x _) _ _)

theorem calFrame_leaveLine (g : Nat) (s : State) : CalFrame s (leaveLine g s) := (calFrame_modStall g _ s).trans (calFrame_settleLine _ _ _)

theorem calFrame_substitute (g l : Nat) (s : State) : CalFrame s (substitute g l s) := by
  unfold substitute
  extract_lets _ _ x
  have hentry : CalFrame s { s with lge := { s.lge with subst := s.lge.subst ++ [x] } } := ⟨rfl, rfl, rfl, rfl, rfl, rfl, fun _ => rfl⟩
  split
  · exact .refl s
  · exact hentry.trans (calFrame_raise rfl .lge 0 _)

theorem calFrame_retireStall (needed : Bool) (g : Nat) (s : State) : CalFrame s (retireStall needed g s) := by
  unfold retireStall
  generalize (stallAt s g).logical = logical
  extract_lets _ retired told served
  have hretired : CalFrame s retired := calFrame_modStall g _ s
  have htold : CalFrame retired told := by
    refine CalFrame.trans ?_ (calFrame_pmaEvent 4 g [] _)
    split
    · exact calFrame_pmaEvent 5 g [] retired
    · exact .refl retired
  have hserved : CalFrame told served := by
    cases logical with
    | none => exact .refl told
    | some l => exact calFrame_substitute g l told
  exact ((hretired.trans htold).trans hserved).trans (calFrame_modStall g _ served)

theorem calFrame_failStall (o : CalObs) (g : Nat) (s : State) : CalFrame s (failStall o g s) := by
  unfold failStall
  extract_lets st rows bad kept free _ counted left
  split
  · have hcounted : CalFrame s counted := ⟨rfl, rfl, rfl, rfl, rfl, rfl, fun _ => rfl⟩
    split
    · exact hcounted
    · refine CalFrame.trans ?_ (calFrame_pmaEvent 2 g [] _)
      exact hcounted.trans (calFrame_modStall g _ counted)
  · have hleft : CalFrame s left := calFrame_leaveLine g s
    split
    · exact hleft.trans (calFrame_retireStall true g left)
    next h _ _ =>
      refine CalFrame.trans ?_ (calFrame_pmaEvent 3 h (le 2 g) _)
      refine CalFrame.trans ?_ (calFrame_settleLine (arcadeOf g) st.line _)
      refine CalFrame.trans ?_ (calFrame_modStall g _ _)
      exact hleft.trans (calFrame_modStall h _ left)

theorem calFrame_failRows (o : CalObs) (s : State) : CalFrame s (failRows o s) := by
  refine calFrame_each (fun g u => ?_) _ s
  split
  · exact .refl u
  · exact calFrame_failStall o g u

/-! ### Zones and the first commissioning (R267, R271, R285) -/

theorem calFrame_enterLoop (z : Nat) (s : State) : CalFrame s (enterLoop z s) := by
  have hzone (f : Zone → Zone) : CalFrame s (modZone z f s) := ⟨rfl, rfl, rfl, rfl, rfl, rfl, fun _ => rfl⟩
  unfold enterLoop
  split
  · exact .refl s
  · exact (hzone _).trans (calFrame_raise rfl .cal 4 _)

theorem calFrame_zonesSet (s : State) : CalFrame s (zonesSet s) := by
  unfold zonesSet
  extract_lets _ u
  have hpoints : CalFrame s u := ⟨rfl, rfl, rfl, rfl, rfl, rfl, fun _ => rfl⟩
  refine hpoints.trans (calFrame_each (fun z v => ?_) _ u)
  extract_lets d w
  have hfeed : CalFrame v w := ⟨rfl, rfl, rfl, rfl, rfl, rfl, fun _ => rfl⟩
  split
  · exact hfeed.trans (calFrame_enterLoop z w)
  · exact hfeed

theorem putMonRecord_cal (r : MonRecord) (s : State) : (putMonRecord r s).cal = { s.cal with record := some r } := rfl

theorem calFrame_putMonRecord (r : MonRecord) (s : State) : CalFrame s (putMonRecord r s) :=
  ⟨rfl, rfl, rfl, rfl, rfl, rfl, fun _ => rfl⟩

theorem calFrame_commissionFirst (o : CalObs) (s : State) : CalFrame s (commissionFirst o s) := by
  have hdrop (q : Nat × Nat) (u : State) : CalFrame u (modStallCal q.1 (fun c => { c with commissioned := q.2 }) u) :=
    ⟨rfl, rfl, rfl, rfl, rfl, rfl, fun _ => rfl⟩
  unfold commissionFirst
  split
  · exact .refl s
  · exact (calFrame_each hdrop o.drops s).trans (calFrame_putMonRecord _ _)

/-! ### The edition built (R267, R269) -/

/-- In `t` an edition stands that rests on the measurements `base` and `zeroBase`, and is the first to have been built since `s`: it is
current and nothing waits behind it, and the calibration that built it has ended. -/
structure EditionStands (base zeroBase : Nat) (s t : State) : Prop where
  base : t.cal.trims.base = base
  zeroBase : t.cal.trims.zeroBase = zeroBase
  measured : t.cal.measured = s.cal.measured + 1
  marked : t.cal.trimsPending = t.cal.trims
  phase : t.cal.phase = 0
  pending : t.cal.pending = none
  started : t.cal.started = true
  unmarked : t.tdw.trimPending = false
  edition : t.tdw.edition = s.tdw.edition + 1
  done : t.hasBit .cal 0
  stage : t.cal.stage = s.cal.stage
  sysRun : t.cal.sysRun = s.cal.sysRun
  hms : t.hms = s.hms
  regions : s.hif.evRingEn = false → t.regions = s.regions

/-- An edition built after what measuring leaves stands since before it. -/
theorem EditionStands.since {base zeroBase : Nat} (h : EditionStands base zeroBase t u) (k : CalFrame s t) :
    EditionStands base zeroBase s u :=
  { h with
    measured := h.measured.trans (congrArg (· + 1) k.measured)
    edition := h.edition.trans (congrArg (· + 1) k.edition)
    stage := h.stage.trans k.stage
    sysRun := h.sysRun.trans k.sysRun
    hms := h.hms.trans k.hms
    regions := fun hring => (h.regions (k.eventRing.trans hring)).trans (k.regions hring) }

theorem each_setArcPower (read : Nat → Option Nat) (l : List Nat) (s : State) :
    ∃ arcs, each l (setArcPower read) s = { s with cal := { s.cal with arcs := arcs } } := by
  induction l generalizing s with
  | nil => exact ⟨s.cal.arcs, rfl⟩
  | cons a r ih =>
    have hfirst : ∃ arcs, setArcPower read a s = { s with cal := { s.cal with arcs := arcs } } := by
      unfold setArcPower
      split
      · exact ⟨s.cal.arcs, rfl⟩
      · exact ⟨_, rfl⟩
    obtain ⟨arcs, ha⟩ := hfirst
    obtain ⟨more, hr⟩ := ih (setArcPower read a s)
    exact ⟨more, by rw [each, hr, ha]⟩

theorem editionStands_editionBuilt (o : CalObs) (e : Edition) (s : State) : EditionStands e.base e.zeroBase s (editionBuilt o e s) := by
  unfold editionBuilt
  extract_lets u _ _ _ v w
  have hu : CalFrame s u := calFrame_commissionFirst o s
  refine EditionStands.since ?_ hu
  obtain ⟨arcs, hw⟩ : ∃ arcs, w = { v with cal := { v.cal with arcs := arcs } } := each_setArcPower _ _ v
  have hraise := calFrame_raise (i := {}) rfl .cal 0 (latchFigures w)
  rw [hw] at hraise ⊢
  exact {
    base := by rw [raise_cal]; rfl
    zeroBase := by rw [raise_cal]; rfl
    measured := by rw [raise_cal]; rfl
    marked := by rw [raise_cal]; rfl
    phase := by rw [raise_cal]; rfl
    pending := by rw [raise_cal]; rfl
    started := by rw [raise_cal]; rfl
    unmarked := by rw [raise_tdw]; rfl
    edition := by rw [raise_tdw]; rfl
    done := raise_sets (by decide) .cal {} _
    stage := hraise.stage
    sysRun := hraise.sysRun
    hms := hraise.hms
    regions := hraise.regions }

/-- A start-up calibration builds its edition on its own measurement. -/
theorem editionStands_startupCalibration (o : CalObs) (s : State) :
    EditionStands (s.cal.measured + 1) (s.cal.measured + 1) s (startupCalibration o s) := by
  unfold startupCalibration
  extract_lets _ _ u n
  have hfresh : CalFrame s u := ⟨rfl, rfl, rfl, rfl, rfl, rfl, fun _ => rfl⟩
  exact (editionStands_editionBuilt o { base := n, zeroBase := n } _).since ((hfresh.trans (calFrame_failRows o u)).trans (calFrame_zonesSet _))

/-- A reacquisition measures the slicer zeros anew, on the base that stands, unless the full sequence runs in its place. -/
theorem editionStands_reacquire (o : CalObs) (s : State) : ∃ base, EditionStands base (s.cal.measured + 1) s (reacquire o s) := by
  unfold reacquire
  split
  · exact ⟨_, editionStands_startupCalibration o s⟩
  · exact ⟨_, (editionStands_editionBuilt o (reacquired s) _).since (calFrame_failRows o s)⟩

end

end Sys2Proof.Machine
end

section
/-! SUPPORT. The rows of start-up calibration and reacquisition, of monitor inputs, of heater zones and of weak rows. -/

namespace Sys2Proof.Machine

variable {s t : State}

/-! ### Start-up calibration and reacquisition (R267, R269) -/

theorem exec_startupCalibration_of_settled (hsettled : pairsSettled s = true) (hphase : s.cal.phase = 0) (hgraphs : s.seq.graphs = []) :
    exec .startupCalibration s = .next { s with cal := { s.cal with phase := 1, phaseAt := now s } } :=
  if_pos ⟨hsettled, hphase, List.isEmpty_iff.2 hgraphs⟩

theorem exec_reacquisition_of_settled (hsettled : pairsSettled s = true) (hphase : s.cal.phase = 0) (hgraphs : s.seq.graphs = []) :
    exec .reacquisition s = .next { s with cal := { s.cal with phase := 8, phaseAt := now s } } :=
  if_pos ⟨hsettled, hphase, List.isEmpty_iff.2 hgraphs⟩

section
variable {o : CalObs} (hslow : o.slow = false)
include hslow

theorem exec_startupCalibrationDone_in_bounds (hphase : s.cal.phase = 1) :
    exec (.startupCalibrationDone o) s = .next (startupCalibration o s) := by
  show execStartupCalibrationDone o s = _
  simp [execStartupCalibrationDone, hphase, hslow]

theorem exec_reacquisitionDone_in_bounds (hphase : s.cal.phase = 8) : exec (.reacquisitionDone o) s
    = .next (if fullNeeded o then { s with cal := { s.cal with phase := 1, phaseAt := now s } }
        else editionBuilt o (reacquired s) (failRows o s)) := by
  show execReacquisitionDone o s = _
  rw [execReacquisitionDone, if_neg (not_not_intro hphase), hslow]
  exact (apply_ite Host.Outcome.next _ _ _).symm

end

/-! ### Monitor inputs (R281, R282) -/

theorem assoc_insertKey {α : Type} (k : Nat) (a : α) (l : List (Nat × α)) : assoc k (insertKey k a l) = some a := by
  induction l with
  | nil => exact if_pos rfl
  | cons q r ih =>
    obtain ⟨j, b⟩ := q
    unfold insertKey
    split
    · exact if_pos rfl
    · split
      · exact if_pos rfl
      next hne =>
        rw [assoc, if_neg (Ne.symm hne)]
        exact ih

theorem monOf_setMon (n : Nat) (m : Mon) (s : State) : monOf (setMon n m s) n = m := by
  rw [monOf, setMon_cal, assoc_insertKey]
  rfl

theorem monOf_of_mons (h : t.cal.mons = s.cal.mons) (n : Nat) : monOf t n = monOf s n := by rw [monOf, h, monOf]

/-- Input `n` with the sample `raw` taken in its scan. -/
def Mon.sampled (raw : Nat) (m : Mon) : Mon :=
  { m with raw := raw, hist := (raw :: m.hist).take 8
           railed := if decide (raw = 0) || decide (raw = 0xFFFF) then min 8 (m.railed + 1) else 0 }

/-- The sample of input `n` taken at its place in its converter's scan, which goes on to the next. -/
def takeSample (n raw : Nat) (s : State) : State :=
  setMon n ((monOf s n).sampled raw) { s with cal := { s.cal with scan := update s.cal.scan (n % 4) (fun k => (k + 1) % 512) } }

theorem exec_monitorAdcSample_in_scan {n raw : Nat} (hn : n < 2048) (hraw : raw < 65536) (hpower : diesPowered s = true)
    (hplace : s.cal.scan.getD (n % 4) 0 = n / 4) : exec (.monitorAdcSample n raw) s
      = .next (if running (takeSample n raw s) then useSample n (takeSample n raw s) else takeSample n raw s) := by
  have htaken : ¬ (2048 ≤ n ∨ 65536 ≤ raw ∨ (!diesPowered s) = true ∨ s.cal.scan.getD (n % 4) 0 ≠ n / 4) := by
    rw [hpower, hplace]
    simp [hn, hraw]
  exact if_neg htaken

/-- What follows from a drop monitor's sample changes no monitor input. -/
theorem useSample_mons {n : Nat} (hn : n < 816) (s : State) : (useSample n s).cal.mons = s.cal.mons := by
  have hpower (read : Nat → Option Nat) (a : Nat) : (setArcPower read a s).cal.mons = s.cal.mons := by
    unfold setArcPower
    split <;> rfl
  rw [useSample, if_pos hn, dropLoop]
  split
  · exact hpower _ _
  · exact hpower _ _

/-- A drop monitor's history begins with the sample taken. -/
theorem exec_monitorAdcSample_of_drop {n raw : Nat} (hn : n < 816) (hraw : raw < 65536) (hpower : diesPowered s = true)
    (hplace : s.cal.scan.getD (n % 4) 0 = n / 4) :
    ∃ t, exec (.monitorAdcSample n raw) s = .next t ∧ monOf t n = (monOf s n).sampled raw := by
  refine ⟨_, exec_monitorAdcSample_in_scan (by omega) hraw hpower hplace, ?_⟩
  have htaken : monOf (takeSample n raw s) n = (monOf s n).sampled raw := monOf_setMon n _ _
  split
  · exact (monOf_of_mons (useSample_mons hn _) n).trans htaken
  · exact htaken

theorem exec_monitorInputFault_of_drop {n : Nat} (hrailed : (monOf s n).railed = 8) (hfault : (monOf s n).faulted = false) (hn : n < 816) :
    exec (.monitorInputFault n) s = .next (raise .cal 6 { unit := some n } (setMon n { monOf s n with faulted := true } s)) := by
  refine (if_pos ⟨hrailed, hfault⟩).trans (if_neg ?_)
  rintro ⟨hsentinel, -⟩
  omega

/-! ### Heater zones (R271) -/

/-- Zone `x` back in FEED, after its episode in LOOP. -/
def Zone.feeding (x : Zone) : Zone := { x with loop := false, badScans := 0, calm := 0, corr := 0 }

section
variable {z : Nat} (hloop : (zoneAt s z).loop = true) (hcalm : (zoneAt s z).calm = 64)
include hloop hcalm

theorem exec_zoneLoopExit_of_steady (hsteady : ((sensorAt s (zoneSensor z)).temp - (zoneAt s z).entryTemp).natAbs ≤ 48) :
    exec (.zoneLoopExit z) s = .next (modZone z (fun _ => (zoneAt s z).feeding) s) := by
  refine (if_pos ⟨hloop, hcalm⟩).trans ?_
  rw [if_neg (Nat.not_lt.2 hsteady)]
  rfl

theorem exec_zoneLoopExit_of_moved (hmoved : 48 < ((sensorAt s (zoneSensor z)).temp - (zoneAt s z).entryTemp).natAbs) :
    let d := (sensorAt s (zoneSensor z)).temp - (zoneAt s z).entryTemp
    exec (.zoneLoopExit z) s = .next (modZone z (fun _ => { (zoneAt s z).feeding with
      kappaN := if d < 0 then -(zoneAt s z).corr else (zoneAt s z).corr, kappaD := d.natAbs }) s) := by
  refine (if_pos ⟨hloop, hcalm⟩).trans ?_
  rw [if_pos hmoved]
  rfl

end

/-! ### Weak rows (R279) -/

theorem exec_weakRow_of_low {g row : Nat} (hlow : 4 ≤ (assoc (68 * g + row) s.cal.low).getD 0)
    (hweak : (stallAt s g).weak.contains row = false) : exec (.weakRow g row) s = .next (
      let t := modStall g (fun st => { st with weak := st.weak ++ [row] }) s
      probeRequest g (raise .cal 5 { unit := some g, logical := (stallAt t g).logical.getD 0xFFFF } t)) :=
  if_pos ⟨hlow, Bool.eq_false_iff.1 hweak⟩

end Sys2Proof.Machine

namespace Sys2Proof.Proofs

open Sys2Proof.Machine

/-- Settles O50: each row has one outcome under its conditions; what start-up calibration leaves and makes current is that of the edition
it builds. -/
theorem calibration : Obligations.Calibration := by
  unfold Obligations.Calibration
  intro s
  refine ⟨?begins, ?startup, ?reacquired, ?sample, ?drop, ?fault, ?steady, ?moved, ?weak, ?edition⟩
  case begins =>
    intro hsettled hphase hgraphs
    exact ⟨exec_startupCalibration_of_settled hsettled hphase hgraphs, exec_reacquisition_of_settled hsettled hphase hgraphs⟩
  case startup => exact fun o hphase hslow => exec_startupCalibrationDone_in_bounds hslow hphase
  case reacquired => exact fun o hphase hslow => exec_reacquisitionDone_in_bounds hslow hphase
  case sample => exact fun n raw _ hn hraw hpower hplace => exec_monitorAdcSample_in_scan hn hraw hpower hplace
  case drop =>
    intro n raw hn hraw hpower hplace
    obtain ⟨t, ht, hsampled⟩ := exec_monitorAdcSample_of_drop hn hraw hpower hplace
    exact ⟨t, ht, congrArg Mon.raw hsampled, congrArg Mon.hist hsampled⟩
  case fault => exact fun n => exec_monitorInputFault_of_drop
  case steady => exact fun z => exec_zoneLoopExit_of_steady
  case moved => exact fun z => exec_zoneLoopExit_of_moved
  case weak => exact fun g row => exec_weakRow_of_low
  case edition =>
    intro o hphase hslow
    have hstands := editionStands_startupCalibration o s
    exact ⟨_, exec_startupCalibrationDone_in_bounds hslow hphase, hstands.base, hstands.zeroBase, hstands.measured, hstands.marked,
      hstands.phase, hstands.pending, hstands.started, hstands.unmarked, hstands.edition, hstands.done,
      congrArg SeqState.graphs (startupCalibration_seq o s), hstands.hms, hstands.regions⟩

end Sys2Proof.Proofs
end

section
/-! SUPPORT. The steps of system calibration: what each comes to in IDLE with no graph resident, over the control port and by CAL_CTRL, and
what the end of one leaves. -/

namespace Sys2Proof.Machine

variable {s t : State} {who : Option Origin} {o : SysObs}

/-! ### Values of monitor inputs (R281, R282) -/

theorem monReading_of_record (hmons : t.cal.mons = s.cal.mons) (hrecord : t.cal.record = s.cal.record) (n raw : Nat) :
    monReading t n raw = monReading s n raw := by
  simp only [monReading, darkNow, monOf, hmons, hrecord]

/-- The value of an input that is not a sentinel's rests on the inputs' samples and on the record in force. -/
theorem monValue_of_record (hmons : t.cal.mons = s.cal.mons) (hrecord : t.cal.record = s.cal.record) {n : Nat} (hn : n < 816 ∨ 1632 ≤ n) :
    monValue t n = monValue s n := by
  have hplain : ¬ (816 ≤ n ∧ n < 1632) := by omega
  simp only [monValue, calibrated, hmons, if_neg hplain, monReading_of_record hmons hrecord]

/-! ### The reference (R283) -/

theorem referenceBad_of_record (hmons : t.cal.mons = s.cal.mons) (hrecord : t.cal.record = s.cal.record) :
    referenceBad t = referenceBad s := by
  rw [referenceBad, monValue_of_record hmons hrecord (by omega), monValue_of_record hmons hrecord (by omega), referenceBad]

theorem referenceBad_eq_false_iff {q f : Int} (hpower : monValue s 1720 = some q) (hgrid : monValue s 1721 = some f) :
    referenceBad s = false ↔ 5000 ≤ q ∧ q ≤ 20000 ∧ f.natAbs ≤ 250 := by
  rw [referenceBad, hpower, hgrid]
  simp only [Bool.or_eq_false_iff, decide_eq_false_iff_not, not_lt, and_assoc]

/-! ### The steps (R284) -/

/-- System calibration may take a step: the module is in IDLE with no graph resident, and no step is under way. -/
structure State.SyscalOpen (s : State) : Prop where
  idle : s.msc.mode = .idle
  vacant : s.seq.graphs = []
  free : s.cal.sysRun = none

theorem State.SyscalOpen.not_refused (h : s.SyscalOpen) :
    ¬ (s.msc.mode ≠ .idle ∨ ¬ s.seq.graphs.isEmpty = true ∨ s.cal.sysRun.isSome = true) := by
  simp [h.idle, h.vacant, h.free]

theorem sysStep_zero (h : s.SyscalOpen) : sysStep who 1 o s = (none, sysBegin who 1 o s) := if_neg h.not_refused

theorem sysStep_full (h : s.SyscalOpen) (hstage : s.cal.stage ≠ 0) : sysStep who 2 o s
    = if referenceBad s then (some Status.calRefRange, sysRefuse Status.calRefRange s) else (none, sysBegin who 2 o s) :=
  (if_neg h.not_refused).trans (if_neg hstage)

theorem sysStep_commit (h : s.SyscalOpen) (hstage : s.cal.stage = 2) : sysStep who 3 o s = (some Status.ok, sysCommit s) :=
  (if_neg h.not_refused).trans (if_neg (not_not_intro hstage))

theorem sysStep_abandon (h : s.SyscalOpen) : sysStep who 4 o s = (some Status.ok, dropSyscal s) := if_neg h.not_refused

theorem sysStep_of_not_idle (h : s.msc.mode ≠ .idle) (step : Nat) :
    sysStep who step o s = (some Status.notReady, sysRefuse Status.notReady s) := if_pos (Or.inl h)

/-! ### COMMIT (R284, R285) -/

/-- The reading of drop monitor `g`, if it has one, becomes its stall's commissioned reading. -/
def commissionDrop (g : Nat) (s : State) : State :=
  match monValue s g with
  | some v => modStallCal g (fun c => { c with commissioned := v.toNat }) s
  | none => s

/-- The record of what has been measured, with what is commissioned. -/
def committedRecord (s : State) : MonRecord :=
  { s.cal.draft with time := s.msc.calS, power := s.cal.power, ref := s.cal.refId, commissioned := commissionedPowers s }

theorem sysCommit_eq (s : State) : sysCommit s =
    let u := each (List.range 816) commissionDrop s
    raise .cal 7 {} (dropSyscal (putMonRecord (committedRecord u) u)) := by
  unfold sysCommit
  generalize List.range 816 = l
  rfl

theorem length_update {α : Type} (l : List α) (i : Nat) (f : α → α) : (update l i f).length = l.length := by
  induction l generalizing i with
  | nil => rfl
  | cons a r ih =>
    cases i with
    | zero => rfl
    | succ n => exact congrArg (· + 1) (ih n)

theorem commissionDrop_eq (g : Nat) (s : State) :
    ∃ l, commissionDrop g s = { s with cal := { s.cal with stalls := l } } ∧ l.length = s.cal.stalls.length := by
  unfold commissionDrop
  split
  · exact ⟨_, rfl, length_update _ _ _⟩
  · exact ⟨s.cal.stalls, rfl, rfl⟩

theorem each_commissionDrop_eq (l : List Nat) (s : State) : ∃ x, each l commissionDrop s = { s with cal := { s.cal with stalls := x } } := by
  induction l generalizing s with
  | nil => exact ⟨s.cal.stalls, rfl⟩
  | cons g r ih =>
    obtain ⟨x, hx, -⟩ := commissionDrop_eq g s
    obtain ⟨y, hy⟩ := ih (commissionDrop g s)
    exact ⟨y, by rw [each, hy, hx]⟩

theorem monValue_commissionDrop (a : Nat) (s : State) {g : Nat} (hg : g < 816) : monValue (commissionDrop a s) g = monValue s g := by
  obtain ⟨x, hx, -⟩ := commissionDrop_eq a s
  exact monValue_of_record (by rw [hx]) (by rw [hx]) (Or.inl hg)

theorem commissioned_commissionDrop_same {g : Nat} {v : Int} (hlen : g < s.cal.stalls.length) (hv : monValue s g = some v) :
    (stallCal (commissionDrop g s) g).commissioned = v.toNat := by
  rw [commissionDrop, hv]
  exact congrArg StallCal.commissioned (update_getD s.cal.stalls g _ {} (Or.inr hlen))

theorem stallCal_commissionDrop_other {a g : Nat} (h : g ≠ a) (s : State) : stallCal (commissionDrop a s) g = stallCal s g := by
  unfold commissionDrop
  split
  · exact update_getD_other s.cal.stalls _ {} h
  · rfl

/-- Once commissioned at its reading, a stall stays so: the readings of drop monitors do not rest on what is commissioned. -/
theorem commissioned_each_commissionDrop {g : Nat} {v : Int} (hg : g < 816) (l : List Nat) (s : State) (hlen : g < s.cal.stalls.length)
    (hv : monValue s g = some v) (h : g ∈ l ∨ (stallCal s g).commissioned = v.toNat) :
    (stallCal (each l commissionDrop s) g).commissioned = v.toNat := by
  induction l generalizing s with
  | nil => exact h.resolve_left List.not_mem_nil
  | cons a r ih =>
    obtain ⟨x, hx, hxlen⟩ := commissionDrop_eq a s
    have hlen' : g < (commissionDrop a s).cal.stalls.length := by
      rw [hx]
      exact hxlen ▸ hlen
    refine ih (commissionDrop a s) hlen' ((monValue_commissionDrop a s hg).trans hv) ?_
    by_cases hga : g = a
    · subst hga
      exact Or.inr (commissioned_commissionDrop_same hlen hv)
    · rw [stallCal_commissionDrop_other hga]
      exact h.imp_left (fun hmem => (List.mem_cons.1 hmem).resolve_left hga)

/-- In `t` what was measured since the last record is committed: a record of it, made in `s`, is in force, and every drop monitor with a reading
commissions its stall. -/
structure Committed (s t : State) : Prop where
  stage : t.cal.stage = 0
  record : ∃ powers, t.cal.record
    = some { s.cal.draft with time := s.msc.calS, power := s.cal.power, ref := s.cal.refId, commissioned := powers }
  signalled : t.hasBit .cal 7
  commissioned : ∀ g v, g < 816 → g < s.cal.stalls.length → monValue s g = some v → (stallCal t g).commissioned = v.toNat

theorem committed_sysCommit (s : State) : Committed s (sysCommit s) := by
  have hdrops (g : Nat) (v : Int) (hg : g < 816) (hlen : g < s.cal.stalls.length) (hv : monValue s g = some v) :=
    commissioned_each_commissionDrop hg (List.range 816) s hlen hv (Or.inl (List.mem_range.2 hg))
  obtain ⟨x, hx⟩ := each_commissionDrop_eq (List.range 816) s
  rw [sysCommit_eq]
  extract_lets u
  have hu : u = { s with cal := { s.cal with stalls := x } } := hx
  rw [hx] at hdrops
  rw [hu]
  exact {
    stage := by rw [raise_cal]; rfl
    record := ⟨_, by rw [raise_cal]; rfl⟩
    signalled := raise_sets (by decide) .cal {} _
    commissioned := fun g v hg hlen hv => by
      rw [stallCal, raise_cal]
      exact hdrops g v hg hlen hv }

/-! ### SYSCAL over the control port (R284, R323) -/

section
variable {r : Req} {power : Word} {ref : List Word}

/-- An accepted command that begins what is not over with it completes later (R319). -/
theorem command_of_underway {j : Job} (h : s.Accepts r j)
    (hrun : runJob (originOf r j) (withRole s (sessionNo r) j) (taken r j s) = (none, t)) : command r j s = t := by
  rw [accept_executes r j s h, execJob, hrun]

/-- SYSCAL with a step other than FULL is that step. -/
theorem runJob_syscal {code : Byte} (hcode : 1 ≤ code.toNat ∧ code.toNat ≤ 4 ∧ code.toNat ≠ 2) (origin : Origin) (s : State) :
    runJob origin (.syscal code power ref o) s
      = ((sysStep (some origin) code.toNat o s).1.map (fun st => (st, 0, [])), (sysStep (some origin) code.toNat o s).2) := by
  obtain ⟨hmin, hmax, hfull⟩ := hcode
  show syscal origin code.toNat power ref o s = _
  rw [syscal, if_neg (by omega), if_neg hfull]

theorem command_syscal_of_answer {code : Byte} {st : BitVec 16} (h : s.Accepts r (.syscal code power ref o))
    (hcode : 1 ≤ code.toNat ∧ code.toNat ≤ 4 ∧ code.toNat ≠ 2)
    (hstep : sysStep (some (originOf r (.syscal code power ref o))) code.toNat o (taken r (.syscal code power ref o) s) = (some st, t)) :
    command r (.syscal code power ref o) s = complete (originOf r (.syscal code power ref o)) (st, 0, []) t := by
  refine command_of_runJob h ((runJob_syscal hcode _ _).trans ?_)
  rw [hstep]
  rfl

/-- FULL's power and identifier of the reference, as SYSCAL carries them. -/
def withReference (power : Word) (ref : List Word) (s : State) : State :=
  { s with cal := { s.cal with power := power, refId := (ref ++ [0, 0, 0, 0]).take 4 } }

theorem runJob_syscalFull (origin : Origin) (s : State) : runJob origin (.syscal 2 power ref o) s
    = ((sysStep (some origin) 2 o (withReference power ref s)).1.map (fun st => (st, 0, [])),
        (sysStep (some origin) 2 o (withReference power ref s)).2) := rfl

theorem referenceBad_withReference (power : Word) (ref : List Word) (s : State) :
    referenceBad (withReference power ref s) = referenceBad s := referenceBad_of_record rfl rfl

theorem State.SyscalOpen.taken (h : s.SyscalOpen) (r : Req) (j : Job) : (Machine.taken r j s).SyscalOpen :=
  ⟨(taken_mode r j s).trans h.idle, (congrArg SeqState.graphs (taken_seq r j s)).trans h.vacant,
    (congrArg Cal.sysRun (taken_cal r j s)).trans h.free⟩

theorem State.SyscalOpen.withReference (h : s.SyscalOpen) (power : Word) (ref : List Word) : (Machine.withReference power ref s).SyscalOpen :=
  ⟨h.idle, h.vacant, h.free⟩

theorem exec_syscalZero_of_accepts (hopen : s.SyscalOpen) (h : s.Accepts r (.syscal 1 power ref o)) :
    exec (.syscalZero (.cp r power ref) o) s
      = .next (sysBegin (some (originOf r (.syscal 1 power ref o))) 1 o (taken r (.syscal 1 power ref o) s)) := by
  have hrun := runJob_syscal (code := 1) (power := power) (ref := ref) (o := o) (by decide) (originOf r (.syscal 1 power ref o))
    (taken r (.syscal 1 power ref o) s)
  rw [show (1 : Byte).toNat = 1 from rfl, sysStep_zero (hopen.taken r _)] at hrun
  exact congrArg Host.Outcome.next (command_of_underway h hrun)

theorem exec_syscalFull_of_accepts (hopen : s.SyscalOpen) (h : s.Accepts r (.syscal 2 power ref o)) (hstage : s.cal.stage ≠ 0)
    {q f : Int} (hpower : monValue s 1720 = some q) (hgrid : monValue s 1721 = some f) :
    exec (.syscalFull (.cp r power ref) o) s = .next (if 5000 ≤ q ∧ q ≤ 20000 ∧ f.natAbs ≤ 250
      then sysBegin (some (originOf r (.syscal 2 power ref o))) 2 o (withReference power ref (taken r (.syscal 2 power ref o) s))
      else finished r (.syscal 2 power ref o) (Status.calRefRange, 0, [])
        (fun u => sysRefuse Status.calRefRange (withReference power ref u)) s) := by
  have hcal := taken_cal r (.syscal 2 power ref o) s
  have hopen' := (hopen.taken r (.syscal 2 power ref o)).withReference power ref
  have hstage' : (withReference power ref (taken r (.syscal 2 power ref o) s)).cal.stage ≠ 0 :=
    fun hzero => hstage ((congrArg Cal.stage hcal).symm.trans hzero)
  have href : referenceBad (withReference power ref (taken r (.syscal 2 power ref o) s)) = referenceBad s :=
    (referenceBad_withReference power ref _).trans (referenceBad_of_record (congrArg Cal.mons hcal) (congrArg Cal.record hcal))
  have hrun := runJob_syscalFull (power := power) (ref := ref) (o := o) (originOf r (.syscal 2 power ref o)) (taken r (.syscal 2 power ref o) s)
  rw [sysStep_full hopen' hstage', href] at hrun
  refine congrArg Host.Outcome.next ?_
  split
  next hgood =>
    rw [(referenceBad_eq_false_iff hpower hgrid).2 hgood, if_neg Bool.false_ne_true] at hrun
    exact command_of_underway h hrun
  next hrange =>
    rw [← referenceBad_eq_false_iff hpower hgrid, Bool.not_eq_false] at hrange
    rw [hrange, if_pos rfl] at hrun
    dsimp only [Option.map_some] at hrun
    exact command_of_runJob h hrun

theorem exec_syscalAbandon_of_accepts (hopen : s.SyscalOpen) (h : s.Accepts r (.syscal 4 power ref {})) :
    exec (.syscalAbandon (.cp r power ref)) s = .next (finished r (.syscal 4 power ref {}) (Status.ok, 0, []) dropSyscal s) :=
  congrArg Host.Outcome.next (command_syscal_of_answer h (by decide) (sysStep_abandon (hopen.taken r _)))

theorem exec_syscalAbandon_of_not_idle (hmode : s.msc.mode ≠ .idle) (h : s.Accepts r (.syscal 4 power ref {})) :
    exec (.syscalAbandon (.cp r power ref)) s
      = .next (finished r (.syscal 4 power ref {}) (Status.notReady, 0, []) (sysRefuse Status.notReady) s) :=
  congrArg Host.Outcome.next (command_syscal_of_answer h (by decide)
    (sysStep_of_not_idle (fun hidle => hmode ((taken_mode r _ s).symm.trans hidle)) _))

theorem calS_taken (r : Req) (j : Job) (s : State) : (taken r j s).msc.calS = s.msc.calS := by
  obtain ⟨_, hmsc⟩ := taken_msc r j s
  rw [hmsc]

/-- What a commitment takes from the state in which it executes stood there before its acceptance. -/
theorem Committed.before_taken {j : Job} (h : Committed (taken r j s) t) : Committed s t := by
  have hcal := taken_cal r j s
  obtain ⟨hstage, hrecord, hsignalled, hdrops⟩ := h
  rw [hcal, calS_taken] at hrecord
  refine ⟨hstage, hrecord, hsignalled, fun g v hg hlen hv => hdrops g v hg (hcal ▸ hlen) ?_⟩
  exact (monValue_of_record (congrArg Cal.mons hcal) (congrArg Cal.record hcal) (Or.inl hg)).trans hv

theorem exec_syscalCommit_of_accepts (hopen : s.SyscalOpen) (h : s.Accepts r (.syscal 3 power ref {})) (hstage : s.cal.stage = 2) :
    ∃ t, exec (.syscalCommit (.cp r power ref)) s = .next (complete (originOf r (.syscal 3 power ref {})) (Status.ok, 0, []) t)
      ∧ Committed s t :=
  ⟨_, congrArg Host.Outcome.next (command_syscal_of_answer h (by decide)
      (sysStep_commit (hopen.taken r _) ((congrArg Cal.stage (taken_cal r _ s)).trans hstage))),
    (committed_sysCommit _).before_taken⟩

end

/-! ### CAL_CTRL (R284, R288) -/

section
variable {p : Path} {w : Word}

/-- The word of CAL_CTRL that begins step `k`, with the settings of `w` in its bits 27 to 0. -/
def stepWord (k : Nat) (w : Word) : Word := pack [(31, 1), (28, k), (0, bits w 27 0)]

/-- The fields of CAL_CTRL taken, with step `k`. -/
def calAsked (k : Nat) (w : Word) (s : State) : State :=
  { s with cal := { s.cal with step := BitVec.ofNat 3 k, selfTrimNext := bit w 7, urgentEn := bit w 6 } }

theorem stepWord_toNat {k : Nat} (hk : k ≤ 4) (w : Word) : (stepWord k w).toNat = 2 ^ 28 * (8 + k) + w.toNat % 2 ^ 28 := by
  have hsum : (stepWord k w).toNat = (0 + 1 * 2 ^ 31 + k * 2 ^ 28 + w.toNat / 2 ^ 0 % 2 ^ 28 * 2 ^ 0) % 2 ^ 32 := BitVec.toNat_ofNat _ _
  omega

theorem stepWord_step {k : Nat} (hk : k ≤ 4) (w : Word) : bits (stepWord k w) 30 28 = k := by
  rw [bits, stepWord_toNat hk]
  omega

theorem stepWord_go {k : Nat} (hk : k ≤ 4) (w : Word) : bit (stepWord k w) 31 = true := by
  rw [bit, stepWord_toNat hk, Nat.testBit_two_pow_mul_add _ (Nat.mod_lt _ (by decide))]
  interval_cases k <;> rfl

theorem bit_stepWord {k i : Nat} (hk : k ≤ 4) (hi : i < 28) (w : Word) : bit (stepWord k w) i = bit w i := by
  rw [bit, stepWord_toNat hk, Nat.testBit_two_pow_mul_add _ (Nat.mod_lt _ (by decide)), if_pos hi, Nat.testBit_mod_two_pow, bit]
  simp [hi]

theorem writeCalCtrl_stepWord {k : Nat} (hmin : 1 ≤ k) (hmax : k ≤ 4) (hclr : bit w 0 = false) (o : SysObs) (s : State) :
    writeCalCtrl (stepWord k w) o s = (sysStep none k o (calAsked k w s)).2 := by
  have hlisted : ¬ (4 < k ∨ k = 0) := by omega
  have hzero : bit (stepWord k w) 0 = false := (bit_stepWord hmax (by decide) w).trans hclr
  have htrim : bit (stepWord k w) 7 = bit w 7 := bit_stepWord hmax (by decide) w
  have hurgent : bit (stepWord k w) 6 = bit w 6 := bit_stepWord hmax (by decide) w
  simp only [writeCalCtrl, stepWord_step hmax, stepWord_go hmax, hzero, htrim, hurgent, Bool.false_eq_true, and_true, if_neg hlisted, if_true,
    if_false]
  rfl

theorem writeWordObs_calCtrl (w hw : Word) (o : SysObs) (s : State) : writeWordObs 0xD00004 w hw o s = writeCalCtrl w o s := rfl

/-- A step over an open path is the write of its word to CAL_CTRL. -/
theorem sysCommand_of_opens {k : Nat} (hmin : 1 ≤ k) (hmax : k ≤ 4) (h : s.Opens p 0xD00004 true) (hclr : bit w 0 = false) (o : SysObs) :
    sysCommand k (.reg p w) o s = (sysStep none k o (calAsked k w s)).2 := by
  have hgate : gateOf s p 0xD00004 true = .take := h
  rw [← writeCalCtrl_stepWord hmin hmax hclr, sysCommand, hgate]
  exact writeWordObs_calCtrl _ 0 o s

theorem State.SyscalOpen.asked (h : s.SyscalOpen) (k : Nat) (w : Word) : (calAsked k w s).SyscalOpen := ⟨h.idle, h.vacant, h.free⟩

variable (hopen : s.SyscalOpen) (h : s.Opens p 0xD00004 true) (hclr : bit w 0 = false)
include hopen h hclr

theorem exec_syscalZero_of_opens (o : SysObs) : exec (.syscalZero (.reg p w) o) s = .next (sysBegin none 1 o (calAsked 1 w s)) := by
  refine congrArg Host.Outcome.next ((sysCommand_of_opens (by decide) (by decide) h hclr o).trans ?_)
  rw [sysStep_zero (hopen.asked _ w)]

theorem exec_syscalFull_of_opens (hstage : s.cal.stage ≠ 0) (o : SysObs) : exec (.syscalFull (.reg p w) o) s = .next (
    if referenceBad s then sysRefuse Status.calRefRange (calAsked 2 w s) else sysBegin none 2 o (calAsked 2 w s)) := by
  refine congrArg Host.Outcome.next ((sysCommand_of_opens (by decide) (by decide) h hclr o).trans ?_)
  have href : referenceBad (calAsked 2 w s) = referenceBad s := referenceBad_of_record rfl rfl
  rw [sysStep_full (hopen.asked _ w) hstage, href, apply_ite Prod.snd]

theorem exec_syscalCommit_of_opens (hstage : s.cal.stage = 2) : exec (.syscalCommit (.reg p w)) s = .next (sysCommit (calAsked 3 w s)) := by
  refine congrArg Host.Outcome.next ((sysCommand_of_opens (by decide) (by decide) h hclr {}).trans ?_)
  rw [sysStep_commit (hopen.asked _ w) hstage]

theorem exec_syscalAbandon_of_opens : exec (.syscalAbandon (.reg p w)) s = .next (dropSyscal (calAsked 4 w s)) := by
  refine congrArg Host.Outcome.next ((sysCommand_of_opens (by decide) (by decide) h hclr {}).trans ?_)
  rw [sysStep_abandon (hopen.asked _ w)]

end

/-! ### The end of a step (R284, R319) -/

theorem complete_apart (origin : Origin) (a : Answer) (s : State) : (complete origin a s).cal = s.cal ∧ (complete origin a s).tdw = s.tdw := by
  unfold complete
  cases origin with
  | cp n dst seq o quiet =>
    dsimp only
    split
    · exact ⟨rfl, rfl⟩
    · obtain ⟨_, _, _, h⟩ := portOnly_sendFrame _ true s
      rw [h]
      exact ⟨rfl, rfl⟩
  | ring i cookie => exact ⟨ringPushReserved_cal _ _ s, ringPushReserved_tdw _ _ s⟩

/-- What the step measured stands in its stage, and the reacquisition that follows builds an edition. -/
theorem sysEnd_stage (x : SysRun) (s : State) : (sysEnd x s).cal.stage = BitVec.ofNat 2 x.step ∧ (sysEnd x s).cal.sysRun = none
    ∧ (sysEnd x s).tdw.edition = s.tdw.edition + 1 := by
  unfold sysEnd
  extract_lets _ u
  obtain ⟨base, h⟩ := editionStands_reacquire x.cal (dischargeAll (combsResume u))
  exact ⟨h.stage, h.sysRun, h.edition⟩

theorem finishStep_stage {x : SysRun} (h : s.cal.sysRun = some x) : (finishStep s).cal.stage = BitVec.ofNat 2 x.step
    ∧ (finishStep s).cal.sysRun = none ∧ (finishStep s).tdw.edition = s.tdw.edition + 1 := by
  have hend := sysEnd_stage x (advanceTo (x.since + 500000000) s)
  unfold finishStep
  rw [h]
  dsimp only
  split
  next origin _ =>
    obtain ⟨hcal, htdw⟩ := complete_apart origin (Status.ok, 0, []) (sysEnd x (advanceTo (x.since + 500000000) s))
    rw [hcal, htdw]
    exact hend
  next => exact hend

end Sys2Proof.Machine

namespace Sys2Proof.Proofs

open Sys2Proof.Machine

/-- Settles O18: in IDLE with no graph resident each step has one outcome by either way in; a commitment is read off its record, and the end
of a step off the edition that its reacquisition builds. -/
theorem systemCalibration : Obligations.SystemCalibration := by
  unfold Obligations.SystemCalibration
  intro r power ref s ids asked
  refine ⟨fun hidle hvacant hfree => ?steps, ?finish, ?active⟩
  case steps =>
    have hopen : s.SyscalOpen := ⟨hidle, hvacant, hfree⟩
    refine ⟨?zero, ?full, ?commit, ?abandon, ?register⟩
    case zero => exact fun o h => exec_syscalZero_of_accepts hopen h
    case full => exact fun o q f h hstage hpower hgrid => exec_syscalFull_of_accepts hopen h hstage hpower hgrid
    case commit =>
      intro h hstage
      obtain ⟨t, ht, hcommitted⟩ := exec_syscalCommit_of_accepts hopen h hstage
      obtain ⟨powers, hrecord⟩ := hcommitted.record
      exact ⟨t, _, ht, hcommitted.stage, hrecord, rfl, rfl, rfl, rfl, rfl, rfl, hcommitted.signalled, hcommitted.commissioned⟩
    case abandon => exact exec_syscalAbandon_of_accepts hopen
    case register =>
      intro p w o h hclr
      exact ⟨exec_syscalZero_of_opens hopen h hclr o, fun hstage => exec_syscalFull_of_opens hopen h hclr hstage o,
        exec_syscalCommit_of_opens hopen h hclr, exec_syscalAbandon_of_opens hopen h hclr⟩
  case finish => exact fun x => finishStep_stage
  case active =>
    intro hactive h
    exact exec_syscalAbandon_of_not_idle (by rw [hactive]; decide) h

end Sys2Proof.Proofs
end

section
/-! SUPPORT. The rows of comb sources: locking, trips, light holds, dark arcades and link sources. -/

namespace Sys2Proof.Machine

variable {s : State}

/-! ### Sources and what leaves them (R289, R304) -/

@[simp] theorem clsEvent_cls (b i : Nat) (s : State) : (clsEvent b i s).cls = s.cls := raise_cls _ _ _ s

theorem sourceAt_of_cls {t : State} (h : t.cls = s.cls) (i : Nat) : sourceAt t i = sourceAt s i :=
  congrArg (fun c : Cls => c.sources.getD i {}) h

theorem sourceAt_modSource_other {i j : Nat} (f : Source → Source) (h : j ≠ i) : sourceAt (modSource i f s) j = sourceAt s j :=
  update_getD_other s.cls.sources f {} h

/-! ### Lanes of a link source (R258, R301) -/

@[simp] theorem resendOn_cls (p f l : Nat) (s : State) : (resendOn p f l s).cls = s.cls := by
  unfold resendOn
  split <;> rfl

/-- Lanes that leave service leave every source as it is. -/
@[simp] theorem dropLanes_cls (detects : Bool) (ls : List Nat) (s : State) : (dropLanes detects ls s).cls = s.cls := by
  unfold dropLanes
  extract_lets down dropped announced waiting
  have hdropped : dropped.cls = s.cls := each_keeps State.cls _ _ (fun l u => by rw [raise_cls, modLinkLane_cls]) s
  have hannounced : announced.cls = s.cls := by
    unfold announced
    split
    · rw [announce_keeps State.cls emit_cls, hdropped]
    · exact hdropped
  split
  · rfl
  · split
    · exact hannounced
    · refine (each_keeps State.cls _ _ (fun y u => ?_) _).trans hannounced
      split
      · exact resendOn_cls _ _ _ u
      · rfl

/-- The eight lanes of source `i` out of service and DARK. -/
def lanesDark (i : Nat) (s : State) : State :=
  each (engineLanes i) (fun l u => modLinkLane l (fun x => { x with state := .dark, retested := false }) u) (dropLanes true (engineLanes i) s)

@[simp] theorem lanesDark_cls (i : Nat) (s : State) : (lanesDark i s).cls = s.cls :=
  (each_keeps State.cls _ _ (fun _ _ => modLinkLane_cls _ _ _) _).trans (dropLanes_cls true _ s)

/-- Serving link source `i` FAILED, with its event and the takeover shown from its spare. -/
def linkSourceFailed (i : Nat) (s : State) : State :=
  let t := modSource i (fun x => { x with state := .failed, due := none }) s
  clsEvent 2 i { t with cls := { t.cls with last := { kind := 2, src := i, dst := partnerOf i, dark := 0 } } }

theorem sourceAt_linkSourceFailed_other {i j : Nat} (h : j ≠ i) : sourceAt (linkSourceFailed i s) j = sourceAt s j :=
  (sourceAt_of_cls (clsEvent_cls 2 i _) j).trans (sourceAt_modSource_other _ h)

/-- The spare of a link source that fails is read after the eight lanes have gone dark, and is still in WARM: it begins to lock (R301). -/
theorem exec_linkSourceFail_of_warm {i : Nat} (hlink : 48 ≤ i) (hserving : (sourceAt s i).state = .serving)
    (hwarm : (sourceAt s (partnerOf i)).state = .warm) (hpartner : partnerOf i ≠ i) : exec (.linkSourceFail i) s
      = .next (modSource (partnerOf i) (fun x => { x with state := .locking }) (lanesDark i (linkSourceFailed i s))) := by
  have hspare : (sourceAt (lanesDark i (linkSourceFailed i s)) (partnerOf i)).state = .warm := by
    rw [sourceAt_of_cls (lanesDark_cls i _), sourceAt_linkSourceFailed_other hpartner, hwarm]
  unfold linkSourceFailed lanesDark at hspare ⊢
  show execLinkSourceFail i s = _
  rw [execLinkSourceFail, if_neg (by simp [hlink, hserving])]
  dsimp only at hspare ⊢
  rw [hspare]

/-! ### Locking (R293, R297) -/

theorem exec_spareLocked_of_arcade {i : Nat} (harcade : i < 48) (hlocking : (sourceAt s i).state = .locking) :
    exec (.spareLocked i) s = .next (modSource i (fun x => { x with state := .locked }) s) := by
  show execSpareLocked i s = _
  rw [execSpareLocked, if_neg (not_not.2 hlocking)]
  exact if_neg fun ⟨hlink, _⟩ => Nat.not_le.2 harcade hlink

theorem exec_sourceLockTimeout_of_locked {i : Nat} (hlocking : (sourceAt s i).state = .locking) (huntripped : s.cls.tripped = [])
    (hpartner : partnerOf i ≠ i) (hlocked : (sourceAt s (partnerOf i)).state = .locked) : exec (.sourceLockTimeout i) s
      = .next (modSource (partnerOf i) (fun x => { x with state := .serving }) (modSource i (fun x => { x with state := .failed }) s)) := by
  show execSourceLockTimeout i s = _
  rw [execSourceLockTimeout, if_neg (by simp [hlocking, huntripped])]
  exact if_pos (by rw [sourceAt_modSource_other _ hpartner, hlocked])

/-! ### Trips, light holds and dark arcades (R299, R300) -/

theorem exec_lightTrip_of_warm {a i : Nat} (hrunning : running s = true) (harcade : a < 24) (hlit : s.cls.dark = [])
    (huntripped : s.cls.tripped = []) (hserving : servingOf s a = some i) (hwarm : (sourceAt s (partnerOf i)).state = .warm) :
    exec (.lightTrip a) s = .next (
      let t := modSource i (fun x => { x with state := .failed, due := none }) s
      modSource (partnerOf i) (fun x => { x with state := .locking }) (clsEvent 2 i { t with
        seq := { t.seq with lightHold := some (t.seq.lightHold.getD (now t)) }
        cls := { t.cls with tripped := [(a, now t)], waits := t.cls.waits.filter (fun j => j ≠ i), requests := t.cls.requests.filter (fun j => j ≠ i)
                            last := { kind := 2, src := i, dst := partnerOf i, dark := 0 } } })) := by
  have hnone : (modSource i (fun x => { x with state := .failed, due := none }) s).cls.tripped = [] := huntripped
  show execLightTrip a s = _
  rw [execLightTrip, if_neg (by simp [hrunning, harcade, hlit, huntripped]), hserving]
  dsimp only
  rw [hwarm, hnone]
  rfl

section
variable {a t i : Nat} (htripped : s.cls.tripped.find? (fun q => q.1 = a) = some (a, t))
include htripped

/-- The light hold of an arcade ends with its spare serving, and the time without light shown (R299). -/
theorem exec_lightHoldEnd_of_locked (hlocked : [2 * a, 2 * a + 1].find? (fun i => (sourceAt s i).state = .locked) = some i) :
    exec (.lightHoldEnd a) s = .next (
      let u := modSource i (fun x => { x with state := .serving, due := none }) s
      lightHoldMayEnd { u with cls := { u.cls with
        tripped := u.cls.tripped.filter (fun q => q.1 ≠ a)
        last := { kind := 2, src := partnerOf i, dst := i, dark := sat 0xFFFF ((now u - t) / 100) } } }) := by
  show execLightHoldEnd a s = _
  rw [execLightHoldEnd, htripped]
  dsimp only
  rw [hlocked]

theorem exec_spareLockFail_of_locking (hlocking : [2 * a, 2 * a + 1].find? (fun i => (sourceAt s i).state = .locking) = some i) :
    exec (.spareLockFail a) s = .next (darkArcade a (clsEvent 3 i
      (modSource i (fun x => { x with state := .failed }) (advanceTo (t + 250000) s)))) := by
  show execSpareLockFail a s = _
  rw [execSpareLockFail, htripped]
  dsimp only
  rw [hlocking]

end

/-! ### Worn sources and spares that fail (R298, R300) -/

theorem exec_sourceWorn_of_replaced {i : Nat} (hdue : (sourceAt s i).due.isSome = true) (hlocked : (sourceAt s i).state = .locked)
    (hserving : (sourceAt s (partnerOf i)).state = .serving) :
    exec (.sourceWorn i) s = .next (clsEvent 1 i (modSource i (fun x => { x with state := .worn, due := none }) s)) :=
  if_pos ⟨hdue, hlocked, hserving⟩

theorem exec_spareSourceFail_of_warm {i : Nat} (hwarm : (sourceAt s i).state = .warm) (huntripped : s.cls.tripped = []) :
    exec (.spareSourceFail i) s = .next (clsEvent 4 i
      (modSource (partnerOf i) (fun y => { y with due := none }) (modSource i (fun y => { y with state := .failed, due := none }) s))) := by
  show execSpareSourceFail i s = _
  rw [execSpareSourceFail, if_pos (.inl hwarm)]
  exact if_neg (by simp [huntripped])

end Sys2Proof.Machine

namespace Sys2Proof.Proofs

open Sys2Proof.Machine

/-- Settles O49: in the states named each row of the sources takes one branch, and nothing that a link source's failure does to its lanes
reaches the spare whose state it then reads. -/
theorem sources : Obligations.Sources := by
  unfold Obligations.Sources
  intro s
  exact ⟨fun _ => exec_spareLocked_of_arcade, fun _ => exec_sourceLockTimeout_of_locked, fun _ _ => exec_lightTrip_of_warm,
    fun _ _ _ => exec_lightHoldEnd_of_locked, fun _ _ _ => exec_spareLockFail_of_locking, fun _ => exec_sourceWorn_of_replaced,
    fun _ => exec_spareSourceFail_of_warm, fun _ => exec_linkSourceFail_of_warm⟩

end Sys2Proof.Proofs
end

section
/-! SUPPORT. Every command goes on: no branch of any row ends in a fault or a refusal. -/

namespace Sys2Proof.Machine

/-- The outcome is a next state. -/
def GoesOn (o : Out) : Prop := ∃ t, o = .next t

theorem GoesOn.next (t : State) : GoesOn (.next t) := ⟨t, rfl⟩

theorem GoesOn.ite {c : Prop} {_ : Decidable c} {a b : Out} (ha : GoesOn a) (hb : GoesOn b) : GoesOn (if c then a else b) := by
  split
  · exact ha
  · exact hb

/-- Every command gives a next state. The rows are taken by the shape of their meaning: no condition, one to three conditions, and rows that
look something up, each branch of which is followed to its end. -/
theorem goesOn_exec (i : Instr) (s : State) : GoesOn (exec i s) := by
  cases i
  case status | time | temperature | stopBoundary | stopNow | result | sessionOpen | sessionConfirm | sessionClose | attest | eventSubscribe |
      graphSubmit | graphRun | graphRelease | graphReadmit | graphResume | unitTable | regRead | regWrite | memRead | memWrite | laneUnit |
      syscalZero | syscalFull | syscalCommit | syscalAbandon | linkGroup | linkTrain | frostEnter | thaw | resetPowerOn | resetCold |
      resetWarm | resetFunction | resetSubsystem | powerOff | calendarSet | updateBegin | updateData | updateFinish | updateAbort |
      recoveryEnter | ledgerBatch | ledgerClose | journalRead | pageDump | pmaMapReqProbe | pmaMapReqMapOut | tdwClrStats | squClrStats |
      lgeClrStats | xlClrStats | seqClrStats | hmsClrStats | lmsClrStats | oleClrStats | calClrStats | clsClrStats | hifCpClrStats |
      hifClrStats | tpsClrStats | tpsPwrClrStats | tslEpochLenWrite | tslLaneWrite | oleRestWrite | clsTakeoverGo | hifRingEnable |
      hifRingDisable | hifWindowWrite | hifQbvWrite | tpsFloorWrite | mscDormantRequest | scaleDataRead | latchedLowRead | plainRegisterWrite
      | bulkCopy | bulkFill | bulkLaneUnit | bulkWeightLoad | hbmRefresh | lpddrRefresh | stackCaParityLoss | lpddrPackageFail | pwrEnAssert |
      pwrEnDeassert | inputOvervoltage | breakerTrip | reverseCurrent | resetNRelease | perstAssert | pcieFlr | pcieHotReset | pcieLinkDown =>
    exact .next _
  case sessionConfirmTimeout | sessionIdleTimeout | pdelayRequestTimer | grandmasterLoss | controlLinkDown | controlLinkUp | qbvCycleStart |
      msixUnmask | msixModerationTimeout | rampFill | refreshLate | epochBoundary | fallowSlotBegin | epochOverrun | shortFallowSlot |
      lateBoundary | ledgerBatchTimeout | parityReread | stackFail | laneLockLoss | laneDiscardLimit | portLightArrival | lossOfSignal |
      aprProbe | portPowerMonitorTrip | sourceWorn | startupCalibration | startupCalibrationDone | reacquisition | monitorAdcSample |
      zoneLoopExit | weakRow | throttleStepDown | fastSamplingEnd | sensorInvalid | hardwareTrip | inputQualified | inputUndervoltage |
      railFault | railDroop | excursionStep | energyLimitShutdown | telemetryLoss | telemetryReturn | backupDomainPowerOn | supercapLow |
      unitWatchdogExpiry | updateArbitrationEnd | recoveryReset | pcieLinkUp | mscCoreRestartDone | resetEnd | inputQualificationLost =>
    exact .ite (.next _) (.next _)
  case submissionEntry | frameIdle | spareLocked | reacquisitionDone | sensorSample | telemetrySample | standbyExit | mscWatchdogExpiry =>
    exact .ite (.next _) (.ite (.next _) (.next _))
  case frameService | sourceLockTimeout =>
    exact .ite (.next _) (.ite (.next _) (.ite (.next _) (.next _)))
  case spareSourceFail | monitorInputFault =>
    exact .ite (.ite (.next _) (.next _)) (.next _)
  case lightTrip =>
    dsimp only [exec, execLightTrip]
    repeat' first | with_reducible exact .next _ | split
  case messageFragment | fragmentTimeout | ptpMessage | eventCopyDrop | hifDoorbell | hifIrqWrite | w1cClear | apertureRead | apertureWrite |
      bulkHostTimeout | ringRoomReturn | shadowLoad | shadowLoadComplete | swap | pass | chunkReconstruction | opticalReplay |
      electronicReplay | replayDeadline | replayHoldEnd | lgeEntry | substitutionHoldEnd | xlEntry | squEntry | transferEntry | linkEntry |
      laneEntry | holdRefresh | laneUnitPresent | tagRecordWrite | signatureRecord | persistentError | frameData | frameResendReq |
      lanePauseEnd | portTrainingDone | reconfigurationDeadline | phaseWindowEnd | linkHoldEnd | linkHoldTimeout | lightHoldEnd |
      spareLockFail | linkSourceFail | thermalLevelLeave | mscActionStart | p1sUpdate | resetNPulse | frontEndFallback | updateLockTimeout |
      trialEnd | recoveryInstall | journalGapRecord | registerAccessTimeout | unrecognisedControlFrame =>
    dsimp -zeta only [exec, execMessageFragment, execFragmentTimeout, execPtpMessage, execEventCopyDrop, execHifDoorbell, execHifIrqWrite,
      execW1cClear, execApertureRead, execApertureWrite, execBulkHostTimeout, execRingRoomReturn, execShadowLoad, execShadowLoadComplete,
      execSwap, execPass, execChunkReconstruction, execOpticalReplay, execElectronicReplay, execReplayDeadline, execReplayHoldEnd, execLgeEntry,
      execSubstitutionHoldEnd, execXlEntry, execSquEntry, execTransferEntry, execLinkEntry, execLaneEntry, execHoldRefresh, execLaneUnitPresent,
      execTagRecordWrite, execSignatureRecord, execPersistentError, execFrameData, execFrameResendReq, execLanePauseEnd, execPortTrainingDone,
      execReconfigurationDeadline, execPhaseWindowEnd, execLinkHoldEnd, execLinkHoldTimeout, execLightHoldEnd, execSpareLockFail,
      execLinkSourceFail, execThermalLevelLeave, execMscActionStart, execP1sUpdate, execResetNPulse, execFrontEndFallback,
      execUpdateLockTimeout, execTrialEnd, execRecoveryInstall, execJournalGapRecord, execRegisterAccessTimeout, execUnrecognisedControlFrame]
    repeat' first | with_reducible exact .next _ | split | extract_lets

theorem goesOn_step (s : State) : GoesOn (step s) := by
  unfold step
  split
  · exact .next _
  · exact goesOn_exec _ _

end Sys2Proof.Machine

namespace Sys2Proof.Proofs

open Sys2Proof.Machine

/-- Settles O6: a step is a nanosecond on an empty queue, or a command, and every command goes on. -/
theorem stepAlwaysGoesOn : Obligations.StepAlwaysGoesOn := by
  unfold Obligations.StepAlwaysGoesOn
  exact goesOn_step

/-- Settles O1: the queue's front decides which branch of the step is taken. -/
theorem stepRunsFront : Obligations.StepRunsFront := by
  unfold Obligations.StepRunsFront
  intro c rest s
  rfl

/-- Settles O3: each field of the reset state is at the value its declaration gives it. -/
theorem resetState : Obligations.ResetState := by
  unfold Obligations.ResetState
  have hstalls : State.reset.stalls = List.replicate 816 {} := rfl
  exact ⟨rfl, rfl, rfl, rfl, rfl, rfl, rfl, List.length_replicate, by rw [hstalls, List.all_replicate]; rfl, rfl, rfl⟩

end Sys2Proof.Proofs
end

section
/-! SUPPORT. Requests of the control port: the checks of R311 one by one, what a completion sends, and the immediate commands. -/

namespace Sys2Proof.Machine

variable {r : Req} {j : Job} {s : State}

/-! ### Rows that carry a command (R319, R323) -/

/-- A row that carries a command which is not immediate hands it to the control port. -/
theorem exec_of_jobOfInstr {i : Instr} (h : jobOfInstr i = some (r, j)) (s : State) : exec i s = .next (command r j s) := by
  unfold jobOfInstr at h
  split at h
  case h_41 => cases h
  all_goals
    cases h
    rfl

/-! ### What leaves with a frame (R307 to R310, R313 to R315, R319) -/

theorem fragments_of_short {f : Frame} (h : f.params.length ≤ 512) : fragments f = [f] := if_pos h

/-- A frame as it is sent: with the hall time that its gate allows. -/
def timed (s : State) (f : Frame) : Frame := { f with htLow := BitVec.ofNat 32 (sendTime s (immFrame f) (wireNs s f)) }

theorem sendFrame_out (f : Frame) (keep : Bool) (s : State) :
    (sendFrame f keep s).out = ((fragments (timed s f)).map (fun q => Output.frame (dressed s q))).reverse ++ s.out := by
  unfold sendFrame
  dsimp only
  split <;> rfl

/-- The frame of a request's completion, before its time is set. -/
def completionFrame (r : Req) (j : Job) (a : Answer) : Frame :=
  { dst := r.src, session := sessionNo r, seq := r.seq, opcode := jobOpcode j, tagged := decide (sessionNo r ≠ 0), completion := true
    event := false, htLow := 0, params := replyHead a.1 a.2.1 ++ a.2.2 }

theorem complete_originOf {a : Answer} (hnumber : sessionNo r ≤ 8) (hloud : ¬ (r.quiet = true ∧ a.1 = Status.ok)) (s : State) :
    complete (originOf r j) a s = sendFrame (completionFrame r j a) true s :=
  if_neg (not_or.2 ⟨Nat.not_lt.2 hnumber, hloud⟩)

theorem le_length (n v : Nat) : (le n v).length = n := by
  induction n generalizing v with
  | zero => rfl
  | succ n ih => rw [le, List.length_cons, ih]

theorem completionFrame_params_length (r : Req) (j : Job) (a : Answer) : (completionFrame r j a).params.length = 8 + a.2.2.length := by
  show (replyHead a.1 a.2.1 ++ a.2.2).length = _
  rw [List.length_append]
  rfl

/-- A completion's time on the wire: its headers take 24 bytes, and a session's tag 32. -/
theorem wireNs_completionFrame (r : Req) (j : Job) (a : Answer) (s : State) : wireNs s (completionFrame r j a)
    = 8 * (38 + (if s.cp.tagTx then 4 else 0) + max 46 (24 + a.2.2.length + (if sessionNo r = 0 then 0 else 32))) := by
  have htag : (if (completionFrame r j a).tagged = true then 32 else 0) = (if sessionNo r = 0 then 0 else 32) := by
    show (if decide (sessionNo r ≠ 0) = true then 32 else 0) = _
    split <;> simp_all
  rw [wireNs, htag, completionFrame_params_length, ← Nat.add_assoc]

/-- A completion short enough for one frame is the newest that has left, with its 802.1Q tag and its tag. -/
theorem complete_out_of_short {a : Answer} (hnumber : sessionNo r ≤ 8) (hloud : ¬ (r.quiet = true ∧ a.1 = Status.ok))
    (hshort : a.2.2.length ≤ 504) : (complete (originOf r j) a s).out
      = .frame (dressed s (timed s (completionFrame r j a))) :: s.out := by
  have hone : fragments (timed s (completionFrame r j a)) = [timed s (completionFrame r j a)] :=
    fragments_of_short (by
      show (completionFrame r j a).params.length ≤ 512
      rw [completionFrame_params_length]
      omega)
  rw [complete_originOf hnumber hloud, sendFrame_out, hone]
  rfl

theorem PortOnly.offPort {s t : State} (h : PortOnly s t) : t.offPort = s.offPort := by
  obtain ⟨_, _, _, rfl⟩ := h
  rfl

/-! ### The checks of a request up to its sequence (R311, R312, R316, R318, R320) -/

section
variable {o need : Nat} {lenOk stateOk room : Bool} {go : State → State}

/-- A request that is not discarded as it arrives comes to check 3. -/
theorem arrive_of_direct (hserves : portServes s = true) (hdirect : r.bcast = false) (hshape : r.behind < 3) :
    arrive r o need lenOk stateOk room go s = request r o need lenOk stateOk room go s := by
  have hkept : ¬ ((r.bcast = true ∧ o ≠ 1) ∨ 3 ≤ r.behind) := by simp [hdirect, hshape]
  rw [arrive, hserves, if_neg hkept]
  rfl

/-- Check 3 of R311 passes: the length of a message that may not be fragmented, and QUIET. -/
def headerSound (r : Req) (o : Nat) : Prop := ((!fragmented o && decide (1408 < r.plen)) || (r.quiet && o != 0x0310)) = false

variable (hheader : headerSound r o)
include hheader

theorem request_of_unknown (h : 8 < sessionNo r) :
    request r o need lenOk stateOk room go s = reply r o false false Status.sessionUnknown 0 [] s := by
  rw [request, hheader, if_neg Bool.false_ne_true]
  exact if_pos h

theorem request_of_free (hmin : 1 ≤ sessionNo r) (hmax : sessionNo r ≤ 8) (hfree : (sessionAt s (sessionNo r)).state = .free) :
    request r o need lenOk stateOk room go s = reply r o false false
      (if (sessionAt s (sessionNo r)).lastSeq = 0xFFFFFFFF then Status.seqExhausted else Status.sessionUnknown) 0 [] s := by
  have hused : (exhausted s (sessionNo r) = true) = ((sessionAt s (sessionNo r)).lastSeq = 0xFFFFFFFF) := by simp [exhausted, hfree]
  rw [request, hheader, if_neg Bool.false_ne_true]
  change (if 8 < sessionNo r then _ else if sessionNo r ≠ 0 ∧ (sessionAt s (sessionNo r)).state = .free then
    reply r o false false (if exhausted s (sessionNo r) = true then _ else _) 0 [] s else _) = _
  rw [if_neg (Nat.not_lt.2 hmax), if_pos ⟨by omega, hfree⟩]
  simp only [hused]

theorem request_of_sessionless (hzero : sessionNo r = 0) (hneeds : sessionless o = false) : request r o need lenOk stateOk room go s
    = reply r o false false Status.authRequired 0 [] (authFailed Status.authRequired s) := by
  have hraw : r.session.toNat = 0 := hzero
  rw [request, hheader, if_neg Bool.false_ne_true, hraw]
  simp [hneeds]

variable (hmin : 1 ≤ sessionNo r) (hmax : sessionNo r ≤ 8) (hused : (sessionAt s (sessionNo r)).state ≠ .free)
include hmin hmax hused

theorem request_of_badTag (htag : (r.tagged && r.tagOk) = false) : request r o need lenOk stateOk room go s
    = reply r o false false Status.tagInvalid 0 [] (authFailed Status.tagInvalid s) := by
  have hnonzero : sessionNo r ≠ 0 := by omega
  rw [request, hheader, if_neg Bool.false_ne_true]
  refine (if_neg (Nat.not_lt.2 hmax)).trans ?_
  refine (if_neg (fun h => hused h.2)).trans ?_
  refine (if_neg (fun h => hnonzero h.1)).trans ?_
  exact if_pos ⟨hnonzero, by rw [htag]; rfl⟩

theorem request_of_oldSequence (htagged : r.tagged = true) (htagOk : r.tagOk = true)
    (hold : r.seq.toNat ≤ (sessionAt s (sessionNo r)).lastSeq) (hseq : r.seq ≠ 0) : request r o need lenOk stateOk room go s
      = if cachedFrames s (sessionNo r) r.seq = [] then reply r o true false Status.seqStale 0 [] s
        else resend (cachedFrames s (sessionNo r) r.seq) s := by
  have hnonzero : sessionNo r ≠ 0 := by omega
  rw [request, hheader, if_neg Bool.false_ne_true]
  refine (if_neg (Nat.not_lt.2 hmax)).trans ?_
  refine (if_neg (fun h => hused h.2)).trans ?_
  refine (if_neg (fun h => hnonzero h.1)).trans ?_
  refine (if_neg (by simp [htagged, htagOk])).trans ?_
  refine (if_pos ⟨hnonzero, hold⟩).trans ?_
  change (if (cachedFrames s (sessionNo r) r.seq).isEmpty = true ∨ r.seq = 0 then _ else _) = _
  simp only [List.isEmpty_iff, hseq, or_false]
  rfl

end

/-! ### The checks behind the sequence (R311) -/

theorem rolePermits_takeSeq (r : Req) (s : State) (need : Nat) : rolePermits (takeSeq r s) (sessionNo r) need = rolePermits s (sessionNo r) need := by
  unfold rolePermits
  dsimp only
  rw [takeSeq_role, takeSeq_state]

/-- Checks 9 to 12 of R311: the role, the length, the state and the room, in the state with the sequence taken. -/
def judged (r : Req) (o need : Nat) (lenOk stateOk room : Bool) (go : State → State) (s : State) : State :=
  let refusal (st : BitVec 16) (s : State) : State := reply r o (sessionNo r != 0) true st 0 [] s
  if !rolePermits s (sessionNo r) need then refusal Status.roleDenied s
  else if !lenOk then refusal Status.paramLength s
  else if !stateOk then refusal Status.notReady (stateRefused o s)
  else if !room then refusal Status.queueFull s
  else go s

/-- An admitted request comes to the checks behind its sequence. -/
theorem arrive_of_admits {o need₀ need : Nat} {lenOk stateOk room : Bool} {go : State → State} (h : s.Admits r o need₀) :
    arrive r o need lenOk stateOk room go s = judged r o need lenOk stateOk room go (takeSeq r s) := by
  obtain ⟨hserves, hdirect, hshape, hsize, hquiet, hnumber, houtside, hinside, -⟩ := h
  have hkept : ¬ ((r.bcast = true ∧ o ≠ 1) ∨ 3 ≤ r.behind) := by
    rintro (⟨hbcast, hone⟩ | hbehind)
    · exact hone (hdirect hbcast)
    · omega
  have hheader : headerSound r o := by
    unfold headerSound
    rw [Bool.or_eq_false_iff]
    constructor
    · rcases hsize with hfragmented | hlength
      · simp [hfragmented]
      · simp [Nat.not_lt.2 hlength]
    · cases hq : r.quiet with
      | false => rfl
      | true => simp [hquiet hq]
  rw [arrive, hserves, if_neg hkept]
  refine (if_neg (by decide)).trans ?_
  rw [request, hheader, if_neg Bool.false_ne_true]
  refine (if_neg (Nat.not_lt.2 hnumber)).trans ?_
  refine (if_neg (fun c => (hinside c.1).1 c.2)).trans ?_
  refine (if_neg (fun c => by simp [houtside c.1] at c)).trans ?_
  refine (if_neg (fun c => by obtain ⟨-, ht, hok, -⟩ := hinside c.1; simp [ht, hok] at c)).trans ?_
  refine (if_neg (fun c => by obtain ⟨-, -, -, hseq, -⟩ := hinside c.1; exact absurd c.2 (Nat.not_le.2 hseq))).trans ?_
  exact if_neg (fun c => (hinside c.1).2.2.2.2 c.2.1)

theorem judged_of_role {o need : Nat} {lenOk stateOk room : Bool} {go : State → State} (h : rolePermits s (sessionNo r) need = false) :
    judged r o need lenOk stateOk room go s = reply r o (sessionNo r != 0) true Status.roleDenied 0 [] s := by
  rw [judged, h]
  rfl

section
variable {o need : Nat} {go : State → State} (hrole : rolePermits s (sessionNo r) need = true)
include hrole

theorem judged_of_length {stateOk room : Bool} :
    judged r o need false stateOk room go s = reply r o (sessionNo r != 0) true Status.paramLength 0 [] s := by
  rw [judged, hrole]
  rfl

theorem judged_of_state {room : Bool} :
    judged r o need true false room go s = reply r o (sessionNo r != 0) true Status.notReady 0 [] (stateRefused o s) := by
  rw [judged, hrole]
  rfl

theorem judged_of_room :
    judged r o need true true false go s = reply r o (sessionNo r != 0) true Status.queueFull 0 [] s := by
  rw [judged, hrole]
  rfl

end

/-! ### GRAPH_RUN as it meets the checks (R162, R311, R323) -/

theorem headerSound_graphRun (hsize : r.plen ≤ 1408) (hloud : r.quiet = false) : headerSound r 0x0202 := by
  simp [headerSound, hloud, Nat.not_lt.2 hsize]

theorem exec_graphRun (r : Req) (id : Word) (s : State) : exec (.graphRun r id) s
    = .next (arrive r 0x0202 2 (lengthFits s r.plen (.graphRun id)) (stateAllows s.msc.mode 0x0202) (queueRoom s r)
        (acceptRequest r (.graphRun id)) s) := by
  have hopcode : (jobOpcode (.graphRun id)).toNat = 0x0202 := rfl
  have hrole : jobRole (.graphRun id) = 2 := by rw [jobRole, hopcode]; rfl
  show Host.Outcome.next (command r (.graphRun id) s) = _
  rw [command, hopcode, hrole, jobAllowed, hopcode]
  rintro ⟨⟩

theorem lengthFits_graphRun (s : State) (n : Nat) (id : Word) : lengthFits s n (.graphRun id) = (n == 4) := Bool.and_true _

/-- A request for GRAPH_RUN that is admitted is of a session. -/
theorem sessionNo_bne_of_admits_graphRun {need : Nat} (h : s.Admits r 0x0202 need) : (sessionNo r != 0) = true := by
  rw [bne_iff_ne]
  intro hzero
  exact absurd (h.outside hzero) (by decide)

/-! ### The immediate class (R311, R322, R323) -/

/-- In every state but OFF the front end serves STATUS, TIME and TEMPERATURE. -/
theorem stateAllows_front {m : Mode} {o : Nat} (hm : m ≠ .off) (ho : o = 1 ∨ o = 2 ∨ o = 3) : stateAllows m o = true := by
  rcases ho with rfl | rfl | rfl <;> cases m <;> simp_all [stateAllows]

theorem mode_of_portServes (h : portServes s = true) : s.msc.mode ≠ .off := by
  intro hoff
  simp [portServes, hoff] at h

/-- An immediate command that passes the checks is answered by the front end, with the sequence taken. -/
theorem immediate_of_admits {o plen : Nat} {f : State → Answer × State} (h : s.Admits r o (roleNeeded o)) (hlength : r.plen = plen)
    (hstate : stateAllows s.msc.mode o = true) : immediate r o plen f s
      = reply r o (r.session != 0) true (f (takeSeq r s)).1.1 (f (takeSeq r s)).1.2.1 (f (takeSeq r s)).1.2.2 (f (takeSeq r s)).2 := by
  have hfits : (r.plen == plen) = true := by rw [hlength, beq_self_eq_true]
  rw [immediate, hfits, hstate, arrive_admits r o _ _ s h]

/-- The completion of a sequence that the cache holds is what RESULT sends again. -/
theorem resultAnswer_of_cached {n : Nat} {seq : Word} {f : Frame} (h : (cachedFrames s n seq).find? (fun f => f.completion) = some f) :
    resultAnswer n seq s = ((Status.ok, 0, []), sendMessage f s) := by
  rw [resultAnswer, h]

end Sys2Proof.Machine

namespace Sys2Proof.Proofs

open Sys2Proof.Machine

/-- Settles O7: the row hands its command to the control port, and an accepted command executes. -/
theorem acceptedCommandExecutes : Obligations.AcceptedCommandExecutes := by
  unfold Obligations.AcceptedCommandExecutes
  intro i r j s hrow haccepts
  rw [exec_of_jobOfInstr hrow, accept_executes r j s haccepts]

/-- Settles O8: acceptance and completion touch the port alone, and what leaves with a completion is its frame at the time its gate allows. -/
theorem requestFrame : Obligations.RequestFrame := by
  unfold Obligations.RequestFrame
  intro r j a s
  refine ⟨(portOnly_taken r j s).offPort, (portOnly_complete r j a s).offPort, fun hnumber hloud => ?_⟩
  have htimed : timed s (completionFrame r j a) = { completionFrame r j a with
      htLow := BitVec.ofNat 32 (sendTime s false (8 * (38 + (if s.cp.tagTx then 4 else 0)
        + max 46 (24 + a.2.2.length + (if sessionNo r = 0 then 0 else 32))))) } := by
    rw [timed, wireNs_completionFrame]
    rfl
  intro f
  have hf : timed s (completionFrame r j a) = f := htimed
  refine ⟨fun hshort => ?_, fun _ => ?_⟩
  · have htag : (dressed s f).tag = if sessionNo r = 0 then [] else
        le 32 (Config.kmacCommand ((sessionAt s (sessionNo r)).keys.drop 32) (frameBytes f)).toNat := by
      show (if decide (sessionNo r ≠ 0) = true then _ else _) = _
      simp only [decide_eq_true_eq, ite_not]
      rfl
    rw [complete_out_of_short hnumber hloud hshort, hf, ← htag]
    rfl
  · rw [complete_originOf hnumber hloud, sendFrame_out, hf]

/-- Settles O9: each of the first checks stops the request where those before it pass. -/
theorem unauthenticatedRequests : Obligations.UnauthenticatedRequests := by
  unfold Obligations.UnauthenticatedRequests
  intro r id s hserves hdirect hshape hsize hloud bare
  have hheader := headerSound_graphRun hsize hloud
  rw [exec_graphRun, arrive_of_direct hserves hdirect hshape]
  refine ⟨?unknown, ?free, ?outside, fun hmin hmax hused => ⟨?tag, ?sequence⟩⟩
  case unknown => exact fun h => congrArg _ (request_of_unknown hheader h)
  case free => exact fun hmin hmax hfree => congrArg _ (request_of_free hheader hmin hmax hfree)
  case outside => exact fun hzero => congrArg _ (request_of_sessionless hheader hzero rfl)
  case tag => exact fun htag => congrArg _ (request_of_badTag hheader hmin hmax hused htag)
  case sequence =>
    exact fun htagged htagOk hold hseq => congrArg _ (request_of_oldSequence hheader hmin hmax hused htagged htagOk hold hseq)

/-- Settles O10: an admitted request meets the role, the length, the state and the room in this order. -/
theorem refusedRequests : Obligations.RefusedRequests := by
  unfold Obligations.RefusedRequests
  intro r id s hadmits refused
  have htag := sessionNo_bne_of_admits_graphRun hadmits
  have hrefused (st : BitVec 16) : reply r 0x0202 (sessionNo r != 0) true st 0 [] (takeSeq r s) = refused st := by rw [htag]
  rw [exec_graphRun, arrive_of_admits hadmits, lengthFits_graphRun, ← rolePermits_takeSeq]
  refine ⟨?role, ?length, ?state, ?room⟩
  case role => exact fun hrole => congrArg _ ((judged_of_role hrole).trans (hrefused _))
  case length =>
    intro hrole hlength
    rw [beq_false_of_ne hlength, judged_of_length hrole, hrefused]
  case state =>
    intro hrole hlength hmode
    have hstate : stateAllows s.msc.mode 0x0202 = false := by rw [hmode]; rfl
    rw [hlength, hstate]
    exact congrArg _ ((judged_of_state hrole).trans (hrefused _))
  case room =>
    intro hrole hlength hmode hroom
    have hstate : stateAllows s.msc.mode 0x0202 = true := by rw [hmode]; rfl
    rw [hlength, hstate, hroom]
    exact congrArg _ ((judged_of_room hrole).trans (hrefused _))

/-- Settles O11: each immediate command that passes the checks is answered with its own answer. -/
theorem immediateCommands : Obligations.ImmediateCommands := by
  unfold Obligations.ImmediateCommands
  intro r s
  have hfront {o : Nat} (ho : o = 1 ∨ o = 2 ∨ o = 3) (hserves : portServes s = true) : stateAllows s.msc.mode o = true :=
    stateAllows_front (mode_of_portServes hserves) ho
  have hactive {o : Nat} (hmode : s.msc.mode = .active) : stateAllows s.msc.mode o = true := by rw [hmode]; rfl
  refine ⟨?status, ?time, ?temperature, ?boundary, ?now, ?result⟩
  case status => exact fun h hlength => congrArg _ (immediate_of_admits h hlength (hfront (.inl rfl) h.serves))
  case time => exact fun h hlength => congrArg _ (immediate_of_admits h hlength (hfront (.inr (.inl rfl)) h.serves))
  case temperature => exact fun h hlength => congrArg _ (immediate_of_admits h hlength (hfront (.inr (.inr rfl)) h.serves))
  case boundary => exact fun h hlength hmode => congrArg _ (immediate_of_admits h hlength (hactive hmode))
  case now => exact fun h hlength hmode => congrArg _ (immediate_of_admits h hlength (hactive hmode))
  case result =>
    intro seq f h hlength hmode hcached
    have hanswer := resultAnswer_of_cached hcached
    refine congrArg _ ((immediate_of_admits h hlength (hactive hmode)).trans ?_)
    change resultAnswer r.session.toNat seq (takeSeq r s) = _ at hanswer
    rw [hanswer]

end Sys2Proof.Proofs
end

section
/-! SUPPORT. Accepted commands of the control port that open and close sessions, set an action and serve the update session. -/

namespace Sys2Proof.Machine

variable {r : Req} {j : Job} {s : State}

/-! ### Sessions that acceptance leaves as they are (R311, R312, R318, R320) -/

/-- A session apart from what accepting and answering a request write: its last sequence and request, and its cache. -/
def Session.core (x : Session) : Session := { x with lastSeq := 0, lastAt := 0, cache := [] }

theorem core_modSession {k : Nat} {f : Session → Session} (hf : ∀ x, (f x).core = x.core) (s : State) (n : Nat) :
    (sessionAt (modSession k f s) n).core = (sessionAt s n).core := by
  show ((update s.cp.sessions (k - 1) f).getD (n - 1) {}).core = (s.cp.sessions.getD (n - 1) {}).core
  by_cases h : n - 1 = k - 1
  · rw [h]
    exact update_getD_keeps _ _ _ Session.core {} hf
  · rw [update_getD_other _ _ _ h]

theorem core_takeSeq (r : Req) (s : State) (n : Nat) : (sessionAt (takeSeq r s) n).core = (sessionAt s n).core := by
  unfold takeSeq
  split
  · rfl
  · refine core_modSession ?_ s n
    exact fun _ => rfl

theorem core_sendFrame (f : Frame) (keep : Bool) (s : State) (n : Nat) : (sessionAt (sendFrame f keep s) n).core = (sessionAt s n).core := by
  unfold sendFrame
  dsimp only
  split
  · refine core_modSession ?_ _ n
    exact fun _ => rfl
  · rfl

theorem core_taken (r : Req) (j : Job) (s : State) (n : Nat) : (sessionAt (taken r j s) n).core = (sessionAt s n).core := by
  rw [← core_takeSeq r s n, taken]
  generalize takeSeq r s = t
  dsimp only
  split
  · split <;> rfl
  · refine (core_sendFrame ..).trans ?_
    split <;> rfl

theorem taken_session_state (r : Req) (j : Job) (s : State) (n : Nat) : (sessionAt (taken r j s) n).state = (sessionAt s n).state := by
  injection core_taken r j s n

theorem taken_session_role (r : Req) (j : Job) (s : State) (n : Nat) : (sessionAt (taken r j s) n).role = (sessionAt s n).role := by
  injection core_taken r j s n

theorem taken_session_keyId (r : Req) (j : Job) (s : State) (n : Nat) : (sessionAt (taken r j s) n).keyId = (sessionAt s n).keyId := by
  injection core_taken r j s n

theorem taken_session_transcript (r : Req) (j : Job) (s : State) (n : Nat) :
    (sessionAt (taken r j s) n).transcript = (sessionAt s n).transcript := by
  injection core_taken r j s n

theorem freeSession_taken (r : Req) (j : Job) (s : State) : freeSession (taken r j s) = freeSession s := by
  simp only [freeSession, taken_session_state]

theorem hostKey_taken (r : Req) (j : Job) (s : State) (id : DWord) : hostKey (taken r j s) id = hostKey s id := by
  obtain ⟨_, h⟩ := taken_msc r j s
  rw [hostKey, h, hostKey]

theorem now_taken (r : Req) (j : Job) (s : State) : now (taken r j s) = now s := by rw [now, taken_tsl, now]

/-! ### An accepted command and its meaning (R319, R323) -/

/-- An accepted command whose meaning is an answer and a state completes with it. -/
theorem command_of_answered {a : Answer} {t : State} {x : Answer × State} (h : s.Accepts r j) (hx : x = (a, t))
    (hrun : runJob (originOf r j) (withRole s (sessionNo r) j) (taken r j s) = answered x) :
    command r j s = complete (originOf r j) a t := by
  rw [hx] at hrun
  exact command_of_runJob h hrun

/-- An accepted command that completes later, or by itself, leaves what its meaning leaves. -/
theorem command_of_silent {t : State} (h : s.Accepts r j)
    (hrun : runJob (originOf r j) (withRole s (sessionNo r) j) (taken r j s) = (none, t)) : command r j s = t := by
  rw [accept_executes r j s h, execJob, hrun]

/-! ### SESSION_OPEN and SESSION_CONFIRM (R317) -/

theorem sessionOpen_of_free {key : DWord} {role : Byte} {k : HostKey} {n : Nat} (hmin : 1 ≤ role.toNat) (hmax : role.toNat ≤ 3)
    (hkey : hostKey s key = some k) (hfree : freeSession s = some n) (who : Origin) (nonce kem : List Byte) :
    ∃ x a, sessionOpen who nonce key role kem s = (some (Status.ok, 0, a),
        modSession n (fun _ => x) { s with cp := { s.cp with nonce := s.cp.nonce + 1 } })
      ∧ x.state = .pending ∧ x.role = role ∧ x.keyId = key ∧ x.mac = macOf who ∧ x.lastSeq = 0 ∧ x.openedAt = now s
      ∧ a.take 8 = le 2 n ++ zeros 6 := by
  have hrole : ¬ (role = 0 ∨ 3 < role.toNat) := by
    rintro (rfl | hover)
    · exact absurd hmin (by decide)
    · omega
  rw [sessionOpen, if_neg hrole, hkey, hfree]
  refine ⟨_, _, rfl, rfl, rfl, rfl, rfl, rfl, rfl, ?_⟩
  simp only [List.append_assoc]
  rw [← List.append_assoc (le 2 n)]
  exact List.take_left' rfl

/-- Who may confirm a session has one that is pending (R316, R317). -/
theorem pending_of_admits {o : Nat} (h : s.Admits r o 4) : (sessionAt s (sessionNo r)).state = .pending := of_decide_eq_true h.role

theorem sessionConfirm_of_pending {who : Origin} {k : HostKey} (hpending : (sessionAt s (sessionOf who)).state = .pending)
    (hkey : hostKey s (sessionAt s (sessionOf who)).keyId = some k) (hrole : (sessionAt s (sessionOf who)).role.toNat ≤ k.role.toNat)
    (sig : List Byte) : sessionConfirm who sig s
      = if Config.falconVerify k.key (sessionAt s (sessionOf who)).transcript (fit 1280 sig)
        then done Status.ok (modSession (sessionOf who) (fun x => { x with state := .isOpen }) s)
        else done Status.signatureInvalid (raise .cp 2 { status := Status.signatureInvalid } s) := by
  rw [sessionConfirm, hkey]
  simp only [hpending, ne_eq, not_true_eq_false, if_false, Nat.not_lt.2 hrole]
  cases Config.falconVerify k.key (sessionAt s (sessionOf who)).transcript (fit 1280 sig) <;> rfl

/-! ### Actions (R323, R365, R392, R394) -/

theorem setAction_of_none (h : s.msc.action = none) (a : Action) :
    setAction a s = done Status.ok { s with msc := { s.msc with action := some a, actionAt := now s + 1000000 } } := by
  rw [setAction, h]
  rfl

/-- A command that sets an action, with none set, has it set when it is finished. -/
theorem command_of_setAction {a : Action} (h : s.Accepts r j) (hnone : s.msc.action = none)
    (hrun : runJob (originOf r j) (withRole s (sessionNo r) j) (taken r j s) = setAction a (taken r j s)) : command r j s
      = finished r j (Status.ok, 0, []) (fun u => { u with msc := { u.msc with action := some a, actionAt := now s + 1000000 } }) s := by
  refine command_of_runJob h (hrun.trans ?_)
  rw [setAction_of_none ((taken_action r j s).trans hnone), now_taken]
  rfl

theorem frostCommand_of_idle (h : s.msc.mode = .idle) : frostCommand s = setAction .frost s := by rw [frostCommand, h]

/-- In IDLE, with nothing set and no reset under way, a RESET of a listed type is set. -/
theorem resetCommand_of_idle {type block : Nat} (hmode : s.msc.mode = .idle) (hnone : s.msc.action = none) (hrest : s.msc.resetting = none)
    (hmin : 1 ≤ type) (hmax : type ≤ 5) (hblock : type = 5 → blockAllowed block = true) :
    resetCommand type block s = setAction (resetAction s type block) s := by
  have hlisted : ¬ (type = 0 ∨ 5 < type ∨ (type = 5 ∧ ¬ blockAllowed block = true)) := by
    rintro (h | h | ⟨h, hnot⟩)
    · omega
    · omega
    · exact hnot (hblock h)
  have hfree : ¬ (s.msc.action.isSome = true ∨ resetForbidden s type = true) := by simp [hnone, resetForbidden, hmode, resetLight, hrest]
  have hstatus : resetStatus s type block = Status.ok := by rw [resetStatus, if_neg hlisted, if_neg hfree]
  rw [resetCommand, hstatus]
  rfl

/-- RESET accepted in IDLE: its action is set. -/
theorem command_reset_of_idle {type block : Byte} (h : s.Accepts r (.reset type block)) (hmode : s.msc.mode = .idle)
    (hnone : s.msc.action = none) (hrest : s.msc.resetting = none) (hmin : 1 ≤ type.toNat) (hmax : type.toNat ≤ 5)
    (hblock : type.toNat = 5 → blockAllowed block.toNat = true) : command r (.reset type block) s
      = finished r (.reset type block) (Status.ok, 0, []) (fun u =>
        { u with msc := { u.msc with action := some (resetAction s type.toNat block.toNat), actionAt := now s + 1000000 } }) s := by
  have hmode' := (taken_mode r (.reset type block) s).trans hmode
  refine command_of_setAction h hnone ?_
  refine (resetCommand_of_idle hmode' ((taken_action ..).trans hnone) ((taken_resetting ..).trans hrest) hmin hmax hblock).trans ?_
  unfold resetAction
  rw [hmode', hmode]

/-! ### The update session (R419 to R422) -/

theorem updateBegin_of_unlocked (h : s.msc.update = none) (who : Origin) (manifest : List Byte) : updateBegin who manifest s
    = (none, { s with msc := { s.msc with held := s.msc.held ++ [{ who := who, man := manifestOf manifest }] } }) := by
  rw [updateBegin, h]
  rfl

section
variable {who : Origin} {u : UpdSession} (hlock : s.msc.update = some u) (hholder : sameHolder u.who who = true)
include hlock hholder

theorem updateData_of_next {off : Nat} {data : List Byte} (hoff : off = u.written) (hfits : off + data.length ≤ u.man.length.toNat) :
    updateData who off data s = ((Status.ok, 0, []),
      let c := u.man.component.toNat
      let slot := targetSlot s c
      let t := if c = 5 then s else modFw c (fun f => programImage slot off data (if off = 0 then setVerified slot false f else f)) s
      { t with msc := { t.msc with
          update := some { u with lastAt := now s, written := off + data.length, data := if c = 5 then u.data ++ data else [] } } }) := by
  have hnext : ¬ (off ≠ u.written ∨ u.man.length.toNat < off + data.length) := by omega
  rw [updateData, hlock]
  simp only [hholder, Bool.not_true, Bool.false_eq_true, if_false, hnext]
  split <;> rfl

theorem updateFinish_of_missing (hmissing : u.written < u.man.length.toNat) : updateFinish who s
    = ((Status.paramInvalid, 1, []), raise .msc 21 { status := Status.paramInvalid } { s with msc := { s.msc with update := none } }) := by
  rw [updateFinish, hlock]
  simp only [hholder, Bool.not_true, Bool.false_eq_true, if_false, hmissing, if_true]

end

theorem modFw_update (c : Nat) (f : FwSlot → FwSlot) (s : State) : (modFw c f s).msc.update = s.msc.update := rfl

/-- Waiting for an edition leaves the update session as it is. -/
theorem editionSchedule_update (earliest : Nat) (s : State) : (editionSchedule earliest s).msc.update = s.msc.update := by
  unfold editionSchedule
  dsimp only
  refine (each_keeps (fun t => t.msc.update) _ _ (fun c s => ?_) _).trans ?_
  · split <;> rfl
  · split
    · refine each_keeps (fun t => t.msc.update) _ _ ?_ s
      exact fun _ _ => rfl
    · rfl

theorem scheduleSwitch_update (c : Nat) (m : Manifest) (s : State) : (scheduleSwitch c m s).msc.update = s.msc.update := by
  unfold scheduleSwitch
  dsimp only
  split
  · rfl
  · rw [editionSchedule_update]
    split <;> rfl

/-- A finish of an image that is complete answers by its digest, and ends the session (R422). -/
theorem updateFinish_of_complete {who : Origin} {u : UpdSession} (hlock : s.msc.update = some u) (hholder : sameHolder u.who who = true)
    (hcomplete : u.man.length.toNat ≤ u.written) (himage : u.man.component.toNat < 5) (hmode : s.msc.mode ≠ .recovery) :
    ((updateFinish who s).1 = (Status.paramInvalid, 2, []) ∨ (updateFinish who s).1 = (Status.ok, 0, []))
      ∧ (updateFinish who s).2.msc.update = none := by
  have hnot5 : u.man.component.toNat ≠ 5 := by omega
  rw [updateFinish, hlock]
  simp only [hholder, Bool.not_true, Bool.false_eq_true, if_false, Nat.not_lt.2 hcomplete, hnot5]
  split
  · exact ⟨.inl rfl, by dsimp only; rw [raise_msc_update]⟩
  · refine ⟨.inr rfl, ?_⟩
    have hkept : ¬ ((slotVerified u.man.component.toNat (targetSlot s u.man.component.toNat) u.man
        { s with msc := { s.msc with update := none } }).msc.mode = .recovery) := hmode
    rw [if_neg hkept, scheduleSwitch_update]
    rfl

theorem updateAbort_of_holder {who : Origin} (h : holdsLock s who = true) :
    updateAbort who s = ((Status.ok, 0, []), { s with msc := { s.msc with update := none } }) := if_pos h

theorem taken_update (r : Req) (j : Job) (s : State) : (taken r j s).msc.update = s.msc.update := by
  obtain ⟨_, h⟩ := taken_msc r j s
  rw [h]

theorem targetSlot_taken (r : Req) (j : Job) (s : State) (c : Nat) : targetSlot (taken r j s) c = targetSlot s c := by
  obtain ⟨_, _, _, h⟩ := portOnly_taken r j s
  rw [h]
  rfl

end Sys2Proof.Machine

namespace Sys2Proof.Proofs

open Sys2Proof.Machine

/-- Settles O12: each command of a session is accepted, and its meaning taken in the state that acceptance leaves. -/
theorem sessionCommands : Obligations.SessionCommands := by
  unfold Obligations.SessionCommands
  intro r s
  refine ⟨?isOpen, ?confirm, ?close, ?attest, ?subscribe⟩
  case isOpen =>
    intro nonce key role kem k n h hmin hmax hkey hfree
    obtain ⟨x, a, hrun, hstate, hrole, hid, hmac, hseq, hat, htake⟩ := sessionOpen_of_free hmin hmax
      ((hostKey_taken r (.sessionOpen nonce key role kem) s key).trans hkey) ((freeSession_taken ..).trans hfree)
      (originOf r (.sessionOpen nonce key role kem)) nonce kem
    refine ⟨x, a, congrArg _ (command_of_runJob h hrun), hstate, hrole, hid, hmac, hseq, hat.trans (now_taken ..), htake⟩
  case confirm =>
    intro sig k h hkey hrole
    have hadmits : s.Admits r 0x0102 4 := h.admits
    have hrun := sessionConfirm_of_pending (s := taken r (.sessionConfirm sig) s) (who := originOf r (.sessionConfirm sig)) (k := k)
      ((taken_session_state ..).trans (pending_of_admits hadmits))
      ((congrArg _ (taken_session_keyId ..)).trans ((hostKey_taken ..).trans hkey)) (by rw [taken_session_role]; exact hrole) sig
    rw [taken_session_transcript] at hrun
    refine congrArg Host.Outcome.next ?_
    by_cases hsig : Config.falconVerify k.key (sessionAt s (sessionNo r)).transcript (fit 1280 sig) = true
    · rw [if_pos hsig]
      exact command_of_runJob h (hrun.trans (if_pos hsig))
    · rw [if_neg hsig]
      exact command_of_runJob h (hrun.trans (if_neg hsig))
  case close => exact fun h => congrArg _ (command_of_silent h rfl)
  case attest => exact fun nonce h => congrArg _ (command_of_runJob h rfl)
  case subscribe =>
    intro mask enable h hmask
    exact congrArg _ (command_of_runJob h (if_neg (Nat.not_lt.2 hmask)))

/-- Settles O16: the meaning of each of these commands is to set its action. -/
theorem actionCommands : Obligations.ActionCommands := by
  unfold Obligations.ActionCommands
  intro r s set
  refine ⟨?frost, ?thaw, ?powerOff, ?recovery, fun hnone hrest hmode => ?reset⟩
  case frost =>
    exact fun h hmode hnone => congrArg _ (command_of_setAction h hnone (frostCommand_of_idle ((taken_mode ..).trans hmode)))
  case thaw =>
    intro h hnone
    have hthaw : thawable (taken r .thaw s) = true := by
      obtain ⟨_, _, _, e⟩ := portOnly_taken r .thaw s
      rw [e]
      exact h.mode
    exact congrArg _ (command_of_setAction h hnone (if_pos hthaw))
  case powerOff => exact fun h hnone => congrArg _ (command_of_setAction h hnone rfl)
  case recovery => exact fun h hnone => congrArg _ (command_of_setAction h hnone rfl)
  case reset =>
    have hidle : ¬ s.msc.mode = .frost := by rw [hmode]; decide
    have hreset {type block : Byte} {a : Action} (h : s.Accepts r (.reset type block)) (hmin : 1 ≤ type.toNat) (hmax : type.toNat ≤ 5)
        (hblock : type.toNat = 5 → blockAllowed block.toNat = true) (ha : resetAction s type.toNat block.toNat = a) :
        command r (.reset type block) s = set (.reset type block) a := by
      rw [command_reset_of_idle h hmode hnone hrest hmin hmax hblock, ha]
    refine ⟨?_, ?_, ?_, ?_, fun block h hblock => ?_⟩
    · exact fun h => congrArg _ (hreset h (by decide) (by decide) (by decide) (if_neg hidle))
    · exact fun h => congrArg _ (hreset h (by decide) (by decide) (by decide) (if_neg hidle))
    · exact fun h => congrArg _ (hreset h (by decide) (by decide) (by decide) (if_neg hidle))
    · exact fun h => congrArg _ (hreset h (by decide) (by decide) (by decide) (if_neg hidle))
    · exact congrArg _ (hreset h (by decide) (by decide) (fun _ => hblock) (if_neg hidle))

/-- Settles O17: each command of the update session meets the lock as acceptance leaves it. -/
theorem updateCommands : Obligations.UpdateCommands := by
  unfold Obligations.UpdateCommands
  intro r s
  refine ⟨?begin, ?record, ?image, ?missing, ?complete, ?abort⟩
  case begin =>
    exact fun m h hfree => congrArg _ (command_of_silent h (updateBegin_of_unlocked ((taken_update ..).trans hfree) _ m))
  case record =>
    intro off data u h hlock hholder hoff hfits hrecord
    have hrun := updateData_of_next ((taken_update r (.updateData off data) s).trans hlock) hholder hoff hfits
    simp only [hrecord, if_true, now_taken] at hrun
    exact congrArg _ (command_of_answered h hrun rfl)
  case image =>
    intro off data ⟨who, man, written, held, lastAt⟩ h hlock hholder hoff hfits himage hempty
    obtain rfl : held = [] := hempty
    have hnot5 : man.component.toNat ≠ 5 := Nat.ne_of_lt himage
    have hrun := updateData_of_next ((taken_update r (.updateData off data) s).trans hlock) hholder hoff hfits
    simp only [hnot5, if_false, now_taken, targetSlot_taken] at hrun
    exact congrArg _ (command_of_answered h hrun rfl)
  case missing =>
    exact fun u h hlock hholder hmissing => congrArg _
      (command_of_answered h (updateFinish_of_missing ((taken_update ..).trans hlock) hholder hmissing) rfl)
  case complete =>
    intro u h hlock hholder hcomplete himage hmode
    have hended := updateFinish_of_complete ((taken_update r .updateFinish s).trans hlock) hholder hcomplete himage
      (by rw [taken_mode]; exact hmode)
    exact ⟨_, _, congrArg _ (command_of_runJob h rfl), hended.1, hended.2⟩
  case abort =>
    intro h hholder
    have hholds : holdsLock (taken r .updateAbort s) (originOf r .updateAbort) = true := by
      rw [holdsLock, taken_update]
      exact hholder
    exact congrArg _ (command_of_answered h (updateAbort_of_holder hholds) rfl)

end Sys2Proof.Proofs
end

section
/-! SUPPORT. Fragments and raw frames of the control port, what waits for the MSC, the gate list, and actions and resets. -/

namespace Sys2Proof.Machine

variable {s : State}

/-! ### Fragments and frames that are no command (R307, R311, R315) -/

/-- A first fragment of several opens an assembly that holds it alone. -/
theorem takeFragment_of_first {index count : Nat} (hempty : s.cp.assemblies = []) (hcount : 1 < count) (r : Req) (o : BitVec 16) (length : Nat)
    (data : List Byte) : takeFragment r o index count length data s = { s with cp := { s.cp with assemblies :=
      [{ src := r.src, opcode := o, seq := r.seq, count := count, length := length, time := now s, parts := [(index, data)] }] } } := by
  have hopen : ¬ (1 = count) := by omega
  simp [takeFragment, hempty, assoc, insertKey, assembled, hopen]

/-- A fragment outside a session that passes every check of its header is taken. -/
theorem exec_messageFragment_of_sound {r : Req} {o : BitVec 16} {index count : Byte} {length : BitVec 16} {data : List Byte}
    (hserves : portServes s = true) (hdirect : r.bcast = false) (hshape : r.behind < 3) (hloud : r.quiet = false)
    (houtside : sessionNo r = 0) (hfragmented : fragmented o.toNat = true) (hsessionless : sessionless o.toNat = true)
    (hlisted : opcodeListed o.toNat = true)
    (hheader : fragmentHeader index.toNat count.toNat length.toNat data (s.cp.assemblies.find? (ofMessage r o)) = true) :
    exec (.messageFragment r o index count length data) s = .next (takeFragment r o index.toNat count.toNat length.toNat data s) := by
  have hzero : r.session.toNat = 0 := houtside
  have hkept : ¬ 3 ≤ r.behind := Nat.not_le.2 hshape
  show execMessageFragment r o index count length data s = _
  simp [execMessageFragment, hserves, hdirect, hkept, hlisted, hfragmented, hloud, hheader, hzero, hsessionless]

/-- A message that may be fragmented has an opcode of R323. -/
theorem opcodeListed_of_fragmented {o : Nat} (h : fragmented o = true) : opcodeListed o = true := by
  simp only [fragmented, Bool.or_eq_true, beq_iff_eq] at h
  rcases h with (rfl | rfl) | rfl <;> rfl

/-- A frame accepted under R307 is none of 802.1AS. -/
theorem etherType_of_frameAccepted {f : RawFrame} (h : frameAccepted s f = true) : f.etherType ≠ 0x88F7 := by
  intro htime
  simp [frameAccepted, htime] at h

theorem exec_unrecognisedControlFrame_of_refused {f : RawFrame} (hserves : portServes s = true) (htype : f.etherType ≠ 0x88F7)
    (hrefused : frameAccepted s f = false) : exec (.unrecognisedControlFrame f) s = .next (dropFrame s) :=
  (if_neg (by rw [hserves]; decide)).trans ((if_neg (fun h => htype h.2)).trans (if_pos (by rw [hrefused]; rfl)))

/-- A frame that is accepted and as long as its header says comes to the checks of version, header and opcode. -/
theorem exec_unrecognisedControlFrame_of_accepted {f : RawFrame} (hserves : portServes s = true) (haccepted : frameAccepted s f = true)
    (hlength : 16 + f.plen + 32 ≤ f.payload) : exec (.unrecognisedControlFrame f) s
      = let bare (st : BitVec 16) (res : List Byte) : State := reply (rawRequest f) f.opcode.toNat false false st 0 res s
        if f.version ≠ 1 then .next (bare Status.versionUnsupported [1])
        else if !headerFits f then .next (bare Status.headerInvalid [])
        else if !opcodeListed f.opcode.toNat then .next (bare Status.opcodeUnknown [])
        else .next s := by
  have htype := etherType_of_frameAccepted haccepted
  have hwhole : ¬ f.payload < 16 + f.plen + (if f.flags.toNat.testBit 1 = true then 32 else 0) := by split <;> omega
  refine (if_neg (by rw [hserves]; decide)).trans ((if_neg (fun h => htype h.2)).trans ?_)
  exact (if_neg (by rw [haccepted]; decide)).trans (if_neg hwhole)

/-! ### The timers of sessions (R317, R318) -/

theorem exec_sessionConfirmTimeout_of_pending {n : Nat} (hmin : 1 ≤ n) (hmax : n ≤ 8) (h : (sessionAt s n).state = .pending) :
    exec (.sessionConfirmTimeout n) s = .next (endSession n (advanceTo ((sessionAt s n).openedAt + 1000000000) s)) :=
  if_neg (by rw [h]; simp; omega)

theorem exec_sessionIdleTimeout_of_open {n : Nat} (hmin : 1 ≤ n) (hmax : n ≤ 8) (h : (sessionAt s n).state = .isOpen) :
    exec (.sessionIdleTimeout n) s = .next (endSession n (advanceTo ((sessionAt s n).lastAt + 300000000000) s)) :=
  if_neg (by rw [h]; simp; omega)

/-! ### Submission entries (R339) -/

/-- An entry waits in an enabled submission ring whose linked ring has room, and its bytes can be read. -/
theorem exec_submissionEntry_of_waiting {ring : BitVec 14} (hserves : portServes s = true) (hmode : s.msc.mode ≠ .recovery)
    (hstate : (ringOf s ring.toNat).state = .enabled) (htype : (ringOf s ring.toNat).type = .submission)
    (hused : (ringOf s ring.toNat).used ≠ 0) (hroom : ringTakes s (ringOf s ring.toNat).linked.toNat 1 = true)
    (hread : serves s ((ringOf s ring.toNat).entry (ringOf s ring.toNat).cons) 64 false = true) :
    exec (.submissionEntry ring) s = .next (
      let e := readBytes s ((ringOf s ring.toNat).entry (ringOf s ring.toNat).cons) 64
      runEntry (.ring ring.toNat (BitVec.ofNat 64 (field e 8 8))) e (modRing ring.toNat (fun r => { r with cons := r.cons + 1 })
        (modRing (ringOf s ring.toNat).linked.toNat (fun q => { q with reserved := q.reserved + 1 }) s))) := by
  refine (if_neg ?_).trans (if_neg ?_)
  · simp [hserves, hmode, hstate, htype, hused, hroom]
  · simp [hread]

/-! ### The gate list (R314, R328) -/

theorem writeHif_qbvEntry (i : Fin 64) (w hw : Word) (s : State) : writeHif (0x0200 + 4 * i.val) w hw s = writeQbv (.entry i) w s := by
  have hi := i.isLt
  have hgate : indexOf 0x0200 4 64 (0x0200 + 4 * i.val) = some i.val := indexOf_register (by decide) hi
  unfold writeHif
  simp (disch := omega) only [hgate, if_neg, Fin.ofNat_eq_cast, Fin.cast_val_eq_self]

/-- A write of an entry of the gate list. -/
theorem writeWord_qbvEntry (i : Fin 64) (w : Word) (s : State) : writeWord (0xC00200 + 4 * i.val) w s = writeQbv (.entry i) w s := by
  have hblock : (0xC00200 + 4 * i.val) / 0x100000 = 12 := by omega
  have hoff : (0xC00200 + 4 * i.val) % 0x100000 = 0x0200 + 4 * i.val := by omega
  rw [← writeHif_qbvEntry i w 0 s]
  simp only [writeWord, writeWordObs, hblock, hoff]

/-- Where the write is let through, a register of the gate list takes it. -/
theorem exec_hifQbvWrite_of_opens {p : Path} {reg : QbvReg} {w : Word} {t : State} (h : s.Opens p (qbvOffset reg) true)
    (hoff : qbvOffset reg ≠ 0xCA0000) (hwrite : writeWord (qbvOffset reg) w s = t) : exec (.hifQbvWrite p reg w) s = .next t :=
  congrArg Host.Outcome.next ((pathWrite_of_opens w h hoff).trans hwrite)

theorem writeQbv_cycle_of_listed {w : Word} (hmin : 1000 ≤ w.toNat) (hmax : w.toNat ≤ 1000000000) : writeQbv .cycle w s
    = if s.cp.qbvEn then raise .cp 3 {} s else { s with cp := { s.cp with qbvCycle := w } } := if_neg (by omega)

theorem writeQbv_entry_of_interval {w : Word} (h : bits w 23 0 ≠ 0) (i : Fin 64) : writeQbv (.entry i) w s
    = if s.cp.qbvEn then raise .cp 3 {} s else { s with cp := { s.cp with
        qbv := update s.cp.qbv i.val (fun _ => { imm := bit w 31, other := bit w 30, interval := BitVec.ofNat 24 (bits w 23 0) }) } } :=
  if_neg (fun c => h c.1)

theorem writeQbvCtrl_of_disable {w : Word} (hoff : bit w 31 = false) (hmin : 1 ≤ bits w 6 0) (hmax : bits w 6 0 ≤ 64) : writeQbvCtrl w s
    = { s with cp := { s.cp with qbvEn := false, qbvCount := BitVec.ofNat 7 (bits w 6 0), gateInForce := false } } := by
  have hnonzero : bits w 6 0 ≠ 0 := by omega
  simp [writeQbvCtrl, hoff, hnonzero, Nat.not_lt.2 hmax]

/-! ### Resets as they end (R394) -/

theorem exec_resetEnd_of_resetting {k : Action} (h : s.msc.resetting = some k) (o : BringUp) :
    exec (.resetEnd o) s = .next (runWaiting (runAccesses (resetEnd o s))) :=
  if_neg (by simp [h])

theorem resetEnd_of_function {source : Nat} (h : s.msc.resetting = some (.reset .function source)) (o : BringUp) :
    resetEnd o s = resetDone 4 source 0 false false s := by
  unfold resetEnd
  rw [h]

end Sys2Proof.Machine

namespace Sys2Proof.Proofs

open Sys2Proof.Machine

/-- Settles O19: what each of these frames and timers does where its conditions hold. -/
theorem portTimers : Obligations.PortTimers := by
  unfold Obligations.PortTimers
  intro s
  refine ⟨?fragment, ?timeout, ?pending, ?idle, ?event, ?dropped, ?refused⟩
  case fragment =>
    intro r o index count length data hserves hdirect hshape hloud houtside hfragmented hsessionless hempty hmany hcount hindex hlength hdata
    have hheader : fragmentHeader index.toNat count.toNat length.toNat data (s.cp.assemblies.find? (ofMessage r o)) = true := by
      have hone : 1 ≤ count.toNat := Nat.le_of_lt hmany
      simp [fragmentHeader, hempty, hone, hcount, hindex, hlength, hdata]
    rw [exec_messageFragment_of_sound hserves hdirect hshape hloud houtside hfragmented hsessionless
      (opcodeListed_of_fragmented hfragmented) hheader, takeFragment_of_first hempty hmany]
  case timeout =>
    intro i a h
    show execFragmentTimeout i s = _
    rw [execFragmentTimeout, h]
    rfl
  case pending => exact fun n => exec_sessionConfirmTimeout_of_pending
  case idle => exact fun n => exec_sessionIdleTimeout_of_open
  case event =>
    intro n out h
    show execEventCopyDrop n s = _
    rw [execEventCopyDrop, h]
  case dropped => exact fun f hserves _ htype hrefused => exec_unrecognisedControlFrame_of_refused hserves htype hrefused
  case refused =>
    intro f hserves haccepted hlength bare
    rw [exec_unrecognisedControlFrame_of_accepted hserves haccepted hlength]
    refine ⟨fun hversion => if_pos hversion, fun hversion hheader => ?_, fun hversion hheader hopcode => ?_⟩
    · exact (if_neg (not_not.2 hversion)).trans (if_pos (by rw [hheader]; rfl))
    · exact (if_neg (not_not.2 hversion)).trans ((if_neg (by rw [hheader]; decide)).trans (if_pos (by rw [hopcode]; rfl)))

/-- Settles O20: a restart takes the waiting commands up, and an entry that waits is fetched and run. -/
theorem waitingCommands : Obligations.WaitingCommands := by
  unfold Obligations.WaitingCommands
  intro s
  refine ⟨fun hdead hmode hreset => ?restart, fun ring => ?entry⟩
  case restart => exact if_neg (by simp [hdead, hmode, hreset])
  case entry => exact exec_submissionEntry_of_waiting

/-- Settles O28: each register of the gate list meets the write that its path lets through. -/
theorem gateList : Obligations.GateList := by
  unfold Obligations.GateList
  intro p w s
  refine ⟨fun h => ?baseLo, fun h => ?baseHi, fun h hmin hmax => ?cycle, fun i h hinterval => ?entry, fun h hoff hmin hmax => ?ctrl⟩
  case baseLo => exact exec_hifQbvWrite_of_opens h (by decide) rfl
  case baseHi => exact exec_hifQbvWrite_of_opens h (by decide) rfl
  case cycle => exact exec_hifQbvWrite_of_opens h (by decide) (writeQbv_cycle_of_listed hmin hmax)
  case entry =>
    have hnot : 0xC00200 + 4 * i.val ≠ 0xCA0000 := by omega
    exact exec_hifQbvWrite_of_opens h hnot ((writeWord_qbvEntry i w s).trans (writeQbv_entry_of_interval hinterval i))
  case ctrl => exact exec_hifQbvWrite_of_opens h (by decide) (writeQbvCtrl_of_disable hoff hmin hmax)

/-- Settles O54: an action begins, RESET_N is met by the state, and a reset under way ends. -/
theorem actionsAndResets : Obligations.ActionsAndResets := by
  unfold Obligations.ActionsAndResets
  intro s
  refine ⟨fun a h => ?action, fun hmode hlight => ?idle, fun hmode => ?standby, rfl, fun o hmode hheld hrest hruns => ?boot,
    fun o source h => ?function, fun o k h => ?reset⟩
  case action =>
    show execMscActionStart s = _
    rw [execMscActionStart, h]
  case idle =>
    show execResetNPulse s = _
    rw [execResetNPulse, hmode]
    exact if_pos hlight
  case standby =>
    show execResetNPulse s = _
    rw [execResetNPulse, hmode]
  case boot =>
    refine (if_neg ?_).trans ?_
    · simp [hmode, hheld, hrest, hruns]
    · dsimp only
      split <;> rfl
  case function => rw [exec_resetEnd_of_resetting h, resetEnd_of_function h]
  case reset => exact exec_resetEnd_of_resetting h o

end Sys2Proof.Proofs
end

section
/-! SUPPORT. What an entry stored in a ring leaves, bit by bit what an event leaves of the event-status registers, and where its record goes. -/

namespace Sys2Proof.Machine

variable {s t : State} {a : Nat}

/-! ### Bytes stored where they are served (R216, R332) -/

theorem writeByte_frame (a : Nat) (v : Byte) (s : State) : ∃ m h, writeByte a v s = { s with mem := m, hostMem := h } := by
  unfold writeByte
  split
  · exact ⟨_, s.hostMem, rfl⟩
  · exact ⟨s.mem, _, rfl⟩
  · exact ⟨s.mem, s.hostMem, rfl⟩

theorem writeBytes_frame (bs : List Byte) (a : Nat) (s : State) : ∃ m h, writeBytes a bs s = { s with mem := m, hostMem := h } := by
  induction bs generalizing a s with
  | nil => exact ⟨s.mem, s.hostMem, rfl⟩
  | cons b r ih =>
    obtain ⟨m, h, hfirst⟩ := writeByte_frame a b s
    obtain ⟨m', h', hrest⟩ := ih (a + 1) (writeByte a b s)
    exact ⟨m', h', by rw [writeBytes, hrest, hfirst]⟩

theorem place_writeByte (a : Nat) (v : Byte) (s : State) (b : Nat) (write : Bool) : place (writeByte a v s) b write = place s b write := by
  obtain ⟨m, h, heq⟩ := writeByte_frame a v s
  rw [heq]
  rfl

theorem get_writeByte_same {k : Nat} (hwf : s.memoryWf) (v : Byte) (h : place s a true = .device k) :
    Memory.get k (writeByte a v s).mem = v := by
  rw [writeByte, h]
  exact (Memory.get_set _ _ _ _ hwf.1).trans (if_pos rfl)

theorem get_writeByte_other {k : Nat} (hwf : s.memoryWf) (v : Byte) (h : place s a true ≠ .device k) :
    Memory.get k (writeByte a v s).mem = Memory.get k s.mem := by
  unfold writeByte
  split
  next j hj =>
    refine (Memory.get_set _ _ _ _ hwf.1).trans (if_neg ?_)
    rintro rfl
    exact h hj
  · rfl
  · rfl

theorem get_host_writeByte_other {k : Nat} (hwf : s.memoryWf) (v : Byte) (h : place s a true ≠ .host k) :
    Memory.get k (writeByte a v s).hostMem = Memory.get k s.hostMem := by
  unfold writeByte
  split
  · rfl
  next j hj =>
    refine (Memory.get_set _ _ _ _ hwf.2).trans (if_neg ?_)
    rintro rfl
    exact h hj
  · rfl

theorem get_writeBytes_outside {k : Nat} (bs : List Byte) (hwf : s.memoryWf) (h : ∀ m, m < bs.length → place s (a + m) true ≠ .device k) :
    Memory.get k (writeBytes a bs s).mem = Memory.get k s.mem := by
  induction bs generalizing a s with
  | nil => rfl
  | cons b r ih =>
    have hfirst : place s a true ≠ .device k := h 0 (by simp)
    rw [writeBytes, ih (keeps_writeByte a b s hwf), get_writeByte_other hwf b hfirst]
    intro m hm
    rw [place_writeByte, Nat.add_right_comm]
    exact h (m + 1) (by simpa using hm)

theorem get_host_writeBytes_outside {k : Nat} (bs : List Byte) (hwf : s.memoryWf)
    (h : ∀ m, m < bs.length → place s (a + m) true ≠ .host k) : Memory.get k (writeBytes a bs s).hostMem = Memory.get k s.hostMem := by
  induction bs generalizing a s with
  | nil => rfl
  | cons b r ih =>
    have hfirst : place s a true ≠ .host k := h 0 (by simp)
    rw [writeBytes, ih (keeps_writeByte a b s hwf), get_host_writeByte_other hwf b hfirst]
    intro m hm
    rw [place_writeByte, Nat.add_right_comm]
    exact h (m + 1) (by simpa using hm)

/-- A cell holds the last byte that was stored at its place. -/
theorem get_writeBytes_last {bs : List Byte} {j k : Nat} (hwf : s.memoryWf) (hj : j < bs.length) (hplace : place s (a + j) true = .device k)
    (hlast : ∀ m, j < m → m < bs.length → place s (a + m) true ≠ .device k) :
    Memory.get k (writeBytes a bs s).mem = bs.getD j 0 := by
  induction bs generalizing a j s with
  | nil => exact absurd hj (Nat.not_lt_zero j)
  | cons b r ih =>
    have hwf' := keeps_writeByte a b s hwf
    rw [writeBytes]
    cases j with
    | zero =>
      have hfirst : place s a true = .device k := hplace
      rw [get_writeBytes_outside r hwf', get_writeByte_same hwf b hfirst]
      · rfl
      · intro m hm
        rw [place_writeByte, Nat.add_right_comm]
        exact hlast (m + 1) (Nat.succ_pos m) (by simpa using hm)
    | succ n =>
      refine ih hwf' (by simpa using hj) ?_ fun m hm hlen => ?_
      · rw [place_writeByte, Nat.add_right_comm]
        exact hplace
      · rw [place_writeByte, Nat.add_right_comm]
        exact hlast (m + 1) (Nat.succ_lt_succ hm) (by simpa using hlen)

theorem mem_of_stored (h : t.stored = s.stored) : t.mem = s.mem := by
  have hmem := congrArg (fun q : State => q.mem) h
  exact hmem

theorem hostMem_of_stored (h : t.stored = s.stored) : t.hostMem = s.hostMem := by
  have hmem := congrArg (fun q : State => q.hostMem) h
  exact hmem

/-- What bytes stored leave of memory hangs on what memory rests on. -/
theorem writeBytes_stored_congr (h : t.stored = s.stored) (bs : List Byte) (a : Nat) :
    (writeBytes a bs t).stored = (writeBytes a bs s).stored := by
  induction bs generalizing a s t with
  | nil => exact h
  | cons b r ih =>
    refine ih ?_ (a + 1)
    unfold writeByte
    rw [place_of_stored h]
    split
    next k _ => exact congrArg (fun q : State => { q with mem := Memory.set k b q.mem }) h
    next k _ => exact congrArg (fun q : State => { q with hostMem := Memory.set k b q.hostMem }) h
    · exact h

/-! ### Ring entries (R331, R332) -/

theorem fit_of_length {n : Nat} {bs : List Byte} (h : bs.length = n) : fit n bs = bs := by
  rw [fit, List.take_left' h]

theorem ringOf_setRing (i : Nat) (r : Ring) (s : State) : ringOf (setRing i r s) i = r := by
  show (assoc i (insertKey i r s.hif.rings)).getD {} = r
  rw [assoc_insertKey]
  rfl

theorem storeTask_hif (a : Nat) (bs : List Byte) (s : State) : (storeTask a bs s).hif = s.hif := by
  obtain ⟨m, h, heq⟩ := writeBytes_frame bs a s
  rw [storeTask, heq]
  rfl

theorem storeTask_mem (a : Nat) (bs : List Byte) (s : State) : (storeTask a bs s).mem = (writeBytes a bs s).mem := rfl
theorem storeTask_hostMem (a : Nat) (bs : List Byte) (s : State) : (storeTask a bs s).hostMem = (writeBytes a bs s).hostMem := rfl

/-- An entry stored in a ring that signals nothing. -/
theorem ringStore_of_quiet {i : Nat} (h : (ringOf s i).intEn = false) (e : List Byte) : ringStore i e s
    = setRing i { ringOf s i with prod := (ringOf s i).prod + 1 } (storeTask ((ringOf s i).entry (ringOf s i).prod) (fit 64 e) s) := by
  have hring : ringOf (storeTask ((ringOf s i).entry (ringOf s i).prod) (fit 64 e) s) i = ringOf s i := by
    rw [ringOf, storeTask_hif, ringOf]
  unfold ringStore modRing
  dsimp only
  rw [hring, ringSignal, ringOf_setRing]
  exact if_neg (by rw [h]; decide)

/-! ### The bits that an event leaves (R341, R443) -/

/-- `f` leaves every event bit that has not property `P`. -/
def LeavesBits (P : Src → Nat → Prop) (f : State → State) : Prop :=
  ∀ s d k, ¬ P d k → ((f s).ev.read d).toNat.testBit k = (s.ev.read d).toNat.testBit k

section
variable {P : Src → Nat → Prop}

theorem leavesBits_of_ev {f : State → State} (h : ∀ s, (f s).ev = s.ev) : LeavesBits P f := fun s d k _ => by rw [h]

theorem setBit_leavesBits {c : Src} {b : Nat} (h : P c b) : LeavesBits P (setBit c b) := fun s d k hother => by
  rw [setBit_ev, EventRegs.read_write]
  split
  next hsame =>
    subst hsame
    have hbit : b ≠ k := by
      rintro rfl
      exact hother h
    rw [BitVec.toNat_or, Nat.testBit_or, BitVec.toNat_ofNat, Nat.testBit_mod_two_pow, Nat.testBit_two_pow_of_ne hbit]
    simp
  next => rfl

theorem eventRings_leavesBits (graphRing : Option Nat) {put : Nat → State → State} (h : ∀ r, LeavesBits P (put r)) :
    LeavesBits P (eventRings graphRing put) := fun s d k hother => by
  unfold eventRings
  cases graphRing with
  | none =>
    dsimp only
    split
    · exact h _ s d k hother
    · rfl
  | some r =>
    dsimp only
    split
    · exact (h _ _ d k hother).trans (h r s d k hother)
    · exact h r s d k hother

variable (hlost : P .hif 4)
include hlost

theorem putEvent_leavesBits (ring number : Nat) (e : List Byte) {fault : State → State} (h : LeavesBits P fault) :
    LeavesBits P (putEvent ring number e fault) := fun s d k hother => by
  have hgap : ((writeGap ring s).ev.read d).toNat.testBit k = (s.ev.read d).toNat.testBit k := by rw [writeGap_ev]
  unfold putEvent
  dsimp only
  split_ifs
  · exact hgap
  · exact hgap
  · rw [ringStore_ev, hgap]
  · exact (h _ d k hother).trans hgap
  · exact (setBit_leavesBits hlost _ d k hother).trans hgap
  · exact hgap

theorem raiseWith_leavesBits {fault : Nat → State → State} (h : ∀ r, LeavesBits P (fault r)) {c : Src} {b : Nat} (hbit : P c b) (i : EvInfo) :
    LeavesBits P (raiseWith fault c b i) := fun s d k hother => by
  unfold raiseWith
  split
  · rw [writeRecord, journalRecord_ev, eventCopies_ev]
    exact (eventRings_leavesBits _ (fun r => putEvent_leavesBits hlost r _ _ (h r)) _ d k hother).trans
      (setBit_leavesBits hbit s d k hother)
  · exact setBit_leavesBits hbit s d k hother

variable (hfault : P .hif 5)
include hfault

theorem raiseFuel_leavesBits (fuel : Nat) {c : Src} {b : Nat} (hbit : P c b) (i : EvInfo) : LeavesBits P (raiseFuel fuel c b i) := by
  induction fuel generalizing c b i with
  | zero => exact raiseWith_leavesBits hlost (fun _ => setBit_leavesBits hfault) hbit i
  | succ n ih => exact raiseWith_leavesBits hlost (fun _ => ih hfault _) hbit i

/-- An event leaves every bit but its own, HIF_EVENT_LOST and HIF_RING_FAULT. -/
theorem raise_leavesBits {c : Src} {b : Nat} (hbit : P c b) (i : EvInfo) : LeavesBits P (raise c b i) :=
  raiseFuel_leavesBits hlost hfault 2 hbit i

end

/-! ### An event that is not recorded (R341, R444) -/

theorem sendVector_frame (v : Nat) (s : State) : ∃ o p, sendVector v s = { s with out := o, hif := { s.hif with msixPending := p } } := by
  unfold sendVector
  split
  · exact ⟨s.out, _, rfl⟩
  · split
    · exact ⟨s.out, s.hif.msixPending, rfl⟩
    · exact ⟨_, s.hif.msixPending, rfl⟩

/-- Setting a bit changes its register and what a message leaves. -/
theorem setBit_frame (c : Src) (b : Nat) (s : State) : ∃ o p, setBit c b s
    = { s with ev := s.ev.write c (s.ev.read c ||| BitVec.ofNat 32 (2 ^ b)), out := o, hif := { s.hif with msixPending := p } } := by
  unfold setBit irqIfPending
  dsimp only
  split
  · exact ⟨s.out, s.hif.msixPending, rfl⟩
  · split
    · obtain ⟨o, p, h⟩ := sendVector_frame (s.hif.irqVec.getD (srcIndex c) 0).toNat
        { s with ev := s.ev.write c (s.ev.read c ||| BitVec.ofNat 32 (2 ^ b)) }
      exact ⟨o, p, h⟩
    · exact ⟨s.out, s.hif.msixPending, rfl⟩

theorem EventRegs.write_read (e : EventRegs) (c : Src) : e.write c (e.read c) = e := by cases c <;> rfl

/-- A bit that is set already stays with its word as it is. -/
theorem or_twoPow_of_testBit {w : Word} {b : Nat} (h : w.toNat.testBit b = true) : w ||| BitVec.ofNat 32 (2 ^ b) = w := by
  apply BitVec.eq_of_toNat_eq
  refine Nat.eq_of_testBit_eq fun k => ?_
  rw [BitVec.toNat_or, Nat.testBit_or, BitVec.toNat_ofNat, Nat.testBit_mod_two_pow]
  by_cases hk : b = k
  · subst hk
    rw [h, Bool.true_or]
  · rw [Nat.testBit_two_pow_of_ne hk, Bool.and_false, Bool.or_false]

theorem raise_of_unrecorded {c : Src} {b : Nat} (h : recorded c b ((s.ev.read c).toNat.testBit b) = false) (i : EvInfo) :
    raise c b i s = setBit c b s := if_neg (by rw [h]; decide)

theorem recorded_of_edge {c : Src} {b : Nat} (h : recRule c b = .edge) : recorded c b true = false := by
  rw [recorded, h]
  rfl

/-! ### Where the record of an event goes (R341) -/

theorem setBit_rings (c : Src) (b : Nat) (s : State) : (setBit c b s).hif.rings = s.hif.rings := by
  obtain ⟨_, _, h⟩ := setBit_frame c b s
  rw [h]

theorem eventCopies_hif (c : Src) (e : List Byte) (s : State) : (eventCopies c e s).hif = s.hif := by
  refine each_keeps State.hif _ _ (fun n u => ?_) s
  dsimp only
  split <;> rfl

theorem journalRecord_hif (c : Src) (b number : Nat) (e : List Byte) (i : EvInfo) (s : State) :
    (journalRecord c b number e i s).hif = s.hif := by
  unfold journalRecord journalEvent
  dsimp only
  split_ifs <;> rfl

/-- The record of an event that names no graph, where the module's event ring is not in use, leaves every ring. -/
theorem raise_rings_of_unused (hring : s.hif.evRingEn = false) {i : EvInfo} (hgraph : i.graph = none) (c : Src) (b : Nat) :
    (raise c b i s).hif.rings = s.hif.rings := by
  unfold raise raiseFuel raiseWith
  split
  · have hnone : graphRingOf (setBit c b s) i = none := by rw [graphRingOf, hgraph]; rfl
    rw [writeRecord, journalRecord_hif, eventCopies_hif, hnone, eventRings_none]
    · exact setBit_rings c b s
    · exact (setBit_hif_evRingEn c b s).trans hring
  · exact setBit_rings c b s

theorem eventRecord_setBit (c : Src) (b : Nat) (i : EvInfo) (s : State) : eventRecord (setBit c b s) c b i = eventRecord s c b i := by
  obtain ⟨_, _, h⟩ := setBit_frame c b s
  rw [h]
  cases c <;> rfl

/-- An event ring with room, whose memory serves and which owes no gap record, takes an event record. -/
theorem putEvent_of_room {ring : Nat} (htype : (ringOf s ring).type = .event) (hgap : (ringOf s ring).gapFirst = none)
    (hroom : ringTakes s ring 1 = true) (hserves : ringServes s ring = true) (number : Nat) (e : List Byte) (fault : State → State) :
    putEvent ring number e fault s = ringStore ring e s := by
  have hnogap : writeGap ring s = s := by rw [writeGap, hgap]
  have hstate : (ringOf s ring).state = .enabled := by
    rw [ringTakes, Bool.and_eq_true] at hroom
    exact of_decide_eq_true hroom.1
  unfold putEvent
  simp only [hnogap, htype, hstate, hroom, hgap, hserves]
  rfl

/-- The state in which the record of bit `b` of source `c` is written. -/
def recording (c : Src) (b : Nat) (s : State) : State :=
  { setBit c b s with hif := { (setBit c b s).hif with eventNumber := (s.hif.eventNumber + 1) % 2 ^ 64 } }

theorem recording_stored (c : Src) (b : Nat) (s : State) : (recording c b s).stored = s.stored := setBit_stored c b s

theorem ringOf_recording (c : Src) (b : Nat) (s : State) (i : Nat) : ringOf (recording c b s) i = ringOf s i := by
  show (assoc i (setBit c b s).hif.rings).getD {} = (assoc i s.hif.rings).getD {}
  rw [setBit_rings]

theorem ringTakes_recording (c : Src) (b : Nat) (s : State) (i n : Nat) : ringTakes (recording c b s) i n = ringTakes s i n := by
  rw [ringTakes, ringOf_recording, ringTakes]

theorem ringServes_recording (c : Src) (b : Nat) (s : State) (i : Nat) : ringServes (recording c b s) i = ringServes s i := by
  simp only [ringServes, ringOf_recording, serves, placesOf_of_stored (recording_stored c b s)]

/-- The record of an event that names no graph goes to the module's event ring alone. -/
theorem raise_of_evRing {c : Src} {b : Nat} {i : EvInfo} (hen : s.hif.evRingEn = true) (hgraph : i.graph = none)
    (hrecorded : recorded c b ((s.ev.read c).toNat.testBit b) = true) : ∃ fault, raise c b i s
      = journalRecord c b s.hif.eventNumber (eventRecord s c b i) i (eventCopies c (eventRecord s c b i)
        (putEvent s.hif.evRing.toNat s.hif.eventNumber (eventRecord s c b i) fault (recording c b s))) := by
  refine ⟨fun u => raiseFuel 1 .hif 5 { unit := some s.hif.evRing.toNat } u, ?_⟩
  obtain ⟨o, p, h⟩ := setBit_frame c b s
  have hnone : graphRingOf (setBit c b s) i = none := by rw [graphRingOf, hgraph]; rfl
  have hnumber : (setBit c b s).hif.eventNumber = s.hif.eventNumber := by rw [h]
  have hring : (setBit c b s).hif.evRing = s.hif.evRing := by rw [h]
  have huse : (setBit c b s).hif.evRingEn = true := by rw [h]; exact hen
  unfold raise raiseFuel raiseWith
  rw [if_pos hrecorded, writeRecord, hnone, eventRecord_setBit, hnumber, recording]
  simp only [eventRings, huse, hring, ne_eq, reduceCtorEq, not_false_eq_true, and_self, if_true]
  rfl

end Sys2Proof.Machine

namespace Sys2Proof.Proofs

open Sys2Proof.Machine

/-- Settles O31: the entry's bytes are stored one by one from the place PROD names, and PROD passes them. -/
theorem ringEntryStored : Obligations.RingEntryStored := by
  unfold Obligations.RingEntryStored
  intro i e s hwf hlength hquiet r t
  have ht : t = setRing i { r with prod := r.prod + 1 } (storeTask (r.entry r.prod) e s) := by
    show ringStore i e s = _
    rw [ringStore_of_quiet hquiet, fit_of_length hlength]
  have hmem : t.mem = (writeBytes (r.entry r.prod) e s).mem := by rw [ht]; rfl
  have hhost : t.hostMem = (writeBytes (r.entry r.prod) e s).hostMem := by rw [ht]; rfl
  refine ⟨by rw [ht, ringOf_setRing], fun k j hk hplace hlast => ?_, fun j houtside => ?_, fun j houtside => ?_⟩
  · rw [hmem]
    exact get_writeBytes_last hwf (hlength ▸ hk) hplace fun m hkm hm => hlast m hkm (hlength ▸ hm)
  · rw [hmem]
    exact get_writeBytes_outside e hwf fun m hm => houtside m (hlength ▸ hm)
  · rw [hhost]
    exact get_host_writeBytes_outside e hwf fun m hm => houtside m (hlength ▸ hm)

/-- Settles O58: the bit is set first, the record touches no bit but those of rings, and an event that is not recorded only sets its bit. -/
theorem eventFrame : Obligations.EventFrame := by
  unfold Obligations.EventFrame
  intro c b i s hb
  refine ⟨raise_sets hb c i s, fun d k hown hlost hfault => ?other, raise_apart c b i s, fun hedge hset => ?edge, fun hring hgraph => ?unused⟩
  case other =>
    refine raise_leavesBits (P := fun d k => (d, k) = (c, b) ∨ (d, k) = (.hif, 4) ∨ (d, k) = (.hif, 5)) (by simp) (by simp) (by simp) i s d k ?_
    rintro (h | h | h)
    · exact hown h
    · exact hlost h
    · exact hfault h
  case edge =>
    obtain ⟨o, p, hframe⟩ := setBit_frame c b s
    refine ⟨o, p, ?_⟩
    rw [raise_of_unrecorded (by rw [hset]; exact recorded_of_edge hedge), hframe, or_twoPow_of_testBit hset, EventRegs.write_read]
  case unused =>
    have hstored := raise_stored hring hgraph c b
    exact ⟨mem_of_stored hstored, hostMem_of_stored hstored, raise_rings_of_unused hring hgraph c b⟩

/-- Settles O59: the record is put to the module's event ring, which has room and stores it; the copies and the journal leave rings and memory. -/
theorem eventRecorded : Obligations.EventRecorded := by
  unfold Obligations.EventRecorded
  intro c b i s hen hgraph hrecorded n r htype hgap hroom hserves hquiet
  obtain ⟨fault, hraise⟩ := raise_of_evRing hen hgraph hrecorded
  have hring : ringOf (recording c b s) n = r := ringOf_recording c b s n
  rw [putEvent_of_room (hring ▸ htype) (hring ▸ hgap) ((ringTakes_recording ..).trans hroom) ((ringServes_recording ..).trans hserves),
    ringStore_of_quiet (hring ▸ hquiet), hring] at hraise
  refine ⟨?prod, ?mem, ?count⟩
  case prod =>
    rw [hraise, ringOf, journalRecord_hif, eventCopies_hif]
    exact congrArg Ring.prod (ringOf_setRing n { r with prod := r.prod + 1 } _)
  case mem =>
    rw [hraise]
    rw [mem_of_stored (journalRecord_stored ..), mem_of_stored (eventCopies_stored ..), setRing_mem, storeTask_mem]
    exact mem_of_stored (writeBytes_stored_congr (recording_stored c b s) _ _)
  case count =>
    rw [hraise, journalRecord_hif, eventCopies_hif]
    dsimp only [setRing]
    rw [storeTask_hif, recording]

end Sys2Proof.Proofs
end

section
/-! SUPPORT. Accesses that their path bars, registers of rings and windows, the BAR2 aperture, and the bulk port's resets. -/

namespace Sys2Proof.Machine

variable {s : State} {p : Path} {w : Word}

/-! ### What a path bars (R345, R433 to R435, R440) -/

/-- What a gate makes of a write of `w` at `off` over `p`. -/
def gatedWrite (p : Path) (off : Nat) (w : Word) (s : State) : Gate → State
  | .take => performAccess (p, off, some w) s
  | .wait => { s with msc := { s.msc with accesses := s.msc.accesses ++ [(p, off, some w)] } }
  | .unsupported => unsupported s
  | .denied => raise .hif 1 {} s
  | .drop => s

theorem pathWrite_of_gate {off : Nat} {g : Gate} (h : gateOf s p off true = g) (w : Word) : pathWrite p off w s = gatedWrite p off w s g := by
  show access p off (some w) s = _
  have hgate : gateOf s p off (some w).isSome = g := h
  rw [access, hgate]
  cases g <;> rfl

section
variable {be : BitVec 4} {off : Nat}

theorem gateOf_bar0_of_closed (h : s.msc.mode = .off ∨ s.msc.strapPcieOff = true) (write : Bool) : gateOf s (.bar0 be) off write = .drop :=
  if_pos h

/-- Over BAR0, with power, the port in use and not in RECOVERY, a write comes to its block, its bytes, and a reset of its block. -/
theorem gateOf_bar0_write (hmode : s.msc.mode ≠ .off) (hstrap : s.msc.strapPcieOff = false) (hrecovery : s.msc.mode ≠ .recovery) :
    gateOf s (.bar0 be) off true = if off / 0x100000 = 15 then .denied
      else if !reachable s.msc.mode (off / 0x100000) ∨ be ≠ 0xF then .unsupported
      else if blockInReset s (off / 0x100000) then .wait
      else .take := by
  simp [gateOf, hmode, hstrap, hrecovery]

theorem gateOf_bar0_write_of_idle (hmode : s.msc.mode = .idle) (hstrap : s.msc.strapPcieOff = false) :
    gateOf s (.bar0 be) off true = if off / 0x100000 = 15 then .denied
      else if be ≠ 0xF then .unsupported
      else if blockInReset s (off / 0x100000) then .wait
      else .take := by
  rw [gateOf_bar0_write (by rw [hmode]; decide) hstrap (by rw [hmode]; decide), hmode]
  simp [reachable]

end

/-- Outside RECOVERY every register whose path lets a write through takes it, the doorbell of ring 0 with the others. -/
theorem pathWrite_of_opens_of_mode {off : Nat} (w : Word) (h : s.Opens p off true) (hmode : s.msc.mode ≠ .recovery) :
    pathWrite p off w s = writeWord off w s := by
  rw [pathWrite_of_gate h]
  exact if_neg (fun c => hmode c.1)

/-! ### The registers of rings (R334, R353) -/

/-- A write of HIF_RING_CFG. -/
theorem writeWord_ringCfg (ring : BitVec 14) (w : Word) (s : State) :
    writeWord (0xC10000 + 32 * ring.toNat) w s = writeRingCfg ring.toNat w s := by
  have hring := ring.isLt
  have hblock : (0xC10000 + 32 * ring.toNat) / 0x100000 = 12 := by omega
  have hoff : (0xC10000 + 32 * ring.toNat) % 0x100000 = 0x10000 + 32 * ring.toNat := by omega
  have hindex : (0x10000 + 32 * ring.toNat - 0x10000) / 32 = ring.toNat := by omega
  have hreg : (0x10000 + 32 * ring.toNat) % 32 / 4 = 0 := by omega
  have hwrite : writeHif (0x10000 + 32 * ring.toNat) w 0 s = writeRingCfg ring.toNat w s := by
    rw [writeHif, if_pos (by omega), if_pos (by omega), hindex, hreg]
    rfl
  rw [← hwrite]
  simp only [writeWord, writeWordObs, hblock, hoff]

/-- A write of a ring's doorbell. -/
theorem writeWord_doorbell (ring : BitVec 14) (w : Word) (s : State) :
    writeWord (0xCA0000 + 4 * ring.toNat) w s = doorbell ring.toNat w s := by
  have hring := ring.isLt
  have hblock : (0xCA0000 + 4 * ring.toNat) / 0x100000 = 12 := by omega
  have hoff : (0xCA0000 + 4 * ring.toNat) % 0x100000 = 0xA0000 + 4 * ring.toNat := by omega
  have hindex : (0xA0000 + 4 * ring.toNat - 0xA0000) / 4 = ring.toNat := by omega
  have hwrite : writeHif (0xA0000 + 4 * ring.toNat) w 0 s = doorbell ring.toNat w s := by
    rw [writeHif, if_neg (by omega), if_pos (by omega), if_pos (by omega), hindex]
  rw [← hwrite]
  simp only [writeWord, writeWordObs, hblock, hoff]

theorem ringCfg_ne_doorbell (ring : BitVec 14) : 0xC10000 + 32 * ring.toNat ≠ 0xCA0000 := by
  have hring := ring.isLt
  omega

theorem exec_hifRingEnable_of_opens {ring : BitVec 14} (w : Word) (h : s.Opens p (0xC10000 + 32 * ring.toNat) true) :
    exec (.hifRingEnable p ring w) s = .next (writeRingCfg ring.toNat (w ||| 0x80000000) s) :=
  congrArg Host.Outcome.next ((pathWrite_of_opens _ h (ringCfg_ne_doorbell ring)).trans (writeWord_ringCfg ring _ s))

theorem exec_hifRingDisable_of_opens {ring : BitVec 14} (w : Word) (h : s.Opens p (0xC10000 + 32 * ring.toNat) true) :
    exec (.hifRingDisable p ring w) s = .next (writeRingCfg ring.toNat (w &&& 0x7FFFFFFF) s) :=
  congrArg Host.Outcome.next ((pathWrite_of_opens _ h (ringCfg_ne_doorbell ring)).trans (writeWord_ringCfg ring _ s))

theorem exec_hifDoorbell_of_opens {ring : BitVec 14} (w : Word) (h : s.Opens p (0xCA0000 + 4 * ring.toNat) true)
    (hmode : s.msc.mode ≠ .recovery) : exec (.hifDoorbell (.page p) ring w) s = .next (doorbell ring.toNat w s) :=
  congrArg Host.Outcome.next ((pathWrite_of_opens_of_mode w h hmode).trans (writeWord_doorbell ring w s))

theorem bit_enableWord (w : Word) : bit (w ||| 0x80000000) 31 = true := bit_or_of_set (by decide)

theorem bit_disableWord (w : Word) : bit (w &&& 0x7FFFFFFF) 31 = false := by
  rw [bit, BitVec.toNat_and, Nat.testBit_and]
  exact Bool.and_false _

section
variable {i : Nat}

/-- A ring that is enabled, or FAULTED, is not enabled again. -/
theorem writeRingCfg_enable_of_used (hstate : (ringOf s i).state ≠ .disabled) (w : Word) :
    writeRingCfg i (w ||| 0x80000000) s = raise .hif 6 { unit := some i } s := by
  rw [writeRingCfg, bit_enableWord]
  exact (if_pos hstate).trans (if_pos (.inl rfl))

theorem writeRingCfg_disable_of_used (hstate : (ringOf s i).state ≠ .disabled) (w : Word) : writeRingCfg i (w &&& 0x7FFFFFFF) s
    = if ringNamed s i then raise .hif 6 { unit := some i } s else disableRing i s := by
  rw [writeRingCfg, bit_disableWord]
  refine (if_pos hstate).trans ?_
  simp only [Bool.false_eq_true, false_or]
  rfl

theorem setCopyGap_of_empty (h : s.msc.copyGap = []) (i : Nat) :
    ({ s with msc := { s.msc with copyGap := s.msc.copyGap.filter (fun c => c.1 ≠ i) } } : State) = s := by
  rw [h, List.filter_nil, ← h]

/-- A disabled ring whose type, size, place and link pass is set up. -/
theorem writeRingCfg_enable_of_allowed {t : RingType} (hstate : (ringOf s i).state = .disabled) (htype : ringTypeOf (bits w 30 28) = some t)
    (hsize : 3 ≤ bits w 27 24) (hplace : (ringOf s i).base < regBase ∨ regEnd ≤ (ringOf s i).base)
    (hallowed : enableAllowed s i { ringOf s i with type := t, size := BitVec.ofNat 4 (bits w 27 24) } = true) (hgap : s.msc.copyGap = []) :
    writeRingCfg i (w ||| 0x80000000) s
      = setRing i (ringSetUp { ringOf s i with type := t, size := BitVec.ofNat 4 (bits w 27 24) }) s := by
  have hcode : bits (w ||| 0x80000000) 30 28 = bits w 30 28 := bits_or_of_clear (by decide)
  have hwidth : bits (w ||| 0x80000000) 27 24 = bits w 27 24 := bits_or_of_clear (by decide)
  have hbase (q : Ring) (hq : q.base = (ringOf s i).base) : ¬ (regBase ≤ q.base ∧ q.base < regEnd) := by rw [hq]; omega
  rw [writeRingCfg, bit_enableWord, hcode, hwidth, htype]
  refine (if_neg (not_not.2 hstate)).trans ((if_neg (Nat.not_lt.2 hsize)).trans ((if_neg (by decide)).trans ?_))
  refine (if_neg (hbase _ rfl)).trans ((if_pos hallowed).trans ?_)
  simp only [hgap, List.any_nil, Bool.and_false]
  exact setCopyGap_of_empty (s := setRing i _ s) hgap i

section
variable (hstate : (ringOf s i).state = .enabled)
include hstate

theorem doorbell_of_hostProduced (htype : hostProduced (ringOf s i).type = true) (v : Word) : doorbell i v s
    = if (ringOf s i).capacity < (v - (ringOf s i).cons).toNat ∨ (ringOf s i).capacity < (v - (ringOf s i).prod).toNat
      then raise .hif 5 { unit := some i } (setRing i { ringOf s i with state := .faulted, cause := 1 } s)
      else setRing i { ringOf s i with prod := v } s :=
  (if_neg (not_not.2 hstate)).trans (if_pos htype)

theorem doorbell_of_moduleProduced (htype : hostProduced (ringOf s i).type = false) (v : Word) : doorbell i v s
    = if (ringOf s i).used < (v - (ringOf s i).cons).toNat
      then raise .hif 5 { unit := some i } (setRing i { ringOf s i with state := .faulted, cause := 2 } s)
      else setRing i { ringOf s i with cons := v } s :=
  (if_neg (not_not.2 hstate)).trans (if_neg (by rw [htype]; decide))

end

/-! ### Room that returns, moderation and masks (R336, R341, R444) -/

section
variable {ring : BitVec 14} (hstate : (ringOf s ring.toNat).state = .enabled) (hroom : (ringOf s ring.toNat).room ≠ 0)
include hstate hroom

theorem exec_ringRoomReturn_of_event (htype : (ringOf s ring.toNat).type = .event) :
    exec (.ringRoomReturn ring) s = .next (writeGap ring.toNat s) := by
  refine (if_neg (by simp [hstate, hroom])).trans ?_
  rw [htype]

theorem exec_ringRoomReturn_of_ledger (htype : (ringOf s ring.toNat).type = .ledger) :
    exec (.ringRoomReturn ring) s = .next (writeSignatures ring.toNat (ringOf s ring.toNat).sigWait.length s) := by
  refine (if_neg (by simp [hstate, hroom])).trans ?_
  rw [htype]

end

theorem writeGap_of_room {first : Nat} (hstate : (ringOf s i).state = .enabled) (hroom : (ringOf s i).room ≠ 0)
    (htype : (ringOf s i).type = .event) (hgap : (ringOf s i).gapFirst = some first) (hserves : ringServes s i = true) : writeGap i s
      = ringStore i ([0x32, 0, 0, 0] ++ le 8 first ++ le 8 (now s) ++ zeros 24 ++ le 4 (ringOf s i).gapCount)
        (setRing i { ringOf s i with gapFirst := none, gapCount := 0 } s) := by
  have htakes : ringTakes s i 1 = true := by
    simp only [ringTakes, hstate, decide_true, Bool.true_and, decide_eq_true_eq]
    omega
  rw [writeGap, hgap]
  exact if_pos ⟨htype, htakes, hserves⟩

end

/-- A vector's mask bit, taken away, is clear. -/
theorem testBit_unmasked (m : DWord) (v : BitVec 6) : (m &&& ~~~BitVec.ofNat 64 (2 ^ v.toNat)).toNat.testBit v.toNat = false := by
  have hv := v.isLt
  rw [BitVec.testBit_toNat, BitVec.getLsbD_and, BitVec.getLsbD_not, BitVec.getLsbD_ofNat, Nat.testBit_two_pow_self]
  simp [hv]

theorem sendVector_of_unmasked {v : Nat} (hmask : s.hif.msixMask.toNat.testBit v = false) (hstrap : s.msc.strapPcieOff = false) :
    sendVector v s = emit (.msix v) s := by
  rw [sendVector, hmask, hstrap]
  rfl

/-! ### Host windows and the aperture (R345, R346) -/

/-- A write of a window's register. -/
theorem writeWord_window (win : BitVec 6) (reg : Fin 3) (w : Word) (s : State) :
    writeWord (0xC00400 + 16 * win.toNat + 4 * reg.val) w s = writeWindow win.toNat reg.val w s := by
  have hwin := win.isLt
  have hreg := reg.isLt
  have hblock : (0xC00400 + 16 * win.toNat + 4 * reg.val) / 0x100000 = 12 := by omega
  have hoff : (0xC00400 + 16 * win.toNat + 4 * reg.val) % 0x100000 = 0x400 + 16 * win.toNat + 4 * reg.val := by omega
  have hindex : (0x400 + 16 * win.toNat + 4 * reg.val - 0x400) / 16 = win.toNat := by omega
  have hfield : (0x400 + 16 * win.toNat + 4 * reg.val) % 16 / 4 = reg.val := by omega
  have hmapped : 0x400 ≤ 0x400 + 16 * win.toNat + 4 * reg.val ∧ 0x400 + 16 * win.toNat + 4 * reg.val < 0x800
      ∧ (0x400 + 16 * win.toNat + 4 * reg.val) % 4 = 0 ∧ (0x400 + 16 * win.toNat + 4 * reg.val) % 16 < 12 := by omega
  have hgate : indexOf 0x0200 4 64 (0x400 + 16 * win.toNat + 4 * reg.val) = none := indexOf_outside (by omega)
  have haper : indexOf 0x0300 4 16 (0x400 + 16 * win.toNat + 4 * reg.val) = none := indexOf_outside (by omega)
  have hen : indexOf 0x0880 4 17 (0x400 + 16 * win.toNat + 4 * reg.val) = none := indexOf_outside (by omega)
  have hvec : indexOf 0x0900 4 17 (0x400 + 16 * win.toNat + 4 * reg.val) = none := indexOf_outside (by omega)
  have hwrite : writeHif (0x400 + 16 * win.toNat + 4 * reg.val) w 0 s = writeWindow win.toNat reg.val w s := by
    unfold writeHif
    simp (disch := omega) only [hgate, haper, hen, hvec, if_neg]
    rw [if_pos hmapped, hindex, hfield]
  rw [← hwrite]
  simp only [writeWord, writeWordObs, hblock, hoff]

theorem exec_hifWindowWrite_of_opens {win : BitVec 6} {reg : Fin 3} (w : Word) (h : s.Opens p (0xC00400 + 16 * win.toNat + 4 * reg.val) true) :
    exec (.hifWindowWrite p win reg w) s = .next (writeWindow win.toNat reg.val w s) := by
  have hwin := win.isLt
  have hreg := reg.isLt
  have hoff : 0xC00400 + 16 * win.toNat + 4 * reg.val ≠ 0xCA0000 := by omega
  exact congrArg Host.Outcome.next ((pathWrite_of_opens w h hoff).trans (writeWord_window win reg w s))

theorem writeWindow_of_used {n : Nat} (h : windowUsed s n = true) (k : Nat) (w : Word) : writeWindow n k w s = raise .hif 6 {} s := if_pos h

/-- A window that nothing uses takes a size that is listed, with its enables. -/
theorem writeWindow_config_of_free {n : Nat} (h : windowUsed s n = false) (hmin : 12 ≤ bits w 5 0) (hmax : bits w 5 0 ≤ 40) :
    writeWindow n 0 w s = { s with hif := { s.hif with wins := update s.hif.wins n (fun x =>
      { x with en := bit w 31, read := bit w 30, write := bit w 29, size := BitVec.ofNat 6 (bits w 5 0) }) } } :=
  (if_neg (by rw [h]; decide)).trans (if_neg (by omega))

theorem writeWindow_hostLo_of_free {n : Nat} (h : windowUsed s n = false) (halign : bits w 11 0 = 0) :
    writeWindow n 1 w s = { s with hif := { s.hif with wins := update s.hif.wins n (fun x => { x with hostLo := w }) } } :=
  (if_neg (by rw [h]; decide)).trans (if_pos halign)

theorem writeWindow_hostHi_of_free {n : Nat} (h : windowUsed s n = false) :
    writeWindow n 2 w s = { s with hif := { s.hif with wins := update s.hif.wins n (fun x => { x with hostHi := w }) } } :=
  if_neg (by rw [h]; decide)

section
variable {off : BitVec 34} (hopen : apertureOpen s = true)
include hopen

theorem exec_apertureRead_of_unmapped (haddr : apertureAddr s off.toNat = none) (len : Nat) :
    exec (.apertureRead off len) s = .next (unsupported s) := by
  refine (if_neg (by rw [hopen]; decide)).trans ?_
  rw [haddr]

theorem exec_apertureRead_of_barred {a len : Nat} (haddr : apertureAddr s off.toNat = some a)
    (hbars : touches s a len false apertureBars = true) : exec (.apertureRead off len) s = .next (unsupported s) := by
  refine (if_neg (by rw [hopen]; decide)).trans ?_
  rw [haddr]
  exact if_pos hbars

theorem exec_apertureRead_of_serves {a len : Nat} (haddr : apertureAddr s off.toNat = some a)
    (hbars : touches s a len false apertureBars = false) (hfails : touches s a len false (fun q => q == .failing) = false) :
    exec (.apertureRead off len) s = .next (emit (.data (readBytes s a len)) s) := by
  refine (if_neg (by rw [hopen]; decide)).trans ?_
  rw [haddr]
  exact (if_neg (by rw [hbars]; decide)).trans (if_neg (by rw [hfails]; decide))

theorem exec_apertureWrite_of_serves {data : List Byte} {a : Nat} (haddr : apertureAddr s off.toNat = some a)
    (hbars : touches s a data.length true apertureBars = false) (hfails : touches s a data.length true (fun q => q == .failing) = false) :
    exec (.apertureWrite off data) s = .next (writeBytes a data s) := by
  refine (if_neg (by rw [hopen]; decide)).trans ?_
  rw [haddr]
  exact (if_neg (by rw [hbars]; decide)).trans (if_neg (by rw [hfails]; decide))

end

/-! ### The PCI Express link and its resets (R343, R394, R400) -/

/-- With no reset under way the port's own resets begin a function reset. -/
theorem portReset_of_rest (hmode : s.msc.mode ≠ .off) (hstrap : s.msc.strapPcieOff = false) (hrest : s.msc.resetting = none) (source : Nat) :
    portReset source s = let t := endWindowTasks (resetFunction (abandonStep (endUpdate s)))
      { t with msc := { t.msc with resetting := some (.reset .function source) } } := by
  rw [portReset, if_neg (by simp [hmode, hstrap]), hrest]
  rfl

theorem portReset_of_strapped (h : s.msc.strapPcieOff = true) (source : Nat) : portReset source s = s := if_pos (.inr h)

end Sys2Proof.Machine

namespace Sys2Proof.Proofs

open Sys2Proof.Machine

/-- Settles O27: the gate of the path bars the write, and what it bars comes to what the gate says. -/
theorem barredAccesses : Obligations.BarredAccesses := by
  unfold Obligations.BarredAccesses
  intro be off w s o b
  have hexec {g : Gate} (hgate : gateOf s (.bar0 be) o true = g) :
      exec (.plainRegisterWrite (.bar0 be) off w) s = .next (gatedWrite (.bar0 be) o w s g) := congrArg _ (pathWrite_of_gate hgate w)
  refine ⟨fun hclosed => ?closed, fun hmode hstrap hb => ?denied, fun hmode hstrap hb hbytes => ?part, fun hmode hstrap hb => ?standby,
    fun hmode hstrap hb hbytes hreset => ?wait, fun hmode hstrap => ?timeout⟩
  case closed => exact hexec (gateOf_bar0_of_closed hclosed true)
  case denied => exact hexec ((gateOf_bar0_write_of_idle hmode hstrap).trans (if_pos hb))
  case part => exact hexec ((gateOf_bar0_write_of_idle hmode hstrap).trans ((if_neg hb).trans (if_pos hbytes)))
  case standby =>
    have hblock : o / 0x100000 < 8 := hb
    have hfar : ¬ reachable s.msc.mode (o / 0x100000) = true := by
      rw [hmode]
      simp [reachable, Nat.not_le.2 hblock]
    have hgate : gateOf s (.bar0 be) o true = .unsupported := by
      rw [gateOf_bar0_write (by rw [hmode]; decide) hstrap (by rw [hmode]; decide), if_neg (by omega), if_pos]
      exact .inl (by simpa using hfar)
    exact hexec hgate
  case wait =>
    refine hexec ((gateOf_bar0_write_of_idle hmode hstrap).trans ((if_neg hb).trans ((if_neg (not_not.2 hbytes)).trans (if_pos hreset))))
  case timeout => exact if_neg (by simp [hmode, hstrap])

/-- Settles O29: a ring's configuration and its doorbell meet the ring as it stands. -/
theorem rings : Obligations.Rings := by
  unfold Obligations.Rings
  intro p ring w s i r
  refine ⟨fun t h hstate htype hsize hplace hallowed hgap => ?enable, fun h hstate => ?again, fun h hstate => ?disable,
    fun h hmode hstate htype => ?produced, fun h hmode hstate htype => ?consumed⟩
  case enable => rw [exec_hifRingEnable_of_opens w h, writeRingCfg_enable_of_allowed hstate htype hsize hplace hallowed hgap]; rfl
  case again => rw [exec_hifRingEnable_of_opens w h, writeRingCfg_enable_of_used hstate]
  case disable => rw [exec_hifRingDisable_of_opens w h, writeRingCfg_disable_of_used hstate]
  case produced => rw [exec_hifDoorbell_of_opens w h hmode, doorbell_of_hostProduced hstate htype]
  case consumed => exact (exec_hifDoorbell_of_opens w h hmode).trans (congrArg _ (doorbell_of_moduleProduced hstate htype w))

/-- Settles O30: what waited for a ring's room, its moderation time or its vector's mask goes on. -/
theorem ringEvents : Obligations.RingEvents := by
  unfold Obligations.RingEvents
  intro ring s i r
  refine ⟨fun first hstate hroom htype hgap hserves => ?gap, fun hstate hroom htype => ?ledger, fun hen hwaits => ?moderation,
    fun v hpending hstrap => ?sent, fun v hpending => ?quiet⟩
  case gap =>
    rw [exec_ringRoomReturn_of_event hstate hroom htype, writeGap_of_room hstate hroom htype hgap hserves]
  case ledger => exact exec_ringRoomReturn_of_ledger hstate hroom htype
  case moderation => exact if_pos ⟨hen, hwaits⟩
  case sent => exact (if_pos hpending).trans (congrArg _ (sendVector_of_unmasked (testBit_unmasked _ v) hstrap))
  case quiet => exact if_neg (by rw [hpending]; decide)

/-- Settles O32: a window's register meets its use, and an access of the aperture the place it names. -/
theorem windowsAndAperture : Obligations.WindowsAndAperture := by
  unfold Obligations.WindowsAndAperture
  intro s
  refine ⟨fun p win w => ?windows, fun off hopen => ?aperture⟩
  case windows =>
    intro n
    refine ⟨fun h hfree hmin hmax => ?_, fun h hfree halign => ?_, fun h hfree => ?_, fun h hused => ?_⟩
    · exact (exec_hifWindowWrite_of_opens (reg := 0) w h).trans (congrArg _ (writeWindow_config_of_free hfree hmin hmax))
    · exact (exec_hifWindowWrite_of_opens (reg := 1) w h).trans (congrArg _ (writeWindow_hostLo_of_free hfree halign))
    · exact (exec_hifWindowWrite_of_opens (reg := 2) w h).trans (congrArg _ (writeWindow_hostHi_of_free hfree))
    · exact (exec_hifWindowWrite_of_opens (reg := 0) w h).trans (congrArg _ (writeWindow_of_used hused 0 w))
  case aperture =>
    exact ⟨fun len a => exec_apertureRead_of_serves hopen, fun data a => exec_apertureWrite_of_serves hopen,
      fun len haddr => exec_apertureRead_of_unmapped hopen haddr len, fun len a => exec_apertureRead_of_barred hopen⟩

/-- Settles O35: the link's row shows its state and sends what waited, and each of the port's resets begins a function reset. -/
theorem bulkPort : Obligations.BulkPort := by
  unfold Obligations.BulkPort
  intro s
  refine ⟨fun speed width mps hstrap hmode hmin hmax hwidth hmps => ?up, rfl, ?resets, fun hstrap => ?strapped⟩
  case up =>
    have hlisted : [1, 2, 4, 8].contains width.toNat = true := by simpa using hwidth
    exact if_neg (by simp only [hstrap, hmode, hmin, hmax, hlisted, Nat.not_lt.2 hmps]; decide)
  case resets =>
    intro hmode hstrap hrest reset
    have hbegins (source : Nat) : portReset source s = reset source := portReset_of_rest hmode hstrap hrest source
    exact ⟨congrArg _ (hbegins 4), congrArg _ (hbegins 4), congrArg _ (hbegins 3)⟩
  case strapped =>
    have hrests (source : Nat) : portReset source s = s := portReset_of_strapped hstrap source
    exact ⟨congrArg _ (hrests 4), congrArg _ (hrests 3), congrArg _ (hrests 4)⟩

end Sys2Proof.Proofs
end

section
/-! SUPPORT. Guarded settings, the level in force as settings and telemetry move it, and what an event leaves of it. -/

namespace Sys2Proof.Machine

variable {s t : State} {p : Path} {w : Word}

/-! ### The level in force (R359 to R363) -/

/-- The level in force hangs on the thermal and power state alone. -/
theorem levelInForce_of_tps (h : t.tps = s.tps) : levelInForce t = levelInForce s := by
  unfold levelInForce thermalLevel domainAt
  rw [h]

theorem levelInForce_raise (c : Src) (b : Nat) (i : EvInfo) (s : State) : levelInForce (raise c b i s) = levelInForce s :=
  levelInForce_of_tps (raise_tps c b i s)

/-- k and the time of its last step decide nothing of the level in force. -/
theorem levelInForce_setK (k stepAt : Nat) (s : State) :
    levelInForce { s with tps := { s.tps with k := k, stepAt := stepAt } } = levelInForce s := rfl

theorem floor_le_levelInForce (s : State) : s.tps.floor.toNat ≤ levelInForce s := le_max_right _ _

theorem levelChange_of_rise {old : Nat} (h : old < levelInForce s) : levelChange old s
    = raise .tps 0 {} { s with tps := { s.tps with k := levelK (levelInForce s), stepAt := now s } } := if_pos h

theorem levelChange_of_fall {old : Nat} (h : levelInForce s < old) : levelChange old s
    = raise .tps 1 {} { s with tps := { s.tps with stepAt := if s.tps.k ≤ levelK old then now s else s.tps.stepAt } } :=
  (if_neg (Nat.not_lt.2 (Nat.le_of_lt h))).trans (if_pos h)

/-- A change of level touches k and the time of its last step, and raises an event. -/
theorem levelChange_tps (old : Nat) (s : State) : ∃ k at', (levelChange old s).tps = { s.tps with k := k, stepAt := at' } := by
  unfold levelChange
  dsimp only
  split
  · exact ⟨_, _, raise_tps ..⟩
  · split
    · exact ⟨_, _, raise_tps ..⟩
    · exact ⟨_, _, rfl⟩

/-! ### The floor (R363) -/

/-- The state with the floor set. -/
def floored (f : Nat) (s : State) : State := { s with tps := { s.tps with floor := BitVec.ofNat 2 f } }

theorem levelInForce_floored {f : Nat} (h : f < 4) (s : State) :
    levelInForce (floored f s) = max (max (thermalLevel s).1 s.tps.lp) f := by
  have hfloor : (BitVec.ofNat 2 f).toNat = f := by
    rw [BitVec.toNat_ofNat]
    omega
  show max (max (thermalLevel s).1 s.tps.lp) (BitVec.ofNat 2 f).toNat = _
  rw [hfloor]

theorem levelInForce_floored_of_above {f : Nat} (hf : f < 4) (h : levelInForce s < f) : levelInForce (floored f s) = f := by
  rw [levelInForce_floored hf]
  have hrest : max (thermalLevel s).1 s.tps.lp ≤ levelInForce s := le_max_left _ _
  omega

theorem writeTpsCtrl_of_floor (hclear : bit w 31 = false) (s : State) :
    writeTpsCtrl w s = levelChange (levelInForce s) (floored (bits w 1 0) s) := by
  rw [writeTpsCtrl, hclear]
  rfl

theorem exec_tpsFloorWrite_of_opens (h : s.Opens p 0xE00004 true) (hclear : bit w 31 = false) :
    exec (.tpsFloorWrite p w) s = .next (levelChange (levelInForce s) (floored (bits w 1 0) s)) :=
  congrArg Host.Outcome.next ((pathWrite_of_opens w h (by decide)).trans (writeTpsCtrl_of_floor hclear s))

theorem bits_floor_lt (w : Word) : bits w 1 0 < 4 := Nat.mod_lt _ (by decide)

/-! ### Settings that resident graphs guard (R181, R193, R246) -/

theorem writeEpochLen_of_listed (hmin : 5 ≤ bits w 7 0) (hmax : bits w 7 0 ≤ 200) (s : State) : writeEpochLen w s
    = if s.seq.graphs = [] then
        { s with tsl := { s.tsl with lenNext := BitVec.ofNat 8 (bits w 7 0)
                                     lenAt := (now s / (bits w 7 0 * 50000) + 1) * (bits w 7 0 * 50000) } }
      else raise .tsl 0 {} s := by
  refine (if_neg (by omega)).trans ?_
  cases s.seq.graphs <;> rfl

/-- A write of a stream lane's register. -/
theorem writeWord_lane (lane : Fin 48) (reg : Fin 7) (w : Word) (s : State) :
    writeWord (0x801000 + 32 * lane.val + 4 * reg.val) w s = writeLane lane.val reg.val w s := by
  have hlane := lane.isLt
  have hreg := reg.isLt
  have hblock : (0x801000 + 32 * lane.val + 4 * reg.val) / 0x100000 = 8 := by omega
  have hoff : (0x801000 + 32 * lane.val + 4 * reg.val) % 0x100000 = 0x1000 + 32 * lane.val + 4 * reg.val := by omega
  have hindex : (0x1000 + 32 * lane.val + 4 * reg.val - 0x1000) / 32 = lane.val := by omega
  have hfield : (0x1000 + 32 * lane.val + 4 * reg.val) % 32 / 4 = reg.val := by omega
  have hwrite : writeTsl (0x1000 + 32 * lane.val + 4 * reg.val) w 0 s = writeLane lane.val reg.val w s := by
    rw [writeTsl, if_neg (by omega), if_neg (by omega), if_pos (by omega), hindex, hfield]
  rw [← hwrite]
  simp only [writeWord, writeWordObs, hblock, hoff]

theorem exec_tslLaneWrite_of_opens {lane : Fin 48} {reg : Fin 7} {t : State} (h : s.Opens p (0x801000 + 32 * lane.val + 4 * reg.val) true)
    (hwrite : writeLane lane.val reg.val w s = t) : exec (.tslLaneWrite p lane reg w) s = .next t := by
  have hlane := lane.isLt
  have hreg := reg.isLt
  have hoff : 0x801000 + 32 * lane.val + 4 * reg.val ≠ 0xCA0000 := by omega
  exact congrArg Host.Outcome.next ((pathWrite_of_opens w h hoff).trans ((writeWord_lane lane reg w s).trans hwrite))

theorem writeLane_units (n : Nat) (w : Word) (s : State) : writeLane n 3 w s
    = if laneBound s n = true then raise .tsl 4 {} s else modLane n (fun l => { l with units := BitVec.ofNat 16 (bits w 15 0) }) s :=
  (if_neg (by decide)).trans (if_neg (fun h => absurd h.1 (by decide)))

/-- A lane without units is not enabled. -/
theorem writeLane_config_of_empty {n : Nat} (hunits : (laneAt s n).units = 0) (hen : bit w 31 = true) :
    writeLane n 0 w s = raise .tsl (invalidBit .tsl) {} s :=
  (if_neg (by decide)).trans (if_pos ⟨rfl, hen, hunits⟩)

theorem writeLane_config_of_free {n : Nat} (hfree : laneBound s n = false) (hunits : (laneAt s n).units ≠ 0) : writeLane n 0 w s
    = modLane n (fun l => { l with en := bit w 31, dir := bit w 30, dropLate := bit w 29, priority := BitVec.ofNat 3 (bits w 28 26)
                                   unitBytes := BitVec.ofNat 24 (bits w 23 0) }) s :=
  (if_neg (by decide)).trans ((if_neg (fun h => hunits h.2.2)).trans (if_neg (by rw [hfree]; decide)))

theorem writeRest_switch_of_valid (hvalid : switchValid (BitVec.ofNat 12 (bits w 11 0)) = true) (s : State) : writeRest 0 w s
    = if groupBusy s then raise .ole 8 {} s
      else restWritten { s with ole := { s.ole with restSwitch := BitVec.ofNat 12 (bits w 11 0) } } :=
  (if_pos rfl).trans (if_neg (by rw [hvalid]; decide))

/-! ### Power telemetry (R373, R379 to R382) -/

/-- An entry into or out of the input's range changes its two flags. -/
theorem inputRange_tps (v : Nat) (s : State) :
    (inputRange v s).tps = { s.tps with inputLow := decide (v < 4000), inputHigh := decide (6000 < v) } := by
  unfold inputRange
  dsimp only
  split_ifs <;> simp only [raise_tps]

/-- What the power figure does to an excursion leaves the figures and the averages. -/
theorem excursionRule_tps (s : State) : ∃ e a n c k m, (excursionRule s).tps
    = { s.tps with excursion := e, excAt := a, excSteps := n, excCount := c, pkExc := k, calmAt := m } := by
  unfold excursionRule
  split_ifs
  · exact ⟨_, _, _, _, _, _, rfl⟩
  · exact ⟨_, _, _, _, _, _, raise_tps ..⟩
  · exact ⟨_, _, _, _, _, _, rfl⟩
  · exact ⟨_, _, _, _, _, _, rfl⟩

/-- A rise of the power level touches that level, k and the time of its last step. -/
theorem raiseLp_tps (s : State) : ∃ l k a, (raiseLp s).tps = { s.tps with lp := l, k := k, stepAt := a } := by
  unfold raiseLp
  split
  · exact ⟨_, _, _, rfl⟩
  · obtain ⟨k, a, h⟩ := levelChange_tps (levelInForce s) (raise .tps 9 {} { s with tps := { s.tps with lp := s.tps.lp + 1 } })
    rw [raise_tps] at h
    exact ⟨_, k, a, h⟩

/-- A sample's own fields, as the sample leaves them. -/
def sampled (v i : Nat) (s : State) : State :=
  let powers := (v * i :: s.tps.powers).take 10
  let p := sat 0xFFFF (powers.sum / (10000 * powers.length))
  { s with tps := { s.tps with
    inV := v, inI := i, isoOk := true, msPower := (s.tps.msPower.1 + v * i, s.tps.msPower.2 + 1), currents := (i :: s.tps.currents).take 100
    powers := powers, p100 := p, pkP100 := max s.tps.pkP100 p
    overAt := if 1150 < p then some (s.tps.overAt.getD (now s)) else none } }

/-- The input's fields and the averages of `t` are those of `u`. -/
def SameAverages (t u : State) : Prop := t.tps.inV = u.tps.inV ∧ t.tps.inI = u.tps.inI ∧ t.tps.isoOk = u.tps.isoOk
  ∧ t.tps.currents = u.tps.currents ∧ t.tps.powers = u.tps.powers ∧ t.tps.p100 = u.tps.p100

theorem sameAverages_excursionRule (v : Nat) (u : State) : SameAverages (excursionRule (inputRange v u)) u := by
  obtain ⟨_, _, _, _, _, _, h⟩ := excursionRule_tps (inputRange v u)
  rw [inputRange_tps] at h
  unfold SameAverages
  rw [h]
  exact ⟨rfl, rfl, rfl, rfl, rfl, rfl⟩

theorem SameAverages.raiseLp {t u : State} (h : SameAverages t u) : SameAverages (raiseLp t) u := by
  obtain ⟨_, _, _, htps⟩ := raiseLp_tps t
  unfold SameAverages at h ⊢
  rw [htps]
  exact h

/-- A sample in range goes into the averages. -/
theorem exec_telemetrySample_averages {v i : Nat} (hmode : s.msc.mode ≠ .off) (hv : v < 65536) (hi : i < 65536) :
    ∃ t, exec (.telemetrySample v i) s = .next t ∧ SameAverages t (sampled v i s) := by
  have htaken : ¬ (s.msc.mode = .off ∨ 65536 ≤ v ∨ 65536 ≤ i) := by
    simp only [hmode, false_or]
    omega
  have hkept := sameAverages_excursionRule v (sampled v i s)
  by_cases hfast : 1100 < (sampled v i s).tps.p100 ∧ since (excursionRule (inputRange v (sampled v i s)))
      (excursionRule (inputRange v (sampled v i s))).tps.fastAt 100000 = true
  · exact ⟨_, (if_neg htaken).trans (if_pos hfast), SameAverages.raiseLp hkept⟩
  · exact ⟨_, (if_neg htaken).trans (if_neg hfast), hkept⟩

/-- The state with the ms that ends in P1s, as `p` and the mean of the last second give it. -/
theorem exec_p1sUpdate_of_running (hmode : s.msc.mode ≠ .off) (x : Nat) : exec (.p1sUpdate x) s
    = let p := figureP1s x (meanPower (lastSecond s))
      let u := { s with tps := { s.tps with msPower := (0, 0), secPower := lastSecond s, p1s := sat 0xFFFF p } }
      if 985 < p then
        if since s s.tps.sustAt 50000000 then .next (raiseLp { u with tps := { u.tps with sustAt := some (now s) } }) else .next u
      else if p ≤ 940 ∧ ¬ s.tps.excursion ∧ s.tps.calmAt + 100000000 ≤ now s ∧ since s s.tps.fallAt 100000000
          ∧ ¬ s.tps.isoLost ∧ 0 < s.tps.lp then
        .next (withLevel (fun s => raise .tps 10 {} { s with tps := { s.tps with lp := s.tps.lp - 1, fallAt := some (now s) } }) u)
      else .next u := if_neg hmode

/-- Telemetry marked as lost. -/
def untelemetered (s : State) : State := { s with tps := { s.tps with isoOk := false, isoLost := true } }

/-- The power level held at 3, where it is not. -/
def heldLp (s : State) : State :=
  if s.tps.lp = 3 then s else withLevel (fun s => raise .tps 9 {} { s with tps := { s.tps with lp := 3 } }) s

theorem heldLp_tps (s : State) : ∃ k a, (heldLp s).tps = { s.tps with lp := 3, k := k, stepAt := a } := by
  unfold heldLp
  split
  next h => exact ⟨s.tps.k, s.tps.stepAt, by rw [← h]⟩
  next =>
    obtain ⟨k, a, h⟩ := levelChange_tps (levelInForce s) (raise .tps 9 {} { s with tps := { s.tps with lp := 3 } })
    rw [raise_tps] at h
    exact ⟨k, a, h⟩

theorem exec_telemetryLoss_of_running (hmode : s.msc.mode ≠ .off) :
    exec .telemetryLoss s = .next (raise .tps 11 {} (heldLp (untelemetered s))) := if_neg hmode

/-- Loss of telemetry holds the power level at 3, and is reported. -/
theorem exec_telemetryLoss_holds (hmode : s.msc.mode ≠ .off) : ∃ t, exec .telemetryLoss s = .next t ∧ t.tps.isoOk = false
    ∧ t.tps.isoLost = true ∧ t.tps.lp = 3 ∧ t.ev.tps.toNat.testBit 11 = true := by
  obtain ⟨k, a, h⟩ := heldLp_tps (untelemetered s)
  refine ⟨_, exec_telemetryLoss_of_running hmode, ?_, ?_, ?_, raise_sets (by decide) .tps {} _⟩ <;> rw [raise_tps, h] <;> rfl

theorem exec_energyLimitShutdown_of_excursion (hexc : s.tps.excursion = true) (hlp : s.tps.lp = 3) (hover : s.tps.overAt = none) :
    exec .energyLimitShutdown s = .next (inputInterruption 5 0xFF (advanceTo (s.tps.excAt + 20000000) s)) := by
  refine (if_pos ⟨hexc, hlp⟩).trans ?_
  rw [hover]

end Sys2Proof.Machine

namespace Sys2Proof.Proofs

open Sys2Proof.Machine

/-- Settles O24: each setting meets its guard, and a new floor moves the level in force as `levelChange` says. -/
theorem settingWrites : Obligations.SettingWrites := by
  unfold Obligations.SettingWrites
  intro p w s
  have hopens {off : Nat} {t : State} (h : s.Opens p off true) (hoff : off ≠ 0xCA0000) (hwrite : writeWord off w s = t) :
      Host.Outcome.next (pathWrite p off w s) = (.next t : Out) := congrArg _ ((pathWrite_of_opens w h hoff).trans hwrite)
  refine ⟨fun h hmin hmax => ?epoch, fun lane h => ?units, fun lane h hunits hen => ?empty, fun lane h hfree hunits => ?lane,
    fun h hvalid => ?rest, fun h hclear => ?floor, fun h hclear habove => ?rise, ?fall, floor_le_levelInForce s⟩
  case epoch => exact hopens h (by decide) (writeEpochLen_of_listed hmin hmax s)
  case units => exact exec_tslLaneWrite_of_opens (reg := 3) h (writeLane_units lane.val w s)
  case empty => exact exec_tslLaneWrite_of_opens (reg := 0) h (writeLane_config_of_empty hunits hen)
  case lane => exact exec_tslLaneWrite_of_opens (reg := 0) h (writeLane_config_of_free hfree hunits)
  case rest => exact hopens h (by decide) (writeRest_switch_of_valid hvalid s)
  case floor => exact exec_tpsFloorWrite_of_opens h hclear
  case rise =>
    have hlevel := levelInForce_floored_of_above (bits_floor_lt w) habove
    have hrise : levelInForce s < levelInForce (floored (bits w 1 0) s) := by rw [hlevel]; exact habove
    refine ⟨_, (exec_tpsFloorWrite_of_opens h hclear).trans (congrArg _ (levelChange_of_rise hrise)), ?_, ?_, ?_, ?_, ?_⟩
    · rw [levelInForce_raise, levelInForce_setK, hlevel]
    · rw [raise_tps, hlevel]
    · exact raise_sets (by decide) .tps {} _
    · exact raise_stalls ..
    · exact raise_seq ..
  case fall =>
    intro lowered h hclear hbelow
    refine ⟨_, (exec_tpsFloorWrite_of_opens h hclear).trans (congrArg _ (levelChange_of_fall hbelow)), ?_, ?_, ?_⟩
    · exact levelInForce_raise ..
    · rw [raise_tps]
      rfl
    · exact raise_sets (by decide) .tps {} _

/-- Settles O53: a sample, the ms that ends, an excursion and the loss of telemetry each do what their rules say. -/
theorem powerTelemetry : Obligations.PowerTelemetry := by
  unfold Obligations.PowerTelemetry
  intro s hmode
  refine ⟨fun v i hv hi => ?sample, ?p1s, fun h => if_pos h, fun hexc hlp hover => ?shutdown, exec_telemetryLoss_holds hmode,
    if_neg hmode, if_neg hmode, fun cap ext => ?supercap⟩
  case sample =>
    obtain ⟨t, hexec, hv, hi, hiso, hcurrents, hpowers, hp100⟩ := exec_telemetrySample_averages hmode hv hi
    exact ⟨t, hexec, hv, hi, hiso, hcurrents, hpowers, hp100⟩
  case p1s =>
    intro x l mean p u
    have hexec := exec_p1sUpdate_of_running hmode x
    refine ⟨fun hmin hmax => ?_, fun hmin hsince => ?_, fun hmax hcalm hage hsince hiso hlevel => ?_⟩
    · exact hexec.trans ((if_neg (Nat.not_lt.2 hmax)).trans (if_neg (fun h => absurd h.1 (Nat.not_le.2 hmin))))
    · exact hexec.trans ((if_pos hmin).trans (if_pos hsince))
    · have hnot : ¬ 985 < p := by omega
      exact hexec.trans ((if_neg hnot).trans (if_pos ⟨hmax, by rw [hcalm]; decide, hage, hsince, by rw [hiso]; decide, hlevel⟩))
  case shutdown => exact exec_energyLimitShutdown_of_excursion hexc hlp hover
  case supercap =>
    show execSupercapLow cap ext s = _
    simp only [execSupercapLow, hmode, ne_eq, not_false_eq_true, and_true]
    split <;> rfl

end Sys2Proof.Proofs
end

section
/-! SUPPORT. What ends with a power change or a reset, what lasts through it, and that the journal's numbering never goes back. -/

namespace Sys2Proof.Machine

variable {s t : State}

/-! ### The journal's numbering never goes back (R426, R427) -/

/-- `f` takes the journal's numbering on, or leaves it. -/
def JournalGrows (f : State → State) : Prop := ∀ s, s.msc.journalSeq ≤ (f s).msc.journalSeq

theorem journalGrows_of_msc {f : State → State} (h : ∀ s, (f s).msc = s.msc) : JournalGrows f := fun s => by rw [h]

theorem setBit_msc (c : Src) (b : Nat) (s : State) : (setBit c b s).msc = s.msc := by
  obtain ⟨_, _, h⟩ := setBit_frame c b s
  rw [h]

theorem ringSignal_msc (i : Nat) (s : State) : (ringSignal i s).msc = s.msc := by
  unfold ringSignal
  dsimp only
  split
  · split
    · obtain ⟨_, _, h⟩ := sendVector_frame (ringOf s i).vector.toNat (setRing i { ringOf s i with unsignalled := 0 } s)
      rw [h]
      rfl
    · rfl
  · rfl

theorem ringStore_msc (i : Nat) (e : List Byte) (s : State) : (ringStore i e s).msc = s.msc := by
  obtain ⟨m, h, hstore⟩ := writeBytes_frame (fit 64 e) ((ringOf s i).entry (ringOf s i).prod) s
  unfold ringStore
  rw [ringSignal_msc, storeTask, hstore]
  rfl

theorem writeGap_msc (i : Nat) (s : State) : (writeGap i s).msc = s.msc := by
  unfold writeGap
  dsimp only
  split
  · rfl
  · split
    · exact ringStore_msc i _ _
    · rfl

theorem eventCopies_msc (c : Src) (e : List Byte) (s : State) : (eventCopies c e s).msc = s.msc := by
  refine each_keeps State.msc _ _ (fun n u => ?_) s
  dsimp only
  split <;> rfl

theorem eventLost_msc (i number : Nat) (s : State) : (eventLost i number s).msc = s.msc := by
  unfold eventLost
  rw [setBit_msc]
  rfl

theorem putEvent_grows (ring number : Nat) (e : List Byte) {fault : State → State} (h : JournalGrows fault) :
    JournalGrows (putEvent ring number e fault) := fun s => by
  have hgap : s.msc.journalSeq = (writeGap ring s).msc.journalSeq := by rw [writeGap_msc]
  rw [hgap]
  unfold putEvent
  dsimp only
  split_ifs
  · rfl
  · rfl
  · rw [ringStore_msc]
  · exact h (ringLost ring (faultRing ring 3 (writeGap ring s)))
  · rw [eventLost_msc]
  · rfl

theorem eventRings_grows (graphRing : Option Nat) {put : Nat → State → State} (h : ∀ r, JournalGrows (put r)) :
    JournalGrows (eventRings graphRing put) := fun s => by
  unfold eventRings
  cases graphRing with
  | none =>
    dsimp only
    split
    · exact h _ s
    · rfl
  | some r =>
    dsimp only
    split
    · exact (h r s).trans (h _ _)
    · exact h r s

theorem journalRecord_grows (c : Src) (b number : Nat) (e : List Byte) (i : EvInfo) : JournalGrows (journalRecord c b number e i) := fun s => by
  unfold journalRecord journalEvent journalOne journalCopy
  dsimp only
  split_ifs <;> simp

theorem writeRecord_grows {fault : Nat → State → State} (h : ∀ r, JournalGrows (fault r)) (c : Src) (b : Nat) (i : EvInfo) :
    JournalGrows (writeRecord c b i fault) := fun s => by
  unfold writeRecord
  dsimp only
  refine Nat.le_trans ?_ (journalRecord_grows ..)
  rw [eventCopies_msc]
  exact eventRings_grows (graphRingOf s i) (fun r => putEvent_grows r _ _ (h r))
    { s with hif := { s.hif with eventNumber := (s.hif.eventNumber + 1) % 2 ^ 64 } }

theorem raiseWith_grows {fault : Nat → State → State} (h : ∀ r, JournalGrows (fault r)) (c : Src) (b : Nat) (i : EvInfo) :
    JournalGrows (raiseWith fault c b i) := fun s => by
  have hset : s.msc.journalSeq = (setBit c b s).msc.journalSeq := by rw [setBit_msc]
  rw [hset]
  unfold raiseWith
  split
  · exact writeRecord_grows h c b i (setBit c b s)
  · exact Nat.le_refl _

theorem raiseFuel_grows (fuel : Nat) (c : Src) (b : Nat) (i : EvInfo) : JournalGrows (raiseFuel fuel c b i) := by
  induction fuel generalizing c b i with
  | zero => exact raiseWith_grows (fun _ => journalGrows_of_msc (setBit_msc .hif 5)) c b i
  | succ n ih => exact raiseWith_grows (fun _ => ih _ _ _) c b i

theorem raise_grows (c : Src) (b : Nat) (i : EvInfo) : JournalGrows (raise c b i) := raiseFuel_grows 2 c b i

theorem ringPushReserved_grows (i : Nat) (e : List Byte) : JournalGrows (ringPushReserved i e) := fun s => by
  unfold ringPushReserved ringPush
  split_ifs
  · rfl
  · rw [ringStore_msc]
    rfl
  · exact raise_grows .hif 5 _ (ringLost i (faultRing i 3 (modRing i (fun r => { r with reserved := r.reserved - 1 }) s)))
  · rfl

theorem PortOnly.journalSeq (h : PortOnly s t) : t.msc.journalSeq = s.msc.journalSeq := by
  obtain ⟨_, _, _, rfl⟩ := h
  rfl

theorem complete_grows (who : Origin) (a : Answer) : JournalGrows (complete who a) := fun s => by
  unfold complete
  cases who with
  | cp n dst seq o quiet =>
    dsimp only
    split
    · rfl
    · rw [(portOnly_sendFrame _ _ s).journalSeq]
  | ring i cookie => exact ringPushReserved_grows _ _ s

/-- The end of a step of system calibration touches the port and the rings alone of what the MSC keeps. -/
theorem abandonStep_grows : JournalGrows abandonStep := fun s => by
  unfold abandonStep
  split
  · rfl
  · dsimp only
    split
    · exact complete_grows _ _ (combsResume (dropSyscal s))
    · rfl

theorem dropWorkAll_grows : JournalGrows dropWorkAll := fun s => abandonStep_grows (leaveAll s)

/-! ### What of the MSC's state lasts while work ends (R365, R377) -/

/-- The mode and the enrolled keys. -/
def State.lasting (s : State) : Mode × List HostKey := (s.msc.mode, s.msc.hostKeys)

theorem PortOnly.lasting (h : PortOnly s t) : t.lasting = s.lasting := by
  obtain ⟨_, _, _, rfl⟩ := h
  rfl

theorem lasting_of_apart (h : t.apart = s.apart) : t.lasting = s.lasting := by
  have hlasting := congrArg (fun q : State => (q.msc.mode, q.msc.hostKeys)) h
  exact hlasting

theorem complete_lasting (who : Origin) (a : Answer) (s : State) : (complete who a s).lasting = s.lasting := by
  unfold complete
  cases who with
  | cp n dst seq o quiet =>
    dsimp only
    split
    · rfl
    · exact (portOnly_sendFrame _ _ s).lasting
  | ring i cookie => exact lasting_of_apart (ringPushReserved_apart _ _ s)

theorem abandonStep_lasting (s : State) : (abandonStep s).lasting = s.lasting := by
  unfold abandonStep
  split
  · rfl
  · dsimp only
    split
    · exact complete_lasting _ _ (combsResume (dropSyscal s))
    · rfl

theorem dropWorkAll_lasting (s : State) : (dropWorkAll s).lasting = s.lasting := abandonStep_lasting (leaveAll s)

theorem endBulk_msc (s : State) : (endBulk s).msc = s.msc := by
  refine each_keeps State.msc _ _ ?_ _
  exact fun _ _ => rfl

theorem complete_mode (who : Origin) (a : Answer) (s : State) : (complete who a s).msc.mode = s.msc.mode :=
  congrArg Prod.fst (complete_lasting who a s)

theorem stateRefused_mode (o : Nat) (s : State) : (stateRefused o s).msc.mode = s.msc.mode := by
  unfold stateRefused
  split
  · exact raise_msc_mode ..
  · exact raise_msc_mode ..
  · rfl

theorem purgeWaiting_mode (s : State) : (purgeWaiting s).msc.mode = s.msc.mode := by
  refine (each_keeps (fun u => u.msc.mode) _ _ (fun w u => ?_) _).trans rfl
  rw [complete_mode, stateRefused_mode]

/-! ### Input interruptions and rails (R373 to R378, R383) -/

theorem raise_hostKeys (c : Src) (b : Nat) (i : EvInfo) (s : State) : (raise c b i s).msc.hostKeys = s.msc.hostKeys := by
  have h := congrArg (fun q : State => q.msc.hostKeys) (raise_apart c b i s)
  exact h

theorem enterMode_hostKeys (m : Mode) (s : State) : (enterMode m s).msc.hostKeys = s.msc.hostKeys := by rw [enterMode, raise_hostKeys]

theorem enterMode_grows (m : Mode) : JournalGrows (enterMode m) := fun s => by
  unfold enterMode
  generalize hu : ({ s with msc := { s.msc with prev := s.msc.mode, mode := m, modeAt := now s } } : State) = u
  have hs : s.msc.journalSeq = u.msc.journalSeq := by rw [← hu]
  rw [hs]
  exact raise_grows .msc 0 {} u

theorem poweredOff_journalSeq (s : State) : (poweredOff s).msc.journalSeq = s.msc.journalSeq := rfl
theorem poweredOff_hostKeys (s : State) : (poweredOff s).msc.hostKeys = s.msc.hostKeys := rfl

/-- The state that an input interruption leaves behind when its record is written (R377). -/
def interrupted (head tail : List Byte) (s : State) : State :=
  { journalTwo head tail (dropWorkAll s) with msc := { (journalTwo head tail (dropWorkAll s)).msc with powerSeen := true } }

theorem interrupted_journalSeq (head tail : List Byte) (s : State) :
    (interrupted head tail s).msc.journalSeq = (dropWorkAll s).msc.journalSeq + 1 := by
  simp only [interrupted, journalTwo, journalCopy]

theorem interrupted_hostKeys (head tail : List Byte) (s : State) : (interrupted head tail s).msc.hostKeys = s.msc.hostKeys := by
  simp only [interrupted, journalTwo, journalCopy]
  exact congrArg Prod.snd (dropWorkAll_lasting s)

theorem inputInterruption_of_running (hmode : s.msc.mode ≠ .off) (cause : Nat) (rail : Byte) :
    ∃ head tail, inputInterruption cause rail s = poweredOff (enterMode .off (interrupted head tail s)) := ⟨_, _, if_neg hmode⟩

/-- An input interruption writes its record, and keeps the enrolled keys. -/
theorem inputInterruption_keeps (hmode : s.msc.mode ≠ .off) (cause : Nat) (rail : Byte) :
    s.msc.journalSeq < (inputInterruption cause rail s).msc.journalSeq
      ∧ (inputInterruption cause rail s).msc.hostKeys = s.msc.hostKeys := by
  obtain ⟨head, tail, h⟩ := inputInterruption_of_running hmode cause rail
  rw [h, poweredOff_journalSeq, poweredOff_hostKeys]
  constructor
  · have hentered := enterMode_grows .off (interrupted head tail s)
    rw [interrupted_journalSeq] at hentered
    exact Nat.lt_of_lt_of_le (Nat.lt_succ_of_le (dropWorkAll_grows s)) hentered
  · rw [enterMode_hostKeys, interrupted_hostKeys]

/-- After an input interruption the module is OFF, its volatile state at reset. -/
theorem inputInterruption_off (hmode : s.msc.mode ≠ .off) (cause : Nat) (rail : Byte) :
    let t := inputInterruption cause rail s
    t.msc.mode = .off ∧ t.tps.groups = 1 ∧ t.mem = [] ∧ t.seq.graphs = [] ∧ t.hif.rings = [] := by
  obtain ⟨head, tail, h⟩ := inputInterruption_of_running hmode cause rail
  rw [h]
  exact ⟨rfl, rfl, rfl, rfl, rfl⟩

/-- The state in which a rail that does not come up leaves the module, before its event (R383). -/
def railStopped (s : State) : State :=
  let s := loseStaging (loseLpddr (loseHbm (dischargeAll (sourcesOff s))))
  { s with regions := [], tps := { s.tps with groups := 3 }, msc := { s.msc with resetting := none, running := true } }

theorem exec_railFault_of_standby {group : Nat} (hsequencing : sequencing s = true) (hmin : 2 ≤ group) (hmax : group ≤ 5)
    (hmode : s.msc.mode = .standby) : exec (.railFault group) s = .next (raise .tps 18 { unit := some group } (railStopped s)) := by
  have htaken : ¬ (¬ sequencing s = true ∨ group < 2 ∨ 5 < group) := by
    simp only [hsequencing, not_true_eq_false, false_or]
    omega
  have hstopped : (railStopped s).msc.mode = .standby := hmode
  exact (if_neg htaken).trans (congrArg _ (congrArg _ (if_pos hstopped)))

theorem raise_regions_nil (h : s.regions = []) (c : Src) (b : Nat) (i : EvInfo) : (raise c b i s).regions = [] := by
  have hregions := raise_regions c b i s
  rwa [h, List.map_nil, List.map_eq_nil_iff] at hregions

/-! ### A cold reset (R394, R397, R398) -/

theorem exec_resetNPulse_of_idle (hmode : s.msc.mode = .idle) (hlight : resetLight s = true) :
    exec .resetNPulse s = .next (beginReset .cold 2 s) := by
  show execResetNPulse s = _
  rw [execResetNPulse, hmode]
  exact if_pos hlight

/-- The state whose contents a cold reset from a running state takes: its work has ended. -/
def coldReady (s : State) : State := endBulk (dropWorkAll (abandonStep (endUpdate s)))

theorem beginReset_cold (source : Nat) (s : State) : beginReset .cold source s = { coldContents (coldReady s) with
    msc := { (coldContents (coldReady s)).msc with running := false, resetting := some (.reset .cold source) } } := rfl

theorem coldReady_lasting (s : State) : (coldReady s).lasting = s.lasting := by
  have hbulk : (coldReady s).lasting = (dropWorkAll (abandonStep (endUpdate s))).lasting :=
    congrArg (fun m : Msc => (m.mode, m.hostKeys)) (endBulk_msc _)
  rw [hbulk, dropWorkAll_lasting, abandonStep_lasting]
  rfl

theorem abandonStep_of_none (h : s.cal.sysRun = none) : abandonStep s = dropSyscal s := by rw [abandonStep, h]

theorem coldReady_journalSeq (h : s.cal.sysRun = none) : (coldReady s).msc.journalSeq = s.msc.journalSeq := by
  rw [coldReady, endBulk_msc, abandonStep_of_none (s := endUpdate s) h, dropWorkAll, abandonStep_of_none rfl]
  rfl

/-- A range of memory that is lost holds no cell. -/
theorem outside_of_mem_lose {lo hi k : Nat} {v : Byte} {m : List Host.Cell} (h : (k, v) ∈ Memory.lose lo hi m) : k < lo ∨ hi ≤ k := by
  simp only [Memory.lose, List.mem_filter, Bool.or_eq_true, decide_eq_true_eq] at h
  exact h.2

theorem coldContents_mem_outside {k : Nat} {v : Byte} (h : (k, v) ∈ (coldContents s).mem) :
    hbmEnd ≤ k ∧ (k < stagingBase ∨ stagingEnd ≤ k) := by
  have hstaging : (k, v) ∈ Memory.lose stagingBase stagingEnd (Memory.lose 0 hbmEnd s.mem) := h
  have hhbm : (k, v) ∈ Memory.lose 0 hbmEnd s.mem := (List.mem_filter.1 hstaging).1
  have hleft := outside_of_mem_lose hhbm
  exact ⟨by omega, outside_of_mem_lose hstaging⟩

/-- Every stall's holds are discharged by a cold reset. -/
theorem coldContents_holds (s : State) : (coldContents s).stalls.all (fun st => !st.front.valid && !st.shadow.valid) = true := by
  show (s.stalls.map _).all _ = true
  rw [List.all_map]
  exact List.all_eq_true.2 (fun _ _ => rfl)

end Sys2Proof.Machine

namespace Sys2Proof.Proofs

open Sys2Proof.Machine

/-- Settles O52: each row of the input meets the mode, and an interruption ends in OFF with its record written. -/
theorem inputPower : Obligations.InputPower := by
  unfold Obligations.InputPower
  intro s
  refine ⟨rfl, rfl, fun hmode hen hlatch => ?qualified, fun hmode => if_pos hmode, fun hmode => if_pos hmode, fun hmode => ?interrupted,
    fun group hsequencing hmin hmax hmode => ?rail⟩
  case qualified => exact if_pos ⟨hmode, hen, by rw [hlatch]; decide⟩
  case interrupted =>
    have hunder : exec .inputUndervoltage s = .next (inputInterruption 1 0xFF s) := if_neg hmode
    obtain ⟨hjournal, hkeys⟩ := inputInterruption_keeps hmode 1 0xFF
    obtain ⟨hoff, hgroups, hmem, hgraphs, hrings⟩ := inputInterruption_off hmode 1 0xFF
    exact ⟨⟨_, hunder, hoff, hgroups, hjournal, hmem, hgraphs, hrings, hkeys⟩, hunder, rfl, rfl, rfl,
      fun group hmin hmax hup => if_pos ⟨hmin, hmax, hup⟩⟩
  case rail =>
    refine ⟨_, exec_railFault_of_standby hsequencing hmin hmax hmode, ?_, ?_, ?_, ?_, ?_⟩
    · rw [raise_msc_mode]
      exact hmode
    · rw [raise_tps]
      rfl
    · rw [raise_msc_resetting]
      rfl
    · exact raise_regions_nil rfl ..
    · exact raise_sets (by decide) .tps _ _

/-- Settles O55: the contents of a cold reset start from the flash, and what it keeps lasts through the end of work. -/
theorem coldReset : Obligations.ColdReset := by
  unfold Obligations.ColdReset
  intro s hmode hlight
  have hlasting := coldReady_lasting s
  refine ⟨_, (exec_resetNPulse_of_idle hmode hlight).trans (congrArg _ (beginReset_cold 2 s)), rfl, rfl, rfl, rfl, rfl, coldContents_holds _,
    rfl, fun hnone => coldReady_journalSeq hnone, congrArg Prod.snd hlasting, (congrArg Prod.fst hlasting).trans hmode,
    fun k v h => coldContents_mem_outside h⟩

end Sys2Proof.Proofs
end

section
/-! SUPPORT. What a sensor's sample leaves of the sensors, how Frost is entered, and the timers of levels and of fast sampling. -/

namespace Sys2Proof.Machine

variable {s : State}

/-! ### The sensors through a sample (R355 to R358, R364, R365) -/

theorem setFast_sensors (d : Nat) (s : State) : (setFast d s).tps.sensors = s.tps.sensors := by
  unfold setFast
  dsimp only
  split
  · rw [raise_tps]
    rfl
  · rfl

theorem domainLevel_sensors (d : Nat) (s : State) : (domainLevel d s).tps.sensors = s.tps.sensors := by
  unfold domainLevel
  split
  · rfl
  · dsimp only
    split
    · rw [raise_tps]
      rfl
    · rfl

theorem levelChange_sensors (old : Nat) (s : State) : (levelChange old s).tps.sensors = s.tps.sensors := by
  obtain ⟨_, _, h⟩ := levelChange_tps old s
  rw [h]

theorem heaterFeed_tps (i : Nat) (s : State) : (heaterFeed i s).tps = s.tps := by
  unfold heaterFeed
  split
  · rfl
  · refine each_keeps State.tps _ _ ?_ s
    exact fun _ _ => rfl

/-- What a sensor shows: its reading, and that it has been sampled. -/
def Sensor.shown (x : Sensor) : Int × Bool := (x.temp, x.sampled)

theorem speedUp_shown (l : List Nat) (s : State) (j : Nat) : (sensorAt (speedUp l s) j).shown = (sensorAt s j).shown := by
  refine each_keeps (fun u => (sensorAt u j).shown) _ _ (fun i u => ?_) s
  show ((update u.tps.sensors i _).getD j {}).shown = (u.tps.sensors.getD j {}).shown
  by_cases h : j = i
  · subst h
    refine update_getD_keeps _ _ _ Sensor.shown {} ?_
    exact fun _ => rfl
  · rw [update_getD_other _ _ _ h]

theorem fastChange_shown (i : Nat) (s : State) (j : Nat) : (sensorAt (fastChange i s) j).shown = (sensorAt s j).shown := by
  unfold fastChange
  dsimp only
  split
  · rw [speedUp_shown, speedUp_shown]
  · exact speedUp_shown ..

theorem sensorAt_of_sensors {t : State} (h : t.tps.sensors = s.tps.sensors) (i : Nat) : sensorAt t i = sensorAt s i := by
  rw [sensorAt, h, sensorAt]

theorem journalTwo_mode (head tail : List Byte) (s : State) : (journalTwo head tail s).msc.mode = s.msc.mode := rfl

/-- Frost entered ends in FROST. -/
theorem enterFrost_mode (cause sensor : Nat) (t : Int) (s : State) : (enterFrost cause sensor t s).msc.mode = .frost := by
  unfold enterFrost
  rw [raise_msc_mode, journalTwo_mode, purgeWaiting_mode, enterMode_mode]

/-- The check of the Frost thresholds leaves the state, or ends in FROST. -/
theorem frostCheck_cases (s : State) : frostCheck s = s ∨ (frostCheck s).msc.mode = .frost := by
  unfold frostCheck
  split
  · exact .inl rfl
  · dsimp only
    split
    · exact .inl rfl
    · exact .inr (enterFrost_mode ..)

/-- Sensor `i` with an acceptable reading `t`. -/
def readSensor (i : Nat) (t : Int) (good : Bool) (s : State) : State :=
  let s := modSensor i (fun x => { x with temp := t, valid := good, sampled := true }) s
  if good then each (sensorZones i) (fun z s => modZone z (fun x => { x with sensorBad := false }) s) s else s

theorem readSensor_shown {i : Nat} (hi : i < s.tps.sensors.length) (t : Int) (good : Bool) :
    (sensorAt (readSensor i t good s) i).shown = (t, true) := by
  have hset : (sensorAt (modSensor i (fun x => { x with temp := t, valid := good, sampled := true }) s) i).shown = (t, true) := by
    show ((update s.tps.sensors i _).getD i {}).shown = _
    rw [update_getD _ _ _ _ (.inr hi)]
    rfl
  unfold readSensor
  dsimp only
  split
  · refine Eq.trans ?_ hset
    refine congrArg Sensor.shown (sensorAt_of_sensors (each_keeps (fun u => u.tps.sensors) _ _ ?_ _) i)
    exact fun _ _ => rfl
  · exact hset

/-- What follows a reading that stands: the rates, the level, the heaters and the references. -/
def followSample (i : Nat) (t : Int) (good jump : Bool) (s : State) : State :=
  let s := if jump then fastChange i s else s
  let s := withLevel (domainLevel (sensorDomain i)) (setFast (sensorDomain i) s)
  let s := if i < 128 then setFast 1 s else s
  heaterFeed i (if good then compensate i t s else s)

theorem followSample_shown (i : Nat) (t : Int) (good jump : Bool) (s : State) (j : Nat) :
    (sensorAt (followSample i t good jump s) j).shown = (sensorAt s j).shown := by
  unfold followSample
  extract_lets u v w
  have hu : (sensorAt u j).shown = (sensorAt s j).shown := by
    show (sensorAt (if jump = true then fastChange i s else s) j).shown = _
    split
    · exact fastChange_shown i s j
    · rfl
  have hv : v.tps.sensors = u.tps.sensors := by
    show (levelChange _ (domainLevel _ (setFast _ u))).tps.sensors = _
    rw [levelChange_sensors, domainLevel_sensors, setFast_sensors]
  have hw : w.tps.sensors = v.tps.sensors := by
    show (if i < 128 then setFast 1 v else v).tps.sensors = _
    split
    · exact setFast_sensors 1 v
    · rfl
  have hend : (heaterFeed i (if good = true then compensate i t w else w)).tps.sensors = w.tps.sensors := by
    rw [heaterFeed_tps]
    split <;> rfl
  rw [sensorAt_of_sensors (hend.trans (hw.trans hv)), hu]

theorem exec_sensorSample_of_listed {i : Nat} {t : Int} (hi : i < 278) (hmode : s.msc.mode ≠ .off)
    (hpower : domainPowered s (sensorDomain i) = true) (hmin : -640 ≤ t) (hmax : t ≤ 2400) : ∃ good jump,
    exec (.sensorSample i t) s = .next (frostCheck (followSample i t good jump (readSensor i t good s))) := by
  have htaken : ¬ (278 ≤ i ∨ s.msc.mode = .off ∨ ¬ domainPowered s (sensorDomain i) = true) := by
    simp only [hmode, hpower, not_true_eq_false, or_false, Nat.not_le]
    exact hi
  have hlisted : ¬ (t < -640 ∨ 2400 < t) := by omega
  exact ⟨_, _, (if_neg htaken).trans (if_neg hlisted)⟩

/-! ### Timers (R357, R358, R361) -/

theorem now_advanceTo {t : Nat} (hpast : now s ≤ t) (hbound : t < 2 ^ 64) : now (advanceTo t s) = t := by
  show (s.tsl.hallTime + (t - s.tsl.hallTime)) % 2 ^ 64 = t
  have hsum : s.tsl.hallTime + (t - s.tsl.hallTime) = t := Nat.add_sub_of_le hpast
  rw [hsum, Nat.mod_eq_of_lt hbound]

/-- A domain at level 1 leaves it 10 ms after its reading fell below. -/
theorem exec_thermalLevelLeave_of_first {d t : Nat} (hlevel : (domainAt s d).level = 1) (hbelow : (domainAt s d).below.getD 0 none = some t)
    (hpast : now s ≤ t + 10000000) (hbound : t + 10000000 < 2 ^ 64) : exec (.thermalLevelLeave d) s
      = .next (withLevel (modDomain d (fun x => { x with level := 0 })) (advanceTo (t + 10000000) s)) := by
  have hnow := now_advanceTo hpast hbound
  rw [List.getD_eq_getElem?_getD] at hbelow
  show execThermalLevelLeave d s = _
  simp [execThermalLevelLeave, hlevel, hbelow, hnow]

theorem exec_sensorInvalid_of_valid {i : Nat} (hi : i < 278) (hmode : s.msc.mode ≠ .off) (hpower : domainPowered s (sensorDomain i) = true)
    (hvalid : (sensorAt s i).valid = true) : exec (.sensorInvalid i) s = .next (invalidate i s) :=
  if_neg (by simp [hmode, hpower, hvalid, hi])

theorem exec_hardwareTrip_of_valid {i : Nat} {t : Int} (hi : i < 278) (hmode : s.msc.mode ≠ .off) (hmin : 1840 ≤ t) (hmax : t ≤ 2400)
    (hpower : domainPowered s (sensorDomain i) = true) (hvalid : (sensorAt s i).valid = true) : exec (.hardwareTrip i t) s
      = .next (poweredOff { s with tps := { s.tps with trip := some (i, t, s.msc.calS, s.msc.calNs) } }) :=
  if_neg (by simp [hmode, hpower, hvalid, hi, hmin, hmax])

end Sys2Proof.Machine

namespace Sys2Proof.Proofs

open Sys2Proof.Machine

/-- Settles O51: a sample's reading stands through all that follows it but Frost, and each timer does its step. -/
theorem temperatures : Obligations.Temperatures := by
  unfold Obligations.Temperatures
  intro s
  refine ⟨fun i t hi hlength hmode hpower hmin hmax => ?sample, fun i => exec_sensorInvalid_of_valid,
    fun d t => exec_thermalLevelLeave_of_first, fun h => if_neg (Nat.not_le.2 h), fun d hd h => ?fast,
    fun i t hi hmode hmin hmax hpower hvalid => ?trip⟩
  case sample =>
    obtain ⟨good, jump, hexec⟩ := exec_sensorSample_of_listed hi (by rw [hmode]; decide) hpower hmin (hmax.trans (by decide))
    refine ⟨_, hexec, ?_⟩
    rcases frostCheck_cases (followSample i t good jump (readSensor i t good s)) with hkept | hfrost
    · rw [hkept]
      have hshown := (followSample_shown i t good jump (readSensor i t good s) i).trans (readSensor_shown hlength t good)
      exact .inl ⟨congrArg Prod.fst hshown, congrArg Prod.snd hshown⟩
    · exact .inr hfrost
  case fast =>
    refine if_neg ?_
    rintro (hzero | hover)
    · exact h hzero
    · omega
  case trip => exact ⟨_, exec_hardwareTrip_of_valid hi hmode hmin hmax hpower hvalid, rfl, rfl, rfl, rfl, rfl, rfl⟩

end Sys2Proof.Proofs
end

section
/-! SUPPORT. The end of a task neither takes a fault from a unit nor clears an event bit, and what the watchdog and the front end do. -/

namespace Sys2Proof.Machine

variable {s t u : State}

/-! ### Faulted units and event bits through the end of a task (R340, R402, R465) -/

/-- From `s` to `t` the faulted units stay, and no event bit is cleared. -/
def Marks (s t : State) : Prop := t.msc.units = s.msc.units ∧ ∀ c b, s.hasBit c b → t.hasBit c b

theorem Marks.refl (s : State) : Marks s s := ⟨rfl, fun _ _ h => h⟩

theorem Marks.trans (h : Marks s t) (k : Marks t u) : Marks s u := ⟨k.1.trans h.1, fun c b hb => k.2 c b (h.2 c b hb)⟩

/-- What leaves the event bits and the MSC's state leaves the marks. -/
theorem Marks.of_same (hmsc : t.msc = s.msc) (hev : t.ev = s.ev) : Marks s t :=
  ⟨by rw [hmsc], fun c b h => by rw [State.hasBit, hev]; exact h⟩

theorem marks_ite {c : Prop} {_ : Decidable c} (ht : Marks s t) (hu : Marks s u) : Marks s (if c then t else u) := by
  split
  · exact ht
  · exact hu

theorem marks_each {α : Type} (l : List α) {f : α → State → State} (h : ∀ a s, Marks s (f a s)) (s : State) : Marks s (each l f s) := by
  induction l generalizing s with
  | nil => exact Marks.refl s
  | cons a r ih => exact (h a s).trans (ih (f a s))

theorem marks_raise (c : Src) (b : Nat) (i : EvInfo) (s : State) : Marks s (raise c b i s) := by
  have hunits := congrArg (fun q : State => q.msc.units) (raise_apart c b i s)
  exact ⟨hunits, raise_clearsNoBit c b i s⟩

theorem marks_ringPush (i : Nat) (e : List Byte) (s : State) : Marks s (ringPush i e s) := by
  unfold ringPush
  split
  · exact .of_same rfl rfl
  · split
    · split
      · exact .of_same (ringStore_msc i e s) (ringStore_ev i e s)
      · exact Marks.trans (t := ringLost i (faultRing i 3 s)) (.of_same rfl rfl) (marks_raise ..)
    · exact .refl s

theorem marks_ringPushReserved (i : Nat) (e : List Byte) (s : State) : Marks s (ringPushReserved i e s) :=
  Marks.trans (t := modRing i (fun r => { r with reserved := r.reserved - 1 }) s) (.of_same rfl rfl) (marks_ringPush ..)

theorem marks_modGraph (slot : Nat) (f : Graph → Graph) (s : State) : Marks s (modGraph slot f s) := .of_same rfl rfl
theorem marks_modRing (i : Nat) (f : Ring → Ring) (s : State) : Marks s (modRing i f s) := .of_same rfl rfl

theorem marks_postRunEntry (slot type : Nat) (status : BitVec 16) (task list missing moved : Nat) (s : State) :
    Marks s (postRunEntry slot type status task list missing moved s) := by
  unfold postRunEntry
  split
  · exact .refl s
  · dsimp only
    split
    · split
      · exact (marks_modGraph slot _ s).trans (marks_ringPushReserved ..)
      · exact marks_ringPush ..
    · exact marks_ringPush ..

theorem marks_recordEnd (slot k : Nat) (status : BitVec 16) (missing moved : Nat) (s : State) :
    Marks s (recordEnd slot k status missing moved s) := by
  unfold recordEnd
  split
  · exact .refl s
  · dsimp only
    generalize hv : modGraph slot _ s = v
    have hmarked : Marks s v := hv ▸ marks_modGraph slot _ s
    refine hmarked.trans ?_
    split
    · refine Marks.trans ?_ (marks_postRunEntry ..)
      exact marks_ite (.of_same rfl rfl) (.refl v)
    · exact marks_ite (.of_same rfl rfl) (.refl v)

theorem marks_recordNotRun (slot k : Nat) (status : BitVec 16) (missing moved : Nat) (s : State) :
    Marks s (recordNotRun slot k status missing moved s) := by
  unfold recordNotRun
  split
  · exact .refl s
  · dsimp only
    have hend := marks_recordEnd slot k status missing moved s
    split
    · exact hend.trans (marks_each _ (fun _ u => marks_postRunEntry _ _ _ _ _ _ _ u) _)
    · exact hend

theorem marks_settle (slot : Nat) (s : State) : Marks s (settle slot s) := by
  unfold settle
  split
  · exact .refl s
  · refine marks_each _ (fun k u => ?_) s
    dsimp only
    split
    · exact .refl u
    · exact marks_ite (marks_recordNotRun ..) (.refl u)

theorem marks_leaveResidence (slot : Nat) (s : State) : Marks s (leaveResidence slot s) := by
  unfold leaveResidence
  dsimp only
  split
  · refine Marks.trans ?_ (marks_raise ..)
    exact ⟨rfl, fun _ _ h => h⟩
  · exact .of_same rfl rfl

theorem marks_runCloses (i : Nat) (s : State) : Marks s (runCloses i s) := by
  unfold runCloses closeBatch
  dsimp only
  split_ifs
  · exact .refl s
  · exact .of_same rfl rfl
  · exact .refl s
  · exact ⟨rfl, fun _ _ h => h⟩

theorem marks_finishRun (slot : Nat) (s : State) : Marks s (finishRun slot s) := by
  unfold finishRun
  split
  · exact .refl s
  next g _ =>
    split
    · exact .refl s
    next r _ =>
      split
      · extract_lets bad v left w x y z
        have hv : Marks s v := marks_postRunEntry ..
        have hw : Marks v w := marks_modRing ..
        have hx : Marks w x := marks_ite (.refl w) (marks_modRing ..)
        have hy : Marks x y := marks_ite (marks_runCloses ..) (.refl x)
        have hz : Marks y z := marks_modGraph ..
        have hends := hv.trans (hw.trans (hx.trans (hy.trans hz)))
        clear_value z
        split
        · refine Marks.trans ?_ (marks_leaveResidence ..)
          exact hends.trans (.of_same rfl rfl)
        · exact hends.trans (.of_same rfl rfl)
      · exact .refl s

theorem marks_dropWork (slot k : Nat) (s : State) : Marks s (dropWork slot k s) := .of_same rfl rfl

theorem marks_endWith {record : State → State} (hrecord : ∀ s, Marks s (record s)) (slot k : Nat) (status : BitVec 16) (s : State) :
    Marks s (endWith record slot k status s) := by
  unfold endWith
  split
  · exact .refl s
  · split
    · exact .refl s
    · split
      · exact .refl s
      · extract_lets x v w squ y
        have hv : Marks s v := marks_ite (marks_modGraph ..) (.refl s)
        have hw : Marks v w := (hrecord v).trans (marks_dropWork ..)
        clear_value w
        have hy : Marks w y := .of_same rfl rfl
        refine (hv.trans (hw.trans hy)).trans (Marks.trans ?_ (marks_finishRun ..))
        exact marks_ite (.refl y) (marks_settle slot y)

theorem marks_egressOutcome (status : BitVec 16) (s : State) : Marks s (egressOutcome status s).2 := by
  unfold egressOutcome
  split
  · exact Marks.trans (.of_same rfl rfl) (marks_raise ..)
  · exact .refl s

theorem marks_taskEnd (slot k : Nat) (status : BitVec 16) (missing moved : Nat) (s : State) :
    Marks s (taskEnd slot k status missing moved s) :=
  (marks_egressOutcome status s).trans (marks_endWith (marks_recordNotRun _ _ _ _ _) ..)

theorem marks_endFaulted (ts : List (Nat × Nat)) (s : State) : Marks s (endFaulted ts s) :=
  marks_each ts (fun (q : Nat × Nat) u => marks_taskEnd q.1 q.2 _ _ _ u) s

/-! ### Watchdogs (R402, R404) -/

/-- The state in which a unit is FAULTED, before its event. -/
def unitFaulted (block half : Nat) (s : State) : State :=
  let again := decide (1 ≤ unitFaults s block half) && decide (block ≠ 11)
  { s with msc := { s.msc with
    units := s.msc.units ++ [(block, half)]
    unitHist := (block, half, s.seq.epoch) :: s.msc.unitHist
    refault0 := if again && half == 0 then sat 255 (s.msc.refault0 + 1) else s.msc.refault0
    refault1 := if again && half == 1 then sat 255 (s.msc.refault1 + 1) else s.msc.refault1 } }

theorem exec_unitWatchdogExpiry_of_late {block half : Nat} (hruns : running s = true) (hunit : unitExists block half = true)
    (hhealthy : s.msc.units.contains (block, half) = false) : ∃ ts i,
    exec (.unitWatchdogExpiry block half) s = .next (endFaulted ts (raise .msc 5 i (unitFaulted block half s))) := by
  have hlate : ¬ ((!running s) = true ∨ (!unitExists block half) = true ∨ s.msc.units.contains (block, half) = true) := by
    rw [hruns, hunit, hhealthy]
    decide
  exact ⟨_, _, if_neg hlate⟩

theorem trialRevert_of_none {c : Nat} (h : (fwOf s c).trial = none) : trialRevert c s = s := by
  rw [trialRevert, h]
  rfl

section
variable (hruns : s.msc.running = true) (hmode : s.msc.mode = .idle)
include hruns hmode

/-- The MSC core runs in a state in which its watchdog acts. -/
theorem watchdog_acts : ¬ (s.msc.running = false ∨ s.msc.mode = .off ∨ s.msc.mode = .recovery) := by
  rw [hruns, hmode]
  decide

theorem exec_mscWatchdogExpiry_of_third (hthird : 2 ≤ (s.msc.wdTimes.filter (fun t => decide (now s < t + 60000000000))).length) :
    exec .mscWatchdogExpiry s = .next (enterRecovery s) := (if_neg (watchdog_acts hruns hmode)).trans (if_pos hthird)

theorem exec_mscWatchdogExpiry_of_first (hfirst : s.msc.wdTimes = []) (htrial : (fwOf s 0).trial = none) :
    exec .mscWatchdogExpiry s = .next (raise .msc 4 {} (mscRestart
      { s with msc := { s.msc with wdTimes := [now s], wdTotal := sat 255 (s.msc.wdTotal + 1) } })) := by
  refine (if_neg (watchdog_acts hruns hmode)).trans ?_
  rw [hfirst]
  refine (if_neg (by simp)).trans ?_
  exact congrArg (fun u => Host.Outcome.next (raise .msc 4 {} (mscRestart u))) (trialRevert_of_none htrial)

end

/-! ### The front end (R406) -/

theorem exec_frontEndFallback_of_powerOff {who : Origin} (hsilent : s.msc.running = false) (hwaits : s.msc.waiting = [(who, .powerOff)]) :
    exec .frontEndFallback s = .next (beginAction .powerOff (complete who (Status.ok, 0, []) { s with msc := { s.msc with waiting := [] } })) := by
  refine (if_neg (by rw [hsilent]; decide)).trans ?_
  rw [hwaits]
  simp [fallbackAction]

end Sys2Proof.Machine

namespace Sys2Proof.Proofs

open Sys2Proof.Machine

/-- Settles O56: the fault and its event stand through the end of the unit's tasks, and the core and the front end meet their conditions. -/
theorem watchdogs : Obligations.Watchdogs := by
  unfold Obligations.Watchdogs
  intro s
  refine ⟨fun block half hruns hunit hhealthy => ?unit, fun hruns hmode hfirst htrial => ?restart,
    fun hruns hmode hthird => exec_mscWatchdogExpiry_of_third hruns hmode hthird, fun who => exec_frontEndFallback_of_powerOff⟩
  case unit =>
    obtain ⟨ts, i, hexec⟩ := exec_unitWatchdogExpiry_of_late hruns hunit hhealthy
    have hevent := raise_sets (b := 5) (by decide) .msc i (unitFaulted block half s)
    have hraised := marks_raise .msc 5 i (unitFaulted block half s)
    have hended := marks_endFaulted ts (raise .msc 5 i (unitFaulted block half s))
    refine ⟨_, hexec, ?_, hended.2 .msc 5 hevent⟩
    rw [(hraised.trans hended).1]
    exact List.mem_append_right _ (List.mem_singleton_self _)
  case restart => exact exec_mscWatchdogExpiry_of_first hruns hmode hfirst htrial

end Sys2Proof.Proofs
end

section
/-! SUPPORT. The firmware's timers, the install in RECOVERY and the journal's gap record, each under the condition in which it acts. -/

namespace Sys2Proof.Machine

variable {s : State}

/-! ### The update lock and trials (R419, R420, R425) -/

/-- A single held manifest is the whole of either order of arbitration. -/
theorem arbitrationOrder_of_single (h : Held) : [h].filter fromPort ++ [h].filter (fun h => !fromPort h) = [h] := by
  cases hport : fromPort h <;> simp [hport]

/-- Every held manifest is arbitrated: those of the control port first, and each in its order of arrival. -/
def arbitrateAll (t : State) : State :=
  each (t.msc.held.filter fromPort ++ t.msc.held.filter (fun h => !fromPort h)) arbitrate { t with msc := { t.msc with held := [] } }

theorem arbitrateAll_of_single {h : Held} {t : State} (hheld : t.msc.held = [h]) :
    arbitrateAll t = arbitrate h { t with msc := { t.msc with held := [] } } := by
  rw [arbitrateAll, hheld, arbitrationOrder_of_single]
  rfl

theorem exec_updateArbitrationEnd_of_single {h : Held} (hheld : s.msc.held = [h]) (hruns : s.msc.running = true) :
    exec .updateArbitrationEnd s = .next (let t := advanceTo ((now s / 1000000 + 1) * 1000000) s
      arbitrate h { t with msc := { t.msc with held := [] } }) := by
  have hacts : ¬ (s.msc.held.isEmpty = true ∨ s.msc.running = false) := by
    simp [hheld, hruns]
  have hall : exec .updateArbitrationEnd s = .next (arbitrateAll (advanceTo ((now s / 1000000 + 1) * 1000000) s)) := by
    show execUpdateArbitrationEnd s = _
    rw [execUpdateArbitrationEnd, if_neg hacts]
    rfl
  have hkept (n : Nat) : (advanceTo n s).msc.held = [h] := hheld
  exact hall.trans (congrArg Host.Outcome.next (arbitrateAll_of_single (hkept _)))

theorem exec_updateLockTimeout_of_locked {u : UpdSession} (hlock : s.msc.update = some u) :
    exec .updateLockTimeout s = .next (let t := advanceTo (u.lastAt + 60000000000) s
      { t with msc := { t.msc with update := none } }) := by
  show execUpdateLockTimeout s = _
  rw [execUpdateLockTimeout, hlock]

theorem exec_trialEnd_of_trial {c t : Nat} (htrial : (fwOf s c).trial = some t) :
    exec (.trialEnd c) s = .next (let u := modFw c (fun f => { f with trial := none }) (advanceTo t s)
      journalSlot 2 c (fwOf s c).active (commitCounter c ((fwOf s c).security.getD (fwIndex (fwOf s c).active) 0) u)) := by
  show execTrialEnd c s = _
  rw [execTrialEnd, htrial]
  rfl

/-! ### Recovery over the bulk port (R430) -/

/-- The end of an install that failed with a status. -/
def recoveryFailed (status : BitVec 16) (s : State) : State := { s with msc := { s.msc with rcvState := 5, rcvStatus := status } }

section
variable (hmode : s.msc.mode = .recovery) (hasked : s.msc.rcvState = 1)
include hmode hasked

theorem recoveryInstall_acts : ¬ (s.msc.mode ≠ .recovery ∨ s.msc.rcvState ≠ 1) := by
  rw [hmode, hasked]
  decide

theorem exec_recoveryInstall_of_unserved (hserves : serves s windowBase 1344 false = false) :
    exec .recoveryInstall s = .next (recoveryFailed Status.addressInvalid s) :=
  (if_neg (recoveryInstall_acts hmode hasked)).trans (if_pos (by rw [hserves]; rfl))

theorem exec_recoveryInstall_of_refused {e : BitVec 16 × Nat} (hserves : serves s windowBase 1344 false = true)
    (hcheck : manifestCheck s (manifestOf (readBytes s windowBase 1344)) = some e) :
    exec .recoveryInstall s = .next (recoveryFailed e.1 (manifestRefused (manifestOf (readBytes s windowBase 1344)) e.2 s)) := by
  refine (if_neg (recoveryInstall_acts hmode hasked)).trans ((if_neg (by rw [hserves]; decide)).trans ?_)
  dsimp only
  rw [hcheck]
  rfl

end

theorem exec_recoveryReset_of_done (hmode : s.msc.mode = .recovery) (hdone : s.msc.rcvState = 4) (hfree : s.msc.resetting = none) :
    exec .recoveryReset s = .next (beginReset .powerOn 8 (advanceTo (s.msc.rcvAt + 1000000) s)) :=
  if_pos ⟨hmode, hdone, by rw [hfree]; rfl⟩

/-! ### The journal (R427) -/

theorem exec_journalGapRecord_of_gap {g : Nat × Nat} (hgap : s.msc.jGap = some g) :
    exec .journalGapRecord s = .next (let t := advanceTo ((s.msc.jSecond + 1) * 1000000000) s
      raise .msc 23 {} (journalOne [0x72] (le 8 g.1 ++ le 4 g.2) { t with msc := { t.msc with jGap := none } })) := by
  show execJournalGapRecord s = _
  rw [execJournalGapRecord, hgap]

end Sys2Proof.Machine

namespace Sys2Proof.Proofs

open Sys2Proof.Machine

/-- Settles O57: each row acts under its own condition; the install follows the manifest check and then the digest. -/
theorem firmwareAndJournal : Obligations.FirmwareAndJournal := by
  unfold Obligations.FirmwareAndJournal
  intro s
  refine ⟨fun _ => exec_updateArbitrationEnd_of_single, fun _ => exec_updateLockTimeout_of_locked, fun _ _ => exec_trialEnd_of_trial,
    exec_recoveryInstall_of_unserved, ?install, exec_recoveryReset_of_done, fun _ => exec_journalGapRecord_of_gap⟩
  case install =>
    intro hmode hasked hserves m c slot image failed himage
    cases hcheck : manifestCheck s m with
    | some e => exact exec_recoveryInstall_of_refused hmode hasked hserves hcheck
    | none =>
      refine (if_neg (recoveryInstall_acts hmode hasked)).trans ((if_neg (by rw [hserves]; decide)).trans ?_)
      dsimp only
      rw [hcheck]
      refine (if_neg (by rw [himage]; decide)).trans ?_
      by_cases hdigest : le 32 (Config.shake256 image).toNat = fit 32 m.digest
      · exact (if_neg (not_not_intro hdigest)).trans (congrArg _ (if_pos hdigest).symm)
      · exact (if_pos hdigest).trans (congrArg _ (if_neg hdigest).symm)

end Sys2Proof.Proofs
end
